-- ==== Sys2Proof/Word.lean ====
section
/-!
DEFINITION. The word types of the part and the sparse map that every store of the model is built on.
Widths follow Table 2-7 (registers), R8 (bytes) and Table 11-1 (64-byte lines).
-/

namespace Sys2Proof

/-- A 64-bit register, R74. -/
abbrev Word := BitVec 64

/-- One byte, R8. -/
abbrev Byte := BitVec 8

/-- A sparse map: keys strictly rising, and no entry equal to what an unlisted key reads as. Memories, register
files and tables are all held so; the operations are in Machine/Maps.lean. -/
abbrev FMap (α : Type) := List (Nat × α)

/-- A byte memory: a list of (address, byte) cells in the canonical form of `FMap`. -/
abbrev Mem := FMap Byte

end Sys2Proof
end

