-- ==== Sys2Proof/Syntax.lean ====
section
/-!
DEFINITION. The commands of the part: one constructor of `Instr` per row of the table of operations and events.
Instruction rows carry the framing of the instruction a thread's decoder holds at its IP (R55); event rows carry
what their agent or the environment decides (a sensor's value, a far node's answer, whether a program verified).
-/

namespace Sys2Proof

/-- A scalar Niyvin instruction as framed (R55): the thread it is in, its prefix bytes, its operand field (R63, bit 0
is bit 0 of operand byte 0) and the bytes of its immediate or displacement as one little-endian number. -/
structure Insn where
  thread   : Nat
  prefixes : List Byte
  opnd     : BitVec 24
  imm      : Word
  deriving DecidableEq, Repr

/-- The row of NOP carries its opcode bytes too: an opcode that no instruction has (R61, R62) comes to its fault there. -/
structure NopInsn where
  insn : Insn
  op   : Byte
  op2  : Byte
  deriving DecidableEq, Repr

/-- A tile instruction as framed (R68, R296, R671): prefix bytes before the escape, the escape byte 0xE8 or 0xE9, the
tile opcode byte, the field word F, the 4-byte immediate I and the 2-byte word E. -/
structure TileInsn where
  thread   : Nat
  prefixes : List Byte
  esc      : Byte
  op       : Byte
  f        : BitVec 32
  i        : BitVec 32
  e        : BitVec 16
  deriving DecidableEq, Repr

/-- A naturally aligned store of a thread to control space (R15): byte offset from 0x0_FE00_0000_0000, width in
bytes, and the value stored. -/
structure CsStore where
  thread : Nat
  offset : Nat
  width  : Nat
  value  : Word
  deriving DecidableEq, Repr

/-- A device access by a thread at a control-space offset (R420, R592): a store of `value`, or a load into scalar
register `reg` (numbered as R66 numbers specifiers). -/
structure CsAccess where
  thread : Nat
  offset : Nat
  width  : Nat
  store  : Bool
  value  : Word
  reg    : Nat
  deriving DecidableEq, Repr

/-- A hardware error met by an access of a thread (R239): Table 5-12 unit and index, Table 5-13 kind, whether the
thread's context is damaged, and the physical address when one applies. -/
structure HwError where
  thread  : Nat
  unit    : Nat
  unitIdx : Nat
  kind    : Nat
  corrupt : Bool
  paddr   : Option Nat
  deriving DecidableEq, Repr

/-- A bound of Table 6-2 of which an entry frees. -/
inductive BoundId where
  | reorderBuffer (core : Nat)
  | loadQueue (core : Nat)
  | storeQueue (core : Nat)
  | fillBuffers (core : Nat)
  | sfb (core : Nat)
  | l2Misses (core : Nat)
  | orderingQueue (slice : Nat)
  | sliceMisses (slice : Nat)
  | ddr (channel : Nat)
  | loam (stack : Nat)
  | fabricGets
  deriving DecidableEq, Repr

/-- The requests of class REQ (Table 11-2). -/
inductive CohKind where
  | rds
  | rdx
  | upg
  | rdna
  | wrl
  deriving DecidableEq, Repr

/-- A coherence request reaching its home (Table 11-2): physical line number (address div 64), the requester's number
(R451: 128 × package + core; agents from 512 up), the domain an agent acts for, and the bytes that wait for it, from
offset `off` of the line: the retired store that a RdX or Upg is for (R453), or the line a WrL writes. -/
structure CohReq where
  line   : Nat
  req    : Nat
  domain : Nat
  off    : Nat
  bytes  : List Byte
  deriving DecidableEq, Repr

/-- A load or a fetch that a thread makes speculatively (R253, R266 to R268): the address of its first byte and its
length, whether it is a fetch, and the micro-ops, loads and stores that decode takes entries for with it (Table 6-2). -/
structure SpecAccess where
  thread : Nat
  va     : Nat
  size   : Nat
  fetch  : Bool
  uops   : Nat
  loads  : Nat
  stores : Nat
  deriving DecidableEq, Repr

/-- Who makes a non-allocating read: an agent (R462), or a thread on a path not yet resolved (R266, R269). -/
inductive NaReq where
  | agent (r : CohReq)
  | spec (a : SpecAccess)
  deriving DecidableEq, Repr

/-- A request as it reaches its home, and the requests that reach theirs in the same MCLK cycle (R451). -/
structure HomeArrival where
  req    : CohReq
  rivals : List (CohKind × CohReq)
  deriving DecidableEq, Repr

/-- The same of a non-allocating read. -/
structure NaArrival where
  req    : NaReq
  rivals : List (CohKind × CohReq)
  deriving DecidableEq, Repr

/-- A resolved misprediction of a thread: the accesses in flight that are older than the branch, which it leaves (R256). -/
structure Mispredict where
  thread : Nat
  older  : Nat
  deriving DecidableEq, Repr

/-- The rows of a tile move that a command moves: `rows` of them, all that are left when none is given. -/
structure TileRows where
  thread : Nat
  rows   : Option Nat
  deriving DecidableEq, Repr

/-- A Meadow link that goes down, with the packets sent on it that its far end has not acknowledged (R646). -/
structure LinkFall where
  port    : Nat
  unacked : Nat
  deriving DecidableEq, Repr

/-- A flit that failed, the same that the last replay was of when `again`, and what is unacknowledged should its port go down
(R646). -/
structure FlitFail where
  port    : Nat
  again   : Bool
  unacked : Nat
  deriving DecidableEq, Repr

/-- Where the data of a Loam read go (R494): to a line that a scalar access or a tile row of a thread waits for, to `len`
bytes of a core's TSB from `at_` for a source row of a Stream engine descriptor, or to a requester known by its number only. -/
inductive LoamDest where
  | scalar (thread : Nat)
  | tile (thread : Nat)
  | stream (core desc row at_ len : Nat)
  | other (requester : Nat)
  deriving DecidableEq, Repr

/-- A Loam read request reaching an LC (R494): domain, destination, Loam offset, and the volume and revision of the
grant window that covers it (R490). -/
structure LoamReq where
  domain    : Nat
  dest      : LoamDest
  offset    : Nat
  volume    : Nat
  revision  : Nat
  deriving DecidableEq, Repr

/-- Where a Synry frame came in (R629, R716). A mailbox frame names domain, class, slot and the submitting thread. -/
inductive Iface where
  | mgmt
  | mailbox (domain cls slot thread : Nat)
  | vc3 (node : Nat)
  deriving DecidableEq, Repr

/-- A Synry request frame once its framing has passed (Table 17-6). The command code is the row's own. -/
structure SynryReq where
  iface  : Iface
  tag    : Byte
  flags  : Byte
  params : List Byte
  deriving DecidableEq, Repr

/-- A link of a node as its link state lists it (R654): local port, far serial, far port. -/
structure LinkInfo where
  port      : Nat
  farSerial : Nat
  farPort   : Nat
  deriving DecidableEq, Repr

/-- A node's link state (R654 step 3, R657): serial, fixed node ID, committed node ID, links. -/
structure LinkState where
  serial    : Nat
  fixedId   : Option Nat
  committed : Option Nat
  links     : List LinkInfo
  deriving DecidableEq, Repr

/-- A HELLO as received on a port (R654 step 1, R659), with the sender's node ID once it has one. -/
structure HelloMsg where
  port        : Nat
  serial      : Nat
  eligible    : Bool
  fixedId     : Option Nat
  nodeId      : Option Nat
  round       : Nat
  candidate   : Option Nat
  coordinator : Option Nat
  deriving DecidableEq, Repr

/-- One route-bank entry as written over VC3 (Table 16-3): `gateway` selects the gateway entries. -/
structure RouteWrite where
  gateway : Bool
  index   : Nat
  entry   : BitVec 32
  deriving DecidableEq, Repr

/-- A chunk of a collective (R680 to R682): the group, the sending member, whether it goes down the tree, what the members
must agree on (sequence, OP, TYPE, COLCNT, ROOT), the chunk, its elements and flags, and a failure code or 0. -/
structure CollMsg where
  group : Nat
  child : Nat
  down  : Bool
  seq   : Nat
  op    : Nat
  type  : Nat
  cnt   : Nat
  root  : Nat
  chunk : Nat
  elems : List (BitVec 32)
  flags : BitVec 3
  code  : Nat
  deriving DecidableEq, Repr

/-- What a fabric packet does at its destination (Table 16-4). Payload bytes are in transfer order; `tag` names the
operation of the initiator. `control` is discovery, route and epoch traffic of VC3. -/
inductive PacketBody where
  | tputRow (thread tag endpoint offset : Nat) (payload : List Byte) (last rcen : Bool)
  | tgetReq (thread tag endpoint offset : Nat) (stride : Int) (rows rowBytes : Nat)
  | tgetRow (thread tag row : Nat) (payload : List Byte) (last : Bool)
  | tputAck (thread tag : Nat)
  | refused (thread tag : Nat)
  | send (thread tag queue : Nat) (payload : List Byte)
  | sendAck (thread tag code : Nat)
  | creditReq (queue : Nat)
  | creditReturn (domain queue count code : Nat)
  | collective (m : CollMsg)
  | synry (frame : List Byte)
  | control (kind : Nat) (data : List Nat)
  deriving DecidableEq, Repr

/-- A fabric packet (R660 to R667): source and destination node, VC, epoch bit, pair sequence number, whether it has
crossed a gateway, the source domain, and its body. -/
structure Packet where
  src      : Nat
  dst      : Nat
  vc       : Nat
  epoch    : Bool
  seq      : BitVec 16
  crossed  : Bool
  srcDom   : Nat
  body     : PacketBody
  deriving DecidableEq, Repr

/-- What Seedbank's patrol found of a page (R580, R582). -/
inductive PageFound where
  | good
  | weak
  | lost
  deriving DecidableEq, Repr

/-- What a patrol visit of a block found (R545): corrected bits, a retry, an uncorrectable codeword, the re-ranking of
the seven offsets, and the best setting. -/
structure PatrolResult where
  stack     : Nat
  slot      : Nat
  corrected : Nat
  retried   : Bool
  uncorrect : Bool
  ranking   : List Nat
  learn     : Nat
  deriving DecidableEq, Repr

/-- A DMA request at a root port (R608, R462). -/
structure DmaReq where
  port  : Nat
  addr  : Nat
  write : Bool
  data  : List Byte
  len   : Nat
  deriving DecidableEq, Repr

/-- How a PCI Express completion that is not a success ended (R792). -/
inductive PcieEnd where
  | unsupported
  | completerAbort
  | timedOut
  deriving DecidableEq, Repr

/-- A configuration request's end as its port reports it (R821): data for a success, none otherwise. -/
structure CfgAccess where
  thread : Nat
  port   : Nat
  reg    : Nat
  value  : BitVec 32
  result : Option (BitVec 32)
  deriving DecidableEq, Repr

/-- One DIMM as its channel's training finds it (R753, R754, R786, R796). `trained` is the outcome of training. -/
structure DimmInfo where
  channel  : Nat
  dimm     : Nat
  gib      : Nat
  partNo   : Nat
  serial   : Nat
  rating   : Nat
  idClash  : Bool
  verified : Bool
  trained  : Bool
  deriving DecidableEq, Repr

/-- Sensors of Table 17-3 that the SMC samples. -/
inductive SensorId where
  | tileTemp (tile : Nat)
  | ioTemp (n : Nat)
  | loamTemp (stack : Nat)
  | tilePower (tile : Nat)
  | domainPower10ms (domain : Nat)
  | packagePower10ms
  | packagePower1s
  | uncorePower
  | rail (address page : Nat)
  deriving DecidableEq, Repr

/-- One reading: temperature in 1/16 °C, power in mW, or a regulator's telemetry in order (mV, 1/16 °C, mA, mW). -/
structure Reading where
  sensor : SensorId
  values : List Int
  deriving DecidableEq, Repr

/-- The signature check's hash and verify outcome for the image trailer, and SFDP validity, as the SMC's engines
report them for one source (R744, R747). -/
structure FlashSource where
  sfdpValid   : Bool
  bytes       : List Byte
  keyMatches  : Bool
  sigVerifies : Bool
  deriving DecidableEq, Repr

/-- The commands: one constructor per row of the table of operations and events, in the table's order. -/
inductive Instr where
  | registerWrite (w : CsStore)
  -- chapter 2: framing and windows
  | nop (x : NopInsn)
  | call (x : Insn)
  | ret (x : Insn)
  | jmp (x : Insn)
  | bcc (x : Insn) (cond : BitVec 4)
  | bz (x : Insn)
  | bnz (x : Insn)
  | dbnz (x : Insn)
  | wflush (x : Insn)
  | backgroundSpill (thread : Nat)
  | backgroundFill (thread : Nat)
  | rdsr (x : Insn)
  | wrsr (x : Insn)
  -- chapter 3: scalar operations
  | add (x : Insn)
  | adc (x : Insn)
  | sub (x : Insn)
  | sbc (x : Insn)
  | and (x : Insn)
  | or (x : Insn)
  | xor (x : Insn)
  | andn (x : Insn)
  | shl (x : Insn)
  | shr (x : Insn)
  | sar (x : Insn)
  | mul (x : Insn)
  | addi (x : Insn)
  | adci (x : Insn)
  | subi (x : Insn)
  | sbci (x : Insn)
  | andi (x : Insn)
  | ori (x : Insn)
  | xori (x : Insn)
  | andni (x : Insn)
  | shli (x : Insn)
  | shri (x : Insn)
  | sari (x : Insn)
  | ld (x : Insn)
  | lds (x : Insn)
  | st (x : Insn)
  | swap (x : Insn)
  | cas (x : Insn)
  | aadd (x : Insn)
  | aand (x : Insn)
  | aor (x : Insn)
  | axor (x : Insn)
  | amax (x : Insn)
  | amaxu (x : Insn)
  | amin (x : Insn)
  | aminu (x : Insn)
  | setcc (x : Insn) (cond : BitVec 4)
  | rdfl (x : Insn)
  | wrfl (x : Insn)
  | bfx (x : Insn)
  | bfxs (x : Insn)
  | bfi (x : Insn)
  | clz (x : Insn)
  | ctz (x : Insn)
  | perm (x : Insn)
  | movs (x : Insn)
  | mulh (x : Insn)
  | mulhu (x : Insn)
  | mulw (x : Insn)
  | div (x : Insn)
  | divu (x : Insn)
  | rem (x : Insn)
  | remu (x : Insn)
  | fadd (x : Insn)
  | fsub (x : Insn)
  | fmul (x : Insn)
  | fdiv (x : Insn)
  | fsqrt (x : Insn)
  | fmin (x : Insn)
  | fmax (x : Insn)
  | fcmp (x : Insn)
  | fcmpe (x : Insn)
  | fma (x : Insn)
  | rdfcsr (x : Insn)
  | wrfcsr (x : Insn)
  | fcvtB64ToB32 (x : Insn)
  | fcvtB32ToB64 (x : Insn)
  | fcvtToS32 (x : Insn)
  | fcvtToU32 (x : Insn)
  | fcvtToS64 (x : Insn)
  | fcvtToU64 (x : Insn)
  | fcvtFromS32 (x : Insn)
  | fcvtFromU32 (x : Insn)
  | fcvtFromS64 (x : Insn)
  | fcvtFromU64 (x : Insn)
  -- chapter 4: gates, grants, translation invalidation
  | gate (x : Insn)
  | gret (x : Insn)
  | ldc (x : Insn)
  | stc (x : Insn)
  | gderive (x : Insn)
  | grevoke (x : Insn)
  | revocationDrainEnd (thread : Nat)
  | gquery (x : Insn)
  | gxferS (x : Insn)
  | gxferR (x : Insn)
  | gattach (x : Insn)
  | gdetach (x : Insn)
  | gdetachP (x : Insn)
  | tinv (x : Insn)
  | tinvInvalidate (thread core : Nat)
  | tinvAckComplete (thread : Nat)
  -- chapter 5: faults and interrupts
  | fret (x : Insn)
  | brk (x : Insn)
  | interruptDelivery (thread : Nat)
  | tileStreamFaultDelivery (thread : Nat)
  | machineCheck (e : HwError)
  | correctedError (e : HwError)
  | setpend (w : CsStore)
  | msiWrite (port : Nat) (data : Nat)
  -- chapter 6: speculation and bounds
  | sbar (x : Insn)
  | pflush (x : Insn)
  | branchMispredict (x : Mispredict)
  | sfbInstall (thread line : Nat) (fromL2 changed : Bool)
  | boundEntryFreed (b : BoundId)
  -- chapters 7 to 10: tile extension and Sward
  | tileQueueEnter (t : TileInsn)
  | queuedWrsrApply (thread : Nat)
  | tcfg (thread : Nat)
  | tzero (thread : Nat)
  | tld (x : TileRows)
  | tst (x : TileRows)
  | tlda (x : TileRows)
  | tsta (x : TileRows)
  | tmovToScalar (t : TileInsn)
  | tmovToTile (thread : Nat)
  | tmmaE (thread : Nat)
  | tmmaF (thread : Nat)
  | tmmai (thread : Nat)
  | tscl (thread : Nat)
  | tcvt (thread : Nat)
  | tadd (thread : Nat)
  | tmul (thread : Nat)
  | tmax (thread : Nat)
  | tmin (thread : Nat)
  | tredSum (thread : Nat)
  | tredMax (thread : Nat)
  | twait (thread : Nat)
  | twaitRelease (thread : Nat)
  | tsync (t : TileInsn)
  | tfence (thread : Nat)
  | tsave (t : TileInsn) (units : Option Nat)
  | trstr (t : TileInsn) (units : Option Nat)
  | tresume (t : TileInsn)
  | tresumeSkip (t : TileInsn)
  | tresumeFlush (t : TileInsn)
  | tqry (t : TileInsn)
  | tput (x : TileRows)
  | tget (thread : Nat)
  | swardModeChange (core : Nat)
  | descriptorLaunch (w : CsStore)
  | descriptorAbort (w : CsStore)
  | streamRequestIssue (core : Nat)
  | descriptorDone (core n : Nat)
  | tsbApertureAccess (a : CsAccess)
  -- chapter 11: coherence
  | l2Eviction (core line : Nat)
  | rds (r : HomeArrival)
  | rdx (r : HomeArrival)
  | upg (r : HomeArrival)
  | rdna (r : NaArrival)
  | wrl (r : HomeArrival)
  | fwds (line holder : Nat)
  | fwdx (line holder : Nat)
  | fwdna (line holder : Nat)
  | inv (line holder : Nat)
  | binv (line holder : Nat)
  | datas (line req : Nat)
  | datae (line req : Nat)
  | datax (line req : Nat)
  | datana (line req : Nat)
  | grantx (line req : Nat)
  | fwdack (line holder : Nat)
  | fwdackd (line holder : Nat)
  | fwdnak (line holder : Nat)
  | wbm (line core : Nat)
  | eve (line core : Nat)
  | evs (line core : Nat)
  | wback (line core : Nat)
  | wbstale (line core : Nat)
  | mfence (x : Insn)
  | isync (x : Insn)
  -- chapters 12 and 13: Loam
  | revisionFree (volume revision : Nat)
  | loamReadRequest (r : LoamReq)
  | loamPageSenseDone (stack entry : Nat)
  | loamCodewordDecoded (stack entry codeword : Nat) (ok : Bool)
  | readRetryStep (stack entry : Nat) (fixed : List Nat)
  | lclr (w : CsStore)
  | lvcreate (c : SynryReq)
  | lvresize (c : SynryReq)
  | lvdelete (c : SynryReq)
  | lopen (c : SynryReq)
  | lstage (c : SynryReq)
  | lzero (c : SynryReq)
  | lcommit (c : SynryReq)
  | commitSwitch (volume : Nat)
  | labort (c : SynryReq)
  | lparam (c : SynryReq)
  | lhealth (c : SynryReq)
  | pageProgramDone (stack page : Nat) (verified : Bool)
  | blockErase (stack slot : Nat)
  | eraseResume (stack plane : Nat)
  | eraseDone (stack slot : Nat) (verified : Bool)
  | compaction (stack : Nat)
  | wearRelocation (stack slot : Nat)
  | readDisturbRefresh (stack slot : Nat)
  | senseCountCheckpoint (stack : Nat)
  | patrolFactorUpdate (stack : Nat)
  | patrolBlock (p : PatrolResult)
  | loamReady (stack : Nat) (reachable : Bool)
  -- chapter 14: Seedbank
  | ferricWrite (offset : Nat) (data : List Byte) (completes : Bool)
  | commitBufferTimeout
  | seedbankCommit
  | seedbankPageProgrammed (verified : Bool)
  | seedbankRecovery
  | seedbankPatrol (page : Nat) (found : PageFound)
  | seedbankApertureAccess (a : CsAccess)
  | sbunlkRd (thread : Nat)
  | sbunlkWr (thread : Nat)
  | sbunlkClose (thread : Nat)
  | sbsetpwRd (thread : Nat)
  | sbsetpwWr (thread : Nat)
  | sbcommitGo (thread : Nat)
  | sbread (c : SynryReq)
  | sbwrite (c : SynryReq)
  | sbcommit (c : SynryReq)
  | sbunlock (c : SynryReq)
  | sbsetpw (c : SynryReq)
  | sbclose (c : SynryReq)
  | sbaudit (c : SynryReq)
  | sblog (c : SynryReq)
  | sbauditclr (c : SynryReq)
  | sbcount (c : SynryReq)
  | sbhealth (c : SynryReq)
  -- chapter 15: domains and change sets; an item row names its index in the set being applied
  | csbegin (c : SynryReq)
  | csitem (c : SynryReq)
  | csend (c : SynryReq)
  | csabort (c : SynryReq)
  | csstatus (c : SynryReq)
  | changeSetValidate
  | gracePeriodExpiry (item : Nat)
  | scrubDone (tile : Nat)
  | windowZeroDone (domain window : Nat)
  | additionPass
  | drelease (c : SynryReq)
  | dstart (c : SynryReq)
  | ovclear (c : SynryReq)
  | dcreate (item : Nat)
  | ddestroy (item : Nat)
  | tmove (item : Nat)
  | winadd (item : Nat)
  | windel (item : Nat)
  | wayset (item : Nat)
  | shareset (item : Nat)
  | guardset (item : Nat)
  | rootadd (item : Nat)
  | rootdel (item : Nat)
  | portadd (item : Nat)
  | portdel (item : Nat)
  | powerset (item : Nat)
  | routeset (item : Nat)
  | divset (item : Nat)
  | resetcfg (item : Nat)
  | fepset (item : Nat)
  | fepdel (item : Nat)
  | fqset (item : Nat)
  | fqdel (item : Nat)
  | fgrpset (item : Nat)
  | fgrpdel (item : Nat)
  -- chapter 16: fabric
  | linkUp (port : Nat) (failing : BitVec 8) (peerSerial peerPort : Nat)
  | linkDown (x : LinkFall)
  | flitReplay (x : FlitFail)
  | helloSend
  | hello (h : HelloMsg)
  | coordinatorElected
  | linkStateRequest (coordinator : Nat)
  | linkStateAnswer (l : LinkState)
  | nodeIdAssignment
  | discoveryCommit (nodeId : Nat)
  | discoveryTimeout
  | coordinatorLost
  | lost (serial round : Nat)
  | frescan (c : SynryReq)
  | routeBankWrite (ws : List RouteWrite)
  | bufferDivide
  | epochFlip
  | epochDrainReport
  | routeBankRetire
  | packetArrival (p : Packet)
  | tputRowArrival (p : Packet)
  | tputAck (p : Packet)
  | tgetRequestArrival (p : Packet)
  | tgetRowReturn (p : Packet)
  | fabricRefused (p : Packet)
  | sndctlGo (w : CsStore)
  | messageDelivery (p : Packet)
  | sendAck (p : Packet)
  | creditRequest (p : Packet)
  | creditReturn (p : Packet)
  | qheadWrite (w : CsStore)
  | collectiveSum (w : CsStore)
  | collectiveMax (w : CsStore)
  | collectiveBroadcast (w : CsStore)
  | collectiveBarrier (w : CsStore)
  | collectiveChunk (p : Packet)
  | fabricTimeout (thread : Nat)
  | tussockImageReceived (src : FlashSource)
  | tussockImageTimeout
  | tussockMemberReady (tid : Nat) (gib : Nat)
  | tussockWaitTimeout
  | tussockLinkDown (tid thread : Nat)
  -- chapter 17: clocks, power, SMC
  | voltageSettleCheck (tile : Nat) (millivolts : Nat)
  | voltageRecheck (tile : Nat) (millivolts : Nat)
  | dividerSwitch (tile : Nat)
  | timerFire (thread : Nat)
  | sensorSample (r : Reading)
  | droopTrip (tile edges : Nat)
  | powerThrottleStep (domain : Nat)
  | powerThrottleRelease (domain : Nat)
  | thermalStep (tile : Nat)
  | thermalRelease (tile : Nat)
  | thermalTrip (sensor : Nat)
  | prochotInput
  | budgetRecompute
  | statusWordPoll (address page : Nat) (word : BitVec 16)
  | pmbAlert (words : List (Nat × Nat × BitVec 16))
  | pmbusTimeout
  | ident (c : SynryReq)
  | status (c : SynryReq)
  | time (c : SynryReq)
  | sense (c : SynryReq)
  | powerread (c : SynryReq)
  | clkread (c : SynryReq)
  | pkglimit (c : SynryReq)
  | threstart (c : SynryReq)
  | vrread (c : SynryReq)
  | mailboxGo (w : CsStore)
  | mgmtWriteFrame (frame : List Byte)
  | mgmtReadResponse (tag : Byte)
  | vc3Frame (node : Nat) (frame : List Byte)
  -- chapter 18: start-up
  | vauxRise
  | smcBoot
  | pwrgoodRise
  | pwrgoodFall
  | resetNFall
  | resetNRise (bootSrc tussockId : BitVec 2)
  | sheafRead (cs0 cs1 : Option FlashSource)
  | clockStart (locks : Bool) (failedTiles : List Nat)
  | loamRecovery (stack : Nat)
  | ddrTraining (dimms : List DimmInfo)
  | tussockAssembly
  | domainCreation
  | zeroFill
  | bootImageCopy (domain : Nat) (uncorrectable : Bool)
  | bootThreadRelease (domain : Nat)
  | perstDeassert (port : Nat)
  | railUndervolt (rail : Nat)
  | refclkLoss
  | xlateWrite (thread : Nat) (value : Word)
  -- chapter 19: interfaces
  | dimmThermalRead (channel dimm : Nat) (sixteenths : Int)
  | pcieDmaRequest (d : DmaReq)
  | pcieLoadError (port thread addr reg width : Nat) (how : PcieEnd)
  | pcieLinkDown (port : Nat)
  | cfgdataLoad (a : CfgAccess)
  | cfgdataStore (a : CfgAccess)
  | extest
  | idcode
  | samplePreload (captured : List Bool)
  | clamp
  | highz
  | bypass
  | prochotRelease
  | vauxFall
  | pcieLinkUp (port width rate : Nat)
  | loamDieStopsAnswering (stack die : Nat)
  | epochChangeAck (node : Nat)
  deriving DecidableEq, Repr

end Sys2Proof
end

