-- ==== Sys2Proof/Decode.lean ====
section
/-!
DEFINITION. The commands that words spell. The table of operations and events gives no row any bits, so no word spells
a command; a thread's own instructions reach the model framed (R55), as operands of their rows.
-/

namespace Sys2Proof

/-- The command that a word of the table's bits spells: none, as no row has bits.
DEDUCED (log 5). -/
def decodeTableWord (_nbits _w : Nat) : Option Instr := none

end Sys2Proof
end

