-- ==== Sys2Proof/Machine/Maps.lean ====
section
/-!
DEFINITION. The operations on sparse maps and the little-endian byte helpers (R8) of the whole model.
-/

namespace Sys2Proof

/-- The value at key `k`, `d` when the key is not listed. -/
def FMap.get {α : Type} (m : FMap α) (k : Nat) (d : α) : α :=
  match m with
  | [] => d
  | (j, v) :: r => if j = k then v else FMap.get r k d

/-- Is key `k` listed? -/
def FMap.has {α : Type} (m : FMap α) (k : Nat) : Bool := m.any (fun p => p.1 == k)

/-- The value at key `k`, if listed. -/
def FMap.find {α : Type} (m : FMap α) (k : Nat) : Option α :=
  match m with
  | [] => none
  | (j, v) :: r => if j = k then some v else FMap.find r k

/-- Lists `v` at key `k`, whatever `v` is. -/
def FMap.put {α : Type} (m : FMap α) (k : Nat) (v : α) : FMap α :=
  match m with
  | [] => [(k, v)]
  | (j, w) :: r => if j = k then (k, v) :: r else if k < j then (k, v) :: (j, w) :: r else (j, w) :: FMap.put r k v

/-- Removes key `k`. -/
def FMap.erase {α : Type} (m : FMap α) (k : Nat) : FMap α :=
  match m with
  | [] => []
  | (j, w) :: r => if j = k then FMap.erase r k else (j, w) :: FMap.erase r k

/-- Writes `v` at key `k` in canonical form: the value `d` that an unlisted key reads as is not listed. -/
def FMap.set {α : Type} [DecidableEq α] (m : FMap α) (k : Nat) (v d : α) : FMap α :=
  if v = d then FMap.erase m k else FMap.put m k v

/-- Changes the value at key `k` (`d` when unlisted) by `f`, and lists it. -/
def FMap.modify {α : Type} (m : FMap α) (k : Nat) (d : α) (f : α → α) : FMap α := FMap.put m k (f (FMap.get m k d))

/-- Keys strictly rising from above `lo`. -/
def FMap.rises {α : Type} (lo : Option Nat) (m : FMap α) : Bool :=
  match m with
  | [] => true
  | (j, _) :: r => (match lo with | none => true | some l => decide (l < j)) && FMap.rises (some j) r

/-- The canonical form of a map whose unlisted keys read as `d`. -/
def FMap.wf {α : Type} [DecidableEq α] (d : α) (m : FMap α) : Bool :=
  FMap.rises none m && m.all (fun p => decide (p.2 ≠ d))

/-- The canonical form of a byte memory whose unlisted bytes read as zero. -/
def Memory.wf (m : Mem) : Bool := FMap.wf (0 : Byte) m

/-- One byte of a memory; an unlisted byte reads as zero.
DESIGN CHOICE (log 3). -/
def Mem.byte (m : Mem) (a : Nat) : Byte := FMap.get m a 0

/-- Writes one byte of a memory. -/
def Mem.setByte (m : Mem) (a : Nat) (b : Byte) : Mem := FMap.set m a b 0

/-- `n` bytes from address `a`, lowest first. -/
def Mem.read (m : Mem) (a n : Nat) : List Byte :=
  match n with
  | 0 => []
  | k + 1 => Mem.byte m a :: Mem.read m (a + 1) k

/-- Writes bytes at `a`, lowest first. -/
def Mem.write (m : Mem) (a : Nat) (bs : List Byte) : Mem :=
  match bs with
  | [] => m
  | b :: r => Mem.write (Mem.setByte m a b) (a + 1) r

/-- Drops every listed byte of `[lo, hi)`: those bytes read as zero. -/
def Mem.clear (m : Mem) (lo hi : Nat) : Mem := m.filter (fun p => p.1 < lo || hi ≤ p.1)

/-- The bytes of `m` in `[lo, hi)`, moved to start at `to`. -/
def Mem.slice (m : Mem) (lo hi dest : Nat) : Mem :=
  (m.filter (fun p => decide (lo ≤ p.1) && decide (p.1 < hi))).map (fun p => (p.1 - lo + dest, p.2))

/-- Writes every listed cell of `src` into `m`. -/
def Mem.overlay (m src : Mem) : Mem := src.foldl (fun m p => Mem.setByte m p.1 p.2) m

/-- `n` bytes from address `a` of a memory whose cells are all at `a` or above, in one pass. -/
def Mem.run (m : Mem) (a n : Nat) : List Byte :=
  match n with
  | 0 => []
  | k + 1 =>
    match m with
    | [] => 0 :: Mem.run [] (a + 1) k
    | (j, v) :: r => if j = a then v :: Mem.run r (a + 1) k else 0 :: Mem.run ((j, v) :: r) (a + 1) k

/-- `n` bytes from address `a`. -/
def Mem.block (m : Mem) (a n : Nat) : List Byte := Mem.run (m.filter (fun p => decide (a ≤ p.1))) a n

/-- The non-zero bytes of a list as cells from address `a` on. -/
def Mem.cells (a : Nat) (bs : List Byte) : Mem :=
  match bs with
  | [] => []
  | b :: r => if b = 0 then Mem.cells (a + 1) r else (a, b) :: Mem.cells (a + 1) r

/-- Replaces the bytes at `a` by a list, in one pass. -/
def Mem.splice (m : Mem) (a : Nat) (bs : List Byte) : Mem :=
  m.filter (fun p => decide (p.1 < a)) ++ Mem.cells a bs ++ m.filter (fun p => decide (a + bs.length ≤ p.1))

/-- The little-endian number of a byte list (R8). -/
def leNat (bs : List Byte) : Nat :=
  match bs with
  | [] => 0
  | b :: r => b.toNat + 256 * leNat r

/-- The `n` little-endian bytes of a number (R8). -/
def leBytes (n v : Nat) : List Byte :=
  match n with
  | 0 => []
  | k + 1 => BitVec.ofNat 8 v :: leBytes k (v / 256)

/-- Bits [hi:lo] of a number. -/
def bitsOf (v hi lo : Nat) : Nat := (v / 2 ^ lo) % 2 ^ (hi + 1 - lo)

/-- Bit `i` of a number. -/
def bitOf (v i : Nat) : Bool := v / 2 ^ i % 2 == 1

/-- A Bool as a number. -/
def natOf (b : Bool) : Nat := if b then 1 else 0

/-- `v` with bits [hi:lo] replaced by the low bits of `x`. -/
def setBits (v hi lo x : Nat) : Nat :=
  v - bitsOf v hi lo * 2 ^ lo + (x % 2 ^ (hi + 1 - lo)) * 2 ^ lo

/-- The signed value of the low `w` bits of a number. -/
def signedOf (w v : Nat) : Int :=
  if v % 2 ^ w < 2 ^ (w - 1) then Int.ofNat (v % 2 ^ w) else Int.ofNat (v % 2 ^ w) - Int.ofNat (2 ^ w)

/-- The numbers `lo, lo+1, …` (`n` of them). -/
def upFrom (lo n : Nat) : List Nat :=
  match n with
  | 0 => []
  | k + 1 => lo :: upFrom (lo + 1) k

/-- Replaces element `i` of a list, when it is there. -/
def listSet {α : Type} (l : List α) (i : Nat) (v : α) : List α :=
  match l, i with
  | [], _ => []
  | _ :: r, 0 => v :: r
  | x :: r, k + 1 => x :: listSet r k v

/-- Removes the first element satisfying `p`. -/
def dropFirst {α : Type} (p : α → Bool) (l : List α) : List α :=
  match l with
  | [] => []
  | x :: r => if p x then r else x :: dropFirst p r

end Sys2Proof
end

