-- ==== Sys2Proof/Machine/Flags.lean ====
section
/-!
DEFINITION. Integer arithmetic of chapter 3 at an operand width, with the flags of Table 3-2, and the conditions of
Table 3-3.
-/

namespace Sys2Proof.Machine

/-- A result with its flags as FL holds them: [3] N, [2] Z, [1] C, [0] V. -/
structure AluOut where
  val : Nat
  fl  : BitVec 4
  deriving DecidableEq, Repr

/-- N and Z from a `w`-bit result, with C and V given (R113). -/
def mkFlags (w res : Nat) (c v : Bool) : BitVec 4 :=
  BitVec.ofNat 4 (8 * natOf (bitOf res (w - 1)) + 4 * natOf (res % 2 ^ w == 0) + 2 * natOf c + natOf v)

/-- Does an integer lie outside the signed `w`-bit range? -/
def outOfSigned (w : Nat) (i : Int) : Bool :=
  decide (i < -Int.ofNat (2 ^ (w - 1))) || decide (Int.ofNat (2 ^ (w - 1)) - 1 < i)

/-- ADD and ADC: a + b + c at width `w`. -/
def aluAdd (w a b c : Nat) : AluOut :=
  let a := a % 2 ^ w
  let b := b % 2 ^ w
  let r := (a + b + c) % 2 ^ w
  { val := r, fl := mkFlags w r (decide (2 ^ w ≤ a + b + c))
      (outOfSigned w (signedOf w a + signedOf w b + Int.ofNat c)) }

/-- SUB and SBC: a − b − c at width `w`; C is the borrow. -/
def aluSub (w a b c : Nat) : AluOut :=
  let a := a % 2 ^ w
  let b := b % 2 ^ w
  let r := (a + 2 ^ (w + 1) - b - c) % 2 ^ w
  { val := r, fl := mkFlags w r (decide (a < b + c)) (outOfSigned w (signedOf w a - signedOf w b - Int.ofNat c)) }

/-- A logic result: C and V are 0. -/
def aluLogic (w r : Nat) : AluOut := { val := r % 2 ^ w, fl := mkFlags w (r % 2 ^ w) false false }

/-- SHL by b mod w: C is the last bit shifted out, 0 when the count is 0. -/
def aluShl (w a b : Nat) : AluOut :=
  let a := a % 2 ^ w
  let n := b % w
  let r := a * 2 ^ n % 2 ^ w
  { val := r, fl := mkFlags w r (n != 0 && bitOf a (w - n)) false }

/-- SHR by b mod w. -/
def aluShr (w a b : Nat) : AluOut :=
  let a := a % 2 ^ w
  let n := b % w
  let r := a / 2 ^ n
  { val := r, fl := mkFlags w r (n != 0 && bitOf a (n - 1)) false }

/-- SAR by b mod w. -/
def aluSar (w a b : Nat) : AluOut :=
  let a := a % 2 ^ w
  let n := b % w
  let r := (signedOf w a / Int.ofNat (2 ^ n) % Int.ofNat (2 ^ w)).toNat
  { val := r, fl := mkFlags w r (n != 0 && bitOf a (n - 1)) false }

/-- MUL: the low w bits; C and V say whether the unsigned and the signed product fit. -/
def aluMul (w a b : Nat) : AluOut :=
  let a := a % 2 ^ w
  let b := b % 2 ^ w
  let r := a * b % 2 ^ w
  { val := r, fl := mkFlags w r (decide (2 ^ w ≤ a * b)) (outOfSigned w (signedOf w a * signedOf w b)) }

/-- The low `w` bits of an integer. -/
def narrow (w : Nat) (i : Int) : Nat := (i % Int.ofNat (2 ^ w)).toNat

/-- Condition `c` of Table 3-3 under FL. -/
def condTrue (c : BitVec 4) (fl : BitVec 4) : Bool :=
  let n := fl.getLsbD 3
  let z := fl.getLsbD 2
  let cy := fl.getLsbD 1
  let v := fl.getLsbD 0
  match c.toNat with
  | 0x0 => true
  | 0x1 => false
  | 0x2 => z
  | 0x3 => !z
  | 0x4 => !cy
  | 0x5 => cy
  | 0x6 => !cy && !z
  | 0x7 => cy || z
  | 0x8 => n == v
  | 0x9 => n != v
  | 0xA => !z && (n == v)
  | 0xB => z || (n != v)
  | 0xC => n
  | 0xD => !n
  | 0xE => v
  | _ => !v

end Sys2Proof.Machine
end

