-- ==== Sys2Proof/Config.lean ====
section
/-!
DEFINITION. What one part fixes and the manual leaves open: constants of an implementation and the free values. None
has a body, so no proof can see what it is.
-/

namespace Sys2Proof

/-- A fresh 64-bit value the manual leaves open, by the count of free values taken (State.free).
DESIGN CHOICE (log 63). -/
opaque Config.freeWord : Nat → Word

/-- The byte a device returns to a load from PCIe space or a configuration read: count of free values, address.
DESIGN CHOICE (log 23, 63). -/
opaque Config.deviceByte : Nat → Nat → Byte

/-- The contents of the Boot ROM (Table 1-5), by offset from its first byte.
PRESUMED (log 62). -/
opaque Config.bootRom : Nat → Byte

/-- The 64-bit silicon serial of FACTORY (R654).
PRESUMED (log 62). -/
opaque Config.serial : Word

/-- Fuse KEYHASH is set, R747.
PRESUMED (log 62). -/
opaque Config.keyHashSet : Bool

/-- Fuse SIGREQ, R747.
PRESUMED (log 62). -/
opaque Config.sigReq : Bool

/-- The SMC firmware revision that IDENT returns (Table 17-11).
PRESUMED (log 62). -/
opaque Config.smcFirmware : BitVec 32

/-- The fused VCORE voltage in mV of a tile at a divider code (R700).
PRESUMED (log 62). -/
opaque Config.fusedVcore : Nat → Nat → Nat

/-- Does an FMA of infinity and zero with a quiet NaN addend signal invalid? IEEE 754-2019 leaves it to the part.
DEDUCED (log 17). -/
opaque Config.fmaNanInvalid : Bool

/-- The micro-ops an instruction retires (Table 6-7), by the count of free values taken.
DESIGN CHOICE (log 25, 63). -/
opaque Config.microOps : Nat → Nat

/-- The CCLK cycles of a thread in one tick of SCLK (Table 6-7), by the count of free values taken.
DESIGN CHOICE (log 25, 63). -/
opaque Config.cyclesOf : Nat → Nat

end Sys2Proof
end

