-- ==== Sys2Proof/Machine/State.lean ====
section
/-!
DEFINITION. The state of the part: threads, cores, homes, Loam, Seedbank, domains, fabric, SMC, start-up and lands,
the queue of waiting commands, and the state right after a cold reset (VAUX just inside its limits, no step run).
-/

namespace Sys2Proof.Machine

/-- Why the machine stops with a fault of the model. No command of this part ends so: every fault the manual gives
is delivered inside the state (R214).
DEDUCED (log 8). -/
inductive Fault where
  /-- Raised by no meaning; safe. -/
  | stopped
  deriving DecidableEq, Repr

/-- Why a command is refused.
DEDUCED (log 8). -/
inductive Refusal where
  /-- Raised by an arm of `exec` that has no meaning yet; safe. -/
  | notModelled (mnemonic : String)
  deriving DecidableEq, Repr

/-! ### Threads (chapters 2 to 7) -/

/-- Whether a thread issues (R222, R259, R762). -/
inductive RunState where
  | halted
  | running
  | wedged
  deriving DecidableEq, Repr

/-- What a thread's oldest command last held at (R38, R260, R302, R422, R571, R677, R721). -/
inductive Hold where
  | none
  | tileQueue
  | tileJoin
  | fence
  | blockNotStarted
  | busyDescriptor
  | busySlot
  | busySend
  | sendCredit
  | seedbankBuffer
  | bound
  | coreBound
  | line
  | loam
  | install
  | tinvAck
  deriving DecidableEq, Repr

/-- PSW, Table 5-4. -/
structure Psw where
  pl  : BitVec 2
  ml  : BitVec 4
  ems : Bool
  ss  : Bool
  brs : Bool
  deriving DecidableEq, Repr

/-- A grant window GW0–GW7 while attached (R185, R186). `index` and `gen` are the handle; `revision` is the pin of a
LOAM window. -/
structure GrantWin where
  index    : Nat
  gen      : Nat
  kind     : Nat
  object   : Nat
  rights   : BitVec 8
  base     : Nat
  limit    : Nat
  revision : Option Nat
  deriving DecidableEq, Repr

/-- A trap of an instruction that has retired, not yet delivered (R232): its code and subcode, FIP and FADDR, and the IP
and sp of its boundary, at which it is delivered before the next instruction, or once control returns there. -/
structure Trap where
  code  : Nat
  sub   : Nat
  fip   : Word
  faddr : Word
  atIp  : BitVec 48
  atSp  : Word
  deriving DecidableEq, Repr

/-- A Loam line that the LC delivered poisoned to a thread's scalar access, or to a row of its tile stream: the line, its
revision tag and the subcode (R501, R502). -/
structure LoamMark where
  tile : Bool
  line : Nat
  tag  : Nat
  sub  : Nat
  deriving DecidableEq, Repr

/-- A retired store to control space that holds in the store queue (R422, R677, R681, R721): its offset there, its value,
the ring it was made at, and whether a revocation's drain awaits it (R181). -/
structure HeldStore where
  off   : Nat
  value : Nat
  ring  : Nat
  marked : Bool
  deriving DecidableEq, Repr

/-- A TINV whose acknowledgements are awaited (R159). -/
structure TinvOp where
  insn : Insn
  mode : Nat
  va   : Nat
  root : Nat
  wait : List Nat
  deriving DecidableEq, Repr

/-- What a Tile Queue entry does: a tile instruction or a queued WRSR (R293) of a tile register. -/
inductive TqOp where
  | tile (t : TileInsn)
  | wrsr (num reg : Nat)
  deriving DecidableEq, Repr

/-- A Tile Queue entry (R299): the captured ring and value, and the instruction's address, which a restored residue
entry does not record (Table 7-10). -/
structure TqEntry where
  op    : TqOp
  ring  : Nat
  value : Word
  ip    : Option Word
  deriving DecidableEq, Repr

/-- A tile move as set up at its issue (R297, R671): register code, first row, rows, address or offset of the first row,
stride, TSB, and a fabric move's window and E word. -/
structure TileMove where
  code   : Nat
  row0   : Nat
  nrow   : Nat
  base   : Nat
  stride : Int
  tsb    : Bool
  win    : Nat
  e      : Nat
  deriving DecidableEq, Repr

/-- A tile instruction that has issued in Fixed-time mode and has not completed (R405, R411): its queue entry, its issue cycle,
its move, the thread's system registers at its issue, and the register and TSB rows it has read so far. -/
structure TimedOp where
  entry : TqEntry
  insn  : TileInsn
  at_   : Nat
  move  : Option TileMove
  sys   : FMap Word
  snap  : Mem
  rows  : FMap (List Byte)
  deriving DecidableEq, Repr

/-- The tile context (R289) beyond its system registers: the data registers as bytes (T n at 0x1000·n, S n at
0x8000 + 0x200·n, A n at 0x9000 + 0x4000·n), TINUSE, the Tile Queue, the held tile-stream fault (code, subcode), the
FADDR of the stop, whether the TWAIT at the head has begun its wait, the move at the head once it has issued, its rows
done, which a TRESUME leaves done (R310), and in Fixed-time mode the instructions of the queue's front that have issued, with
the next cycle of their schedule (R411). -/
structure TileCtx where
  data    : Mem
  inuse   : BitVec 20
  queue   : List TqEntry
  held    : Option (Nat × Nat)
  faddr   : Word
  waiting : Bool
  move    : Option TileMove
  resume  : Nat
  timed   : List TimedOp
  clock   : Nat
  deriving DecidableEq, Repr

/-- One hardware thread. `cur` holds w0–w31 of the current window; `older` holds w0–w23 of every other resident window, the
nearest caller first, so WSTAT.RES = 1 + its length. `sys` holds every system register kept as a plain word, by its number; PSW
and FCSR stand apart. `revoke` is a GREVOKE whose drain is awaited (R181), `checks` the machine checks that arrived while an
instruction waited, for the boundary after it (R239), `loamBad` the poisoned Loam lines delivered to it and not yet met by the
access they are for (R501), `stq` the retired store that holds in its store queue (R422), `misp` a branch found mispredicted that
has not retired (R277), `prog` the bytes copied by a MOVS that holds (R126). -/
structure Thread where
  run      : RunState
  hold     : Hold
  cur      : FMap Word
  older    : List (FMap Word)
  k        : FMap Word
  f        : FMap Word
  fl       : BitVec 4
  ip       : BitVec 48
  psw      : Psw
  fcsr     : BitVec 12
  sys      : FMap Word
  gw       : FMap GrantWin
  gmail    : List Nat
  revoke   : Option Insn
  draining : Bool
  tinv     : Option TinvOp
  traps    : List Trap
  checks   : List HwError
  loamBad  : List LoamMark
  stq      : Option HeldStore
  misp     : Bool
  prog     : Nat
  tile     : TileCtx
  ras      : List Word
  sbpwd    : Word
  deriving DecidableEq, Repr

/-! ### Cores (chapters 6, 10, 11) -/

/-- A translation a core holds (R158): the domain and XLATE.ROOT tags, the page's first virtual and physical byte,
log2 of its size, its leaf's rights and attributes, and the physical address of the leaf. -/
structure TlbEntry where
  dom   : Nat
  root  : Nat
  va    : Nat
  pa    : Nat
  bits  : Nat
  w     : Bool
  x     : Bool
  plmax : Nat
  g     : Bool
  dev   : Bool
  leaf  : Nat
  dirty : Bool
  deriving DecidableEq, Repr

/-- The state of a line in an L2 (R446, R465). -/
inductive LineSt where
  | shared
  | exclusive
  | modified
  deriving DecidableEq, Repr

/-- An entry of a core's walker caches (R272): domain and XLATE.ROOT tags, the level of the table it names (3 to 1), the
bits of the virtual address that lead to it, the table, and the entries on the way there. -/
structure WalkEntry where
  dom   : Nat
  root  : Nat
  level : Nat
  at_   : Nat
  table : Nat
  deriving DecidableEq, Repr

/-- How far a speculative access has come (R260, R266 to R271, R281, R286): not decoded, held at a fill buffer, SFB or L2
miss bound, held by SPECGUARD, its non-allocating read sent, its data there, its fetch filled; waiting for the path to
resolve without an access; done with a fault, so that its dependents see zero; or to be executed again. -/
inductive SpecAt where
  | decode
  | bound
  | guard
  | sent
  | ready
  | filled
  | waits
  | zero
  | redo
  deriving DecidableEq, Repr

/-- A speculative access in flight, with the entries it holds: the domain and ring it ran in, its physical line, the walk
it used, what an SFB entry holds of it (64 bytes, and whether they came from L2), whether that SFB entry is taken, whether
its line is installed (R271), whether it stands for a load re-executed, and whether it was discarded with its read still
on its way. -/
structure SpecOp where
  acc    : SpecAccess
  dom    : Nat
  line   : Nat
  walk   : List TlbEntry
  at_    : SpecAt
  sfb    : Bool
  fromL2 : Bool
  miss   : Bool
  data   : List Byte
  put    : Bool
  redone : Bool
  dead   : Bool
  deriving DecidableEq, Repr

/-- An L2's own request for a line (R453): its kind, and the store that waits for it, from offset `off`. -/
structure Want where
  kind  : CohKind
  off   : Nat
  bytes : List Byte
  deriving DecidableEq, Repr

/-- A request of a Stream engine whose data have not all been written (R425): the source row, the TSB offset of its data,
the codewords still to come, and whether a revocation's drain awaits it (R181). -/
structure StreamReq where
  row  : Nat
  at_  : Nat
  left : Nat
  marked : Bool
  deriving DecidableEq, Repr

/-- A Stream engine descriptor (Table 10-5). `row` and `off` say which source request issues next (R424), `flight` lists its
requests in flight, and `ending` the code and FADDR it ends with once they have completed (R426). -/
structure Desc where
  src      : Word
  dst      : Word
  shape    : Word
  sstr     : Word
  dstr     : Word
  cnt      : Nat
  state    : Nat
  code     : Nat
  rowsDone : Nat
  ring     : Nat
  thr      : Nat
  faddr    : Word
  row      : Nat
  off      : Nat
  flight   : List StreamReq
  ending   : Option (Nat × Option Word)
  deriving DecidableEq, Repr

/-- One core: its Sward mode (and the thread whose queued WRSR waits to change it, R414), TSB, Stream engine block,
translations, walker caches, the domains its predictors and prefetchers are trained for, caches and speculative work.
`l1i`, `l1d` and `l2use` list the lines of each cache, most recently used first: the line and its revision tag (R465), 65,536
for a line of DRAM. `l2` gives the state of the DRAM lines of L2, `wb` the writeback buffer with whether an entry holds
data, `want` the L2's own open requests, `later` those that wait for one of the same line, `spec` the speculative accesses in
program order. Data bytes of cached lines are those of the coherent image. -/
structure Core where
  mode     : Nat
  owner    : Nat
  modeDrain : Option Nat
  tsb      : Mem
  poison   : List Nat
  apbase   : Nat
  descs    : FMap Desc
  nextDesc : Nat
  scnt     : FMap Word
  tlb      : List TlbEntry
  walker   : List WalkEntry
  bpTags   : List Nat
  pfTags   : List Nat
  l1i      : List (Nat × Nat)
  l1d      : List (Nat × Nat)
  l2       : FMap LineSt
  l2use    : List (Nat × Nat)
  wb       : FMap Bool
  want     : FMap Want
  later    : List (CohKind × CohReq)
  spec     : List SpecOp
  deriving DecidableEq, Repr

/-! ### Homes (chapter 11) -/

/-- Requests a home acts on (Table 11-3); `free` is the freeing of a directory entry (R448). -/
inductive ReqKind where
  | rds
  | rdx
  | upg
  | rdna
  | wrl
  | free
  deriving DecidableEq, Repr

/-- A request in an ordering queue: its kind, its requester, the domain whose shares it takes, and its bytes. -/
structure HomeReq where
  kind : ReqKind
  req  : Nat
  dom  : Nat
  off  : Nat
  bytes : List Byte
  deriving DecidableEq, Repr

/-- The open transaction of a line (R450): its request and the holders whose answers it awaits. -/
structure Txn where
  kind  : ReqKind
  req   : Nat
  dom   : Nat
  off   : Nat
  bytes : List Byte
  wait  : List Nat
  deriving DecidableEq, Repr

/-- The directory state of a line (R446). -/
inductive DirSt where
  | invalid
  | shared (sharers : List Nat)
  | owned (owner : Nat)
  deriving DecidableEq, Repr

/-- What the request at the front of a line's queue waits for before its transaction opens: the freeing of a directory entry
(R448), a miss entry of its slice, or a request entry of its DDR channel (R264). -/
inductive Blocked where
  | none
  | entry (victim : Nat)
  | miss
  | ddr
  deriving DecidableEq, Repr

/-- A line at its home: directory state, package bits (R468), open transaction, waiting requests in order of arrival,
notices recorded under R454 (core), and whether L3 holds it, dirty, and perhaps out of date (R446). `blocked` is what the
first waiting request waits for. For a line homed on another package this slice is the proxy (R468): `right` is what that home
has given this package (0 nothing, 1 S, 2 O), `up` its own open request there. -/
structure HomeLine where
  dir     : DirSt
  pkgs    : BitVec 4
  txn     : Option Txn
  waiting : List HomeReq
  blocked : Blocked
  notices : List Nat
  inL3    : Bool
  l3dirty : Bool
  l3old   : Bool
  right   : Nat
  up      : Option CohKind
  deriving DecidableEq, Repr

/-- A line in an L3 slice: its revision tag (R465; 65,536 for a line of DRAM) and its way (R445). -/
structure L3Line where
  line : Nat
  tag  : Nat
  way  : Nat
  deriving DecidableEq, Repr

/-- A miss toward memory in flight (R259, R264): its slice, its DDR channel, the domain it counts for, and whether it has an
entry of the channel (1), waits for one (0), or has left it (2). -/
structure Miss where
  slice : Nat
  chan  : Nat
  dom   : Nat
  line  : Nat
  ddr   : Nat
  deriving DecidableEq, Repr

/-- FWD and RSP messages on the mesh (Table 11-2). -/
inductive MsgKind where
  | fwds
  | fwdx
  | fwdna
  | inv
  | binv
  | datas
  | datae
  | datax
  | datana
  | grantx
  | fwdack
  | fwdackd
  | fwdnak
  | wbm
  | eve
  | evs
  | wback
  | wbstale
  deriving DecidableEq, Repr

/-- A message on its way: its line, the core or requester at its other end, and in `req` the requester of a forward or
the sender of data (its core, or none for the home). `held` says that it has arrived and its L2 holds it (R453), `data` is
what a DataNA carries. -/
structure CohMsg where
  kind : MsgKind
  line : Nat
  peer : Nat
  req  : Option Nat
  held : Bool
  data : List Byte
  deriving DecidableEq, Repr

/-! ### Loam (chapters 12, 13) -/

/-- One revision of a volume: the page of each unit it wrote, its map pages (top page of each stack; leaf page by
4096 × stack + leaf), its bytes by offset from VBASE, and its attachments (R492). -/
structure Revision where
  number  : Nat
  units   : FMap Nat
  tops    : FMap Nat
  leaves  : FMap Nat
  bytes   : Mem
  pins    : Nat
  deriving DecidableEq, Repr

/-- Where the response of a Synry command goes (R716): its interface, TAG and code. -/
structure Reply where
  iface : Iface
  tag   : Byte
  code  : Nat
  deriving DecidableEq, Repr

/-- An open update session (R523): its number, volume, submitter domain (64 for management), the grant entry it was
opened under, staged units (page, or none for LZERO), staged bytes, and LSTAGE commands outstanding by number. Once
COMMIT has begun: its response, the new revision, and the commit that carries its root record. -/
structure Session where
  number  : Nat
  volume  : Nat
  domain  : Nat
  grant   : Nat
  staged  : FMap (Option Nat)
  bytes   : Mem
  ops     : FMap Reply
  nextOp  : Nat
  commit  : Bool
  reply   : Option Reply
  made    : Option Revision
  root    : Option Nat
  deriving DecidableEq, Repr

/-- An internal commit under way (R522, R539): its volume, the revision it makes with the number kept, the VLEN that a shrink
gives the volume, the response a shrink owes with its parameters, and the commit that carries its root record. -/
structure Compact where
  volume : Nat
  made   : Revision
  vlen   : Option Nat
  reply  : Option (Reply × List Byte)
  root   : Option Nat
  deriving DecidableEq, Repr

/-- A volume (R488): extent, current revision if committed, DELETING, the revision number counter and its revisions
that are current or pinned. -/
structure Volume where
  vbase    : Nat
  vlen     : Nat
  current  : Option Nat
  lastRev  : Nat
  deleting : Bool
  revs     : List Revision
  deriving DecidableEq, Repr

/-- Where an erase block slot stands (R519 to R536). -/
inductive BlockSt where
  | free
  | inUse
  | erasing
  | suspended
  | incomplete
  | retired
  deriving DecidableEq, Repr

/-- A block slot of a stack (page address [25:11]) with the block that fills it: P/E cycles, senses since erase, those
checkpointed, threshold ranking, LEARN, next page to program, live pages, recovery erases started, and the SMC time of
its last patrol refresh. -/
structure Block where
  st        : BlockSt
  cycles    : Nat
  senses    : Nat
  saved     : Nat
  ranking   : List Nat
  learn     : Nat
  used      : Nat
  live      : Nat
  attempt   : Nat
  refreshed : Option Nat
  deriving DecidableEq, Repr

/-- What a page program belongs to: the pages of LSTAGE command `op` of a session, a map page of a session's COMMIT, or
the internal commit of a volume. -/
inductive ProgFor where
  | stage (session op : Nat)
  | map (session : Nat)
  | compact (volume : Nat)
  deriving DecidableEq, Repr

/-- A page program, waiting or started (R532). -/
structure Prog where
  page    : Nat
  what    : ProgFor
  started : Bool
  deriving DecidableEq, Repr

/-- A page-read entry (R495, R500): domain, the page being read (`stage` 2 a top page, 1 a leaf page, 0 the data page),
the volume, revision and unit it serves, the requests it serves, settings tried, codewords sent, and codewords still
failing. -/
structure PageRead where
  entry   : Nat
  domain  : Nat
  page    : Nat
  stage   : Nat
  volume  : Nat
  rev     : Nat
  unit    : Nat
  reqs    : List LoamReq
  sensed  : Bool
  tried   : List Nat
  good    : List Nat
  failing : List Nat
  deriving DecidableEq, Repr

/-- A domain's slice of an LC (Table 12-6). -/
structure LcSlice where
  rdpg   : Nat
  retry  : Nat
  unc    : Nat
  unca   : Nat
  uncVol : Nat
  uncr   : Nat
  mapm   : Nat
  vqsel  : Nat
  deriving DecidableEq, Repr

/-- One Loam stack and its controller: LSTAT, block budget and block table (physical block of each slot, R521; unlisted
slots hold the block of their own number), spares used by plane, write slot by plane, programs, page reads and the
requests that wait for one (R264), decoded-page buffer and map cache (most recent first), and the journal ring's next
record, next SEQ and block-table changes since the last fold (R534). -/
structure Stack where
  ready    : Bool
  state    : Nat
  temp     : Nat
  spares   : Nat
  spare0   : Nat
  spareUse : FMap Nat
  grown    : Nat
  unc      : Nat
  rfDist   : Nat
  rfPatrol : Nat
  passTime : Nat
  pass     : Nat
  factor   : Nat
  blocks   : FMap Block
  table    : FMap Nat
  writing  : FMap Nat
  plane    : Nat
  programs : List Prog
  reads    : List PageRead
  nextRead : Nat
  waiting  : List LoamReq
  buffer   : List (Nat × Nat)
  mapTop   : List (Nat × Nat)
  mapLeaf  : List Nat
  journal  : Nat
  jseq     : Nat
  changed  : List Nat
  slices   : FMap LcSlice
  deriving DecidableEq, Repr

/-- Loam as a whole: stacks, volumes, sessions, internal commits and the parameters of LPARAM (Table 13-3). -/
structure Loam where
  stackMap      : FMap Stack
  volumes     : FMap Volume
  sessions    : List Session
  compacts    : List Compact
  nextSession : Nat
  patrolHours : Nat
  refreshBits : Nat
  pgmPlanes   : Nat
  deriving DecidableEq, Repr

/-! ### Seedbank (chapter 14) -/

/-- A commit buffer (R569): its CSEQ, page images by page index, and the SMC time of its first write. -/
structure SbBuf where
  cseq   : Nat
  images : FMap (List Byte)
  first  : Option Nat
  asked  : Bool
  deriving DecidableEq, Repr

/-- A commit past its commit point whose pages are being programmed (R573): pages still to program, and the failed
verifies of the one at the front. -/
structure SbCommit where
  cseq   : Nat
  todo   : FMap (List Byte)
  images : FMap (List Byte)
  tries  : Nat
  deriving DecidableEq, Repr

/-- The open states and failure count of a partition (R583, R584), REFUSED of its window, and the CSEQ of the buffer
that holds its latest write. -/
structure SbPart where
  rdOpen  : Bool
  wrOpen  : Bool
  fails   : Nat
  refused : Bool
  ticket  : Nat
  deriving DecidableEq, Repr

/-- A Synry command that a commit completes (R574): the commit, where its response goes, and its results. -/
structure SbWait where
  cseq    : Nat
  reply   : Reply
  results : List Byte
  deriving DecidableEq, Repr

/-- Seedbank. `page` holds the cells of the Page region by offset; `spareMap` gives the spare of a page that a spare
replaces (R576); `failed` lists the pages marked failed, `bad` those that read uncorrectable (R582); `auditHead` and
`logHead` are the next page of each ring, `auditLive` the audit records not yet cleared. -/
structure Seedbank where
  recovered  : Bool
  ferric     : Mem
  page       : Mem
  openBuf    : SbBuf
  commit     : Option SbCommit
  done       : Nat
  parts      : FMap SbPart
  spareMap   : FMap Nat
  sparesUsed : Nat
  failed     : List Nat
  bad        : List Nat
  weak       : Nat
  patrolAt   : Nat
  replayed   : Nat
  auditHead  : Nat
  auditLive  : Nat
  logHead    : Nat
  waiters    : List SbWait
  deriving DecidableEq, Repr

/-! ### Domains (chapters 4, 5, 15) -/

/-- A Grant Store entry (R173). The generation outlives the entry's use. -/
structure Grant where
  inUse  : Bool
  gen    : Nat
  kind   : Nat
  object : Nat
  rights : BitVec 8
  base   : Nat
  len    : Nat
  parent : Nat
  depth  : Nat
  holder : Option Nat
  parked : Option Nat
  deriving DecidableEq, Repr

/-- A domain's Grant Store: entries, the lowest index never used, and the indexes freed since, longest free first
(R177, R180). -/
structure GrantStore where
  entries : FMap Grant
  fresh   : Nat
  freed   : List Nat
  deriving DecidableEq, Repr

/-- SRCCFG of one source, Table 5-8. -/
structure Src where
  level  : Nat
  en     : Bool
  pend   : Bool
  ovr    : Bool
  target : Nat
  deriving DecidableEq, Repr

/-- A DRAM window of a domain: first byte and first byte past it. -/
structure DWin where
  base  : Nat
  limit : Nat
  deriving DecidableEq, Repr

/-- A domain (R605): its resources, readback fields, root grants by listing order, Grant Store, distributor block,
holding thread (R620), its boot image once copied (IP, load address and LENGTH), and the boot thread of its creation, which the
sources not touched since target (R226). -/
structure Domain where
  valid     : Bool
  tiles     : BitVec 64
  windows   : FMap DWin
  cutWin    : List Nat
  ways      : BitVec 16
  rsv       : FMap Nat
  cap       : FMap Nat
  specguard : Bool
  ports     : BitVec 16
  power     : Nat
  gen       : Nat
  evict     : BitVec 64
  evdl      : Nat
  roots     : List Nat
  store     : GrantStore
  srcs      : FMap Src
  holder    : Nat
  bootVol   : Nat
  bootOff   : Nat
  loadOff   : Nat
  boot      : Option (Nat × Nat × Nat)
  bootDone  : Bool
  power10   : Nat
  srcBoot   : Nat
  deriving DecidableEq, Repr

/-- One item of a change set (Table 15-4): its Synry code, parameters and status, and how far its parts have come. `phase`
of a class Q part: 0 not begun, 1 in its grace period up to `deadline`, 2 cut off and draining, 3 scrubbing tiles and
zeroing windows, those of `todo` (tile t, or 64 + window w). -/
structure Item where
  code     : Nat
  params   : List Byte
  status   : Nat
  phase    : Nat
  deadline : Nat
  forced   : Bool
  todo     : List Nat
  removed  : Bool
  added    : Bool
  deriving DecidableEq, Repr

/-- Where a change set stands. -/
inductive SetSt where
  | building
  | queued
  | removal
  | addition
  | finished
  | rejected
  deriving DecidableEq, Repr

/-- A change set (R611). `iface` is 0 for the management port, 1 + node for VC3, 65537 + domain for a mailbox. `edge`
says that the class A parts of the pass it is in have taken effect; `reply` is where CSEND is answered. -/
structure ChangeSet where
  number  : Nat
  iface   : Nat
  persist : Bool
  items   : List Item
  st      : SetSt
  status  : Nat
  edge    : Bool
  reply   : Option Reply
  deriving DecidableEq, Repr

/-! ### Fabric (chapter 16) -/

/-- A link port (Tables 16-2 and 16-8). `fails` counts the consecutive replays of one flit (R646). -/
structure FPort where
  fails   : Nat
  mode    : Nat
  up      : Bool
  x4      : Bool
  fenced  : Bool
  peer    : Nat
  replay  : Nat
  serial  : Nat
  farPort : Nat
  deriving DecidableEq, Repr

/-- A memory endpoint (R669, FEPSET). `core` is set for a TSB endpoint. -/
structure Endpoint where
  domain   : Nat
  base     : Nat
  len      : Nat
  core     : Option Nat
  rcnt     : Nat
  nodeLo   : Nat
  nodeHi   : Nat
  initDom  : Nat
  rights   : BitVec 8
  deriving DecidableEq, Repr

/-- A sender entry of a receive queue: node range, domain, quota. -/
structure Sender where
  nodeLo : Nat
  nodeHi : Nat
  domain : Nat
  quota  : Nat
  deriving DecidableEq, Repr

/-- A receive queue (R676) with the source (node, domain) of each slot delivered and not consumed. -/
structure RecvQueue where
  domain  : Nat
  base    : Nat
  sz      : Nat
  isrc    : Nat
  senders : List Sender
  head    : BitVec 32
  tail    : BitVec 32
  slots   : List (Nat × Nat)
  deriving DecidableEq, Repr

/-- A collective group (R680) and its sequence. -/
structure Group where
  members : List Nat
  domains : List Nat
  seq     : Nat
  deriving DecidableEq, Repr

/-- A credit table entry (R678), least recently used first in the table. `asked` says that its quota was asked for at `since`,
`deny` is the code its queue answered. -/
structure Credit where
  domain : Nat
  queue  : Nat
  node   : Nat
  have_  : Nat
  quota  : Nat
  asked  : Bool
  deny   : Nat
  since  : Nat
  deriving DecidableEq, Repr

/-- A thread's area of the agent slice (Table 16-8). -/
structure FabThread where
  sndState : Nat
  sndCode  : Nat
  colSrc   : Word
  colDst   : Word
  colCnt   : Nat
  colState : Nat
  colCode  : Nat
  colFlags : BitVec 3
  msg      : Mem
  deriving DecidableEq, Repr

/-- A TPUT or TGET holding a fabric-get entry (R675), or a send, which counts for domain `dom` (R284). `marked` says that it was
in flight at the marking of a revocation of its domain (R181); `tag` names it in its packets, `since` is when it was sent. -/
structure FabOp where
  thread : Nat
  dom    : Nat
  kind   : Nat
  window : Nat
  object : Nat
  reg    : Nat
  row0   : Nat
  nrow   : Nat
  done   : Nat
  cnt    : Nat
  lcen   : Bool
  node   : Nat
  faddr  : Word
  tag    : Nat
  since  : Nat
  marked : Bool
  deriving DecidableEq, Repr

/-- A collective in flight on this member (R681, R682): its operation, the chunks heard from each child, the next chunk
to combine, and the chunks written. -/
structure Coll where
  thread : Nat
  dom    : Nat
  group  : Nat
  me     : Nat
  op     : Nat
  type   : Nat
  isat   : Bool
  tsb    : Bool
  root   : Nat
  cnt    : Nat
  cen    : Bool
  count  : Nat
  src    : Word
  dst    : Word
  ring   : Nat
  seq    : Nat
  next   : Nat
  heard  : FMap (FMap (List (BitVec 32)))
  wrote  : Nat
  flags  : BitVec 3
  since  : Nat
  marked : Bool
  deriving DecidableEq, Repr

/-- The fabric agent of this node. `out` holds the packets sent, with the port each left by (8: this node), `held` those with no
live port (R661), `phase` how far this node is in a route change (R665: 1 bank written, 2 buffers divided, 3 epoch flipped, 4
drained), `parked` the packets ahead of their turn in the reorder buffer and `inbuf` those that hold in an input buffer (R667),
`badPuts` the TPUTs (node, thread, tag) that had a row refused here and whose last row is still to come (R673), `early` collective
chunks that arrived before this member started, `getWait` the threads that hold at the bound of fabric gets, in order of arrival
(R261). `chStep` is where the coordinator's route change stands (R665), `chWait` the nodes whose answer it awaits, `chNext` the
changes waiting, and `retired` counts the changes whose old bank this node has retired. Of the Tussock (R647 to R652, log 51):
`members` the DRAM of each member in GiB, `memberBase` its base in GiB, `assembled` whether the ranges stand, `badPkgs` the members
that no longer answer, and `news` what the master has told and TUSSOCK_ASSEMBLY has still to apply. -/
structure Fabric where
  state     : Nat
  node      : Nat
  disc      : Bool
  coord     : Bool
  coordSer  : Option Nat
  epoch     : Bool
  phase     : Nat
  round     : Nat
  candidate : Option Nat
  candSince : Nat
  lost      : List Nat
  answers   : List LinkState
  assigned  : FMap Nat
  firstUp   : Option Nat
  ports     : FMap FPort
  bank0     : FMap (BitVec 32)
  bank1     : FMap (BitVec 32)
  gw0       : FMap (BitVec 32)
  gw1       : FMap (BitVec 32)
  endpoints : FMap Endpoint
  queues    : FMap RecvQueue
  groups    : FMap Group
  credits   : List Credit
  threads   : FMap FabThread
  ops       : List FabOp
  colls     : List Coll
  seqOut    : FMap (BitVec 16)
  seqIn     : FMap (BitVec 16)
  parked    : List Packet
  inbuf     : List Packet
  badPuts   : List (Nat × Nat × Nat)
  held      : List Packet
  out       : List (Nat × Packet)
  early     : List CollMsg
  getWait   : List Nat
  nextOp    : Nat
  chStep    : Nat
  chWait    : List Nat
  chDone    : List Nat
  chNext    : List (List Byte)
  retired   : Nat
  ferrCode  : Nat
  ferrNode  : Nat
  ferrThr   : Nat
  members   : FMap Nat
  memberBase : FMap Nat
  assembled : Bool
  badPkgs   : List Nat
  news      : Option (Nat × List (Nat × Nat))
  deriving DecidableEq, Repr

/-! ### SMC, clocks and power (chapter 17) -/

/-- A tile's clock and throttle state (Table 17-2, R707 to R715). Divider codes are those of R699. `target` is the divider
a change runs to; `wait` says that its voltage is awaited (1), read once too low (2), or reached (0); `held` that a
regulator failed to reach it (R702); `vreg` that its rail is faulted (R715). -/
structure TileClk where
  req      : Nat
  eff      : Nat
  allow3   : Bool
  target   : Option Nat
  wait     : Nat
  held     : Bool
  dutyPwr  : Nat
  divPwr   : Nat
  dutyTh   : Nat
  divTh    : Nat
  vreg     : Bool
  vcore    : Nat
  droop    : Nat
  temp     : Int
  tempAt   : Nat
  tempHot  : Bool
  power    : Nat
  power1s  : Nat
  avail    : Bool
  deriving DecidableEq, Repr

/-- The latest response to a command: code, status and result bytes. `pend` says that the command of its TAG is still
pending (R716). -/
structure Resp where
  pend    : Bool
  code    : Nat
  status  : Nat
  results : List Byte
  deriving DecidableEq, Repr

/-- A mailbox slot (Table 17-10). -/
structure MbSlot where
  req    : Mem
  rsp    : Mem
  state  : Nat
  tag    : Byte
  status : Nat
  ien    : Bool
  deriving DecidableEq, Repr

/-- The SMC: start-up progress (R742), Synry tags by interface, mailboxes, sensors, throttling and its log queue. `early` holds
the frames that came before step 1 (R38). `mgmtOut` is the frame that the last read of the management port returned, `rpll` says
that RPLL runs, `railBad` lists the rails found low since the last cold reset (R802). -/
structure Smc where
  up        : Bool
  step      : Nat
  fail      : Nat
  warm      : Bool
  ovlUsed   : Bool
  sigChk    : Bool
  fromCs1   : Bool
  imgGen    : Nat
  config    : FMap (List Byte)
  image     : List Byte
  stepBegan : Nat
  mgmtAddr  : Nat
  mgmt      : FMap Resp
  vc3       : FMap (FMap Resp)
  slots     : FMap MbSlot
  waiting   : List (Nat × SynryReq)
  early     : List (Iface × List Byte × Bool)
  sets      : List ChangeSet
  nextSet   : Nat
  clk       : FMap TileClk
  ioTemp    : FMap Int
  ioAt      : FMap Nat
  ioHot     : List Nat
  loamTemp  : FMap Int
  loamAt    : FMap Nat
  ppt       : Nat
  pptNext   : Nat
  pkg10     : Nat
  pkg1s     : Nat
  uncore    : Nat
  factor    : Nat
  vr        : FMap (List Int)
  vrStatus  : FMap (BitVec 16)
  vrFault   : List Nat
  prochotIn : Bool
  tripped   : Bool
  refLost   : Bool
  rpll      : Bool
  railBad   : List Nat
  mgmtOut   : List Byte
  logQ      : List (Nat × Nat × List Byte)
  deriving DecidableEq, Repr

/-! ### Start-up, memory interfaces and lands (chapters 1, 18, 19) -/

/-- The lands the model reads or drives (Table 19-3), and the rails' supervision. -/
structure Pins where
  vaux      : Bool
  pwrgood   : Bool
  resetN    : Bool
  wpN       : Bool
  prochotN  : Bool
  thermtripN : Bool
  alertN    : Bool
  perstN    : BitVec 16
  bootSrc   : BitVec 2
  tussockId : BitVec 2
  spiOwned  : Bool
  pwrgoodAt : Nat
  deriving DecidableEq, Repr

/-- The test access port (R797). -/
structure Tap where
  ir       : Byte
  captured : List Bool
  preload  : List Bool
  control  : Bool
  highz    : Bool
  deriving DecidableEq, Repr

/-- Installed DRAM (R753, R754, R787): trained capacity per channel in GiB, DIMM temperatures in 1/16 °C, the top of
installed DRAM, and the DDR speed in MT/s; the windows the fill of R755 has yet to take (domain, first byte, first byte
past), the ranges it has passed, and whether the DRAM outside every window is yet to be filled; and by channel the row a
non-allocating read left open (R275). -/
structure Ddr where
  trained  : Bool
  caps     : FMap Nat
  dimms    : FMap Nat
  two      : Bool
  temps    : FMap Int
  top      : Nat
  fills    : List (Nat × Nat × Nat)
  filled   : List (Nat × Nat)
  rest     : Bool
  speed    : Nat
  openRow  : FMap Nat
  deriving DecidableEq, Repr

/-- A root port (R789 to R792, R821): its configuration space bytes, access registers and link, and the sources whose PEND
its MSI writes set. -/
structure RootPort where
  exists_  : Bool
  enabled  : Bool
  up       : Bool
  width    : Nat
  rate     : Nat
  cfg      : Mem
  cfgAddr  : BitVec 32
  ur       : Bool
  dpc      : Bool
  msi      : List Nat
  dmaData  : List Byte
  deriving DecidableEq, Repr

/-- The state of the part. `stops` holds the coherence requests that wait at a mesh stop for a full ordering queue (R450), in
order of arrival, `agentWant` the requests for ownership that agents have open (R462), `missWait` the lines whose request waits
for a miss entry (R264), `misses` the misses in flight, `l3` the lines of the L3 slices and `dirUse` those with a directory entry,
both most recently used first. `free` counts the free values taken and is the model's alone. -/
structure State where
  threads  : FMap Thread
  cores    : FMap Core
  dram     : Mem
  lines    : FMap HomeLine
  msgs     : List CohMsg
  stops    : List (CohKind × CohReq)
  agentWant : List CohReq
  missWait : List Nat
  misses   : List Miss
  l3       : List L3Line
  dirUse   : List Nat
  loam     : Loam
  seed     : Seedbank
  domains  : FMap Domain
  tileDom  : FMap Nat
  fabric   : Fabric
  smc      : Smc
  pins     : Pins
  tap      : Tap
  ddr      : Ddr
  ports    : FMap RootPort
  timeBase : Nat
  free     : Nat
  pending  : List Instr
  deriving DecidableEq, Repr

/-! ### The state right after reset -/

/-- PSW after a cold reset, Table 5-4. -/
def Psw.reset : Psw := { pl := 0, ml := 0xF, ems := false, ss := false, brs := false }

/-- The tile context after a cold reset, Table 7-3 and R324. -/
def TileCtx.reset : TileCtx :=
  { data := [], inuse := 0, queue := [], held := none, faddr := 0, waiting := false, move := none,
    resume := 0, timed := [], clock := 0 }

/-- The system registers of thread `g` whose reset value is not zero (Table 7-3): TS0–TS3 hold 1.0; TSBBASE and
TSBLIM split the TSB between the two threads of the core. -/
def sysReset (g : Nat) : FMap Word :=
  [(0x504, 0x3F800000), (0x505, 0x3F800000), (0x506, 0x3F800000), (0x507, 0x3F800000)] ++
  (if g % 2 = 0 then [(0x50D, 0x40000)] else [(0x50C, 0x40000), (0x50D, 0x80000)])

/-- Thread `g` after a cold reset (R76): halted, every register zero, RES 1.
DESIGN CHOICE (log 2). -/
def Thread.reset (g : Nat) : Thread :=
  { run := .halted, hold := .none, cur := [], older := [], k := [], f := [], fl := 0, ip := 0, psw := Psw.reset, fcsr := 0,
    sys := sysReset g, gw := [], gmail := [], revoke := none, draining := false, tinv := none, traps := [], checks := [],
    loamBad := [], stq := none, misp := false, prog := 0, tile := TileCtx.reset, ras := [], sbpwd := 0 }

/-- A Stream engine descriptor after a cold reset, Table 10-5. -/
def Desc.reset : Desc :=
  { src := 0, dst := 0, shape := 0, sstr := 0, dstr := 0, cnt := 0, state := 0, code := 0, rowsDone := 0, ring := 0,
    thr := 0, faddr := 0, row := 0, off := 0, flight := [], ending := none }

/-- A core after a cold reset: Shared mode, TSB and caches empty.
DESIGN CHOICE (log 2). -/
def Core.reset : Core :=
  { mode := 0, owner := 0, modeDrain := none, tsb := [], poison := [], apbase := 0, descs := [], nextDesc := 0,
    scnt := [], tlb := [], walker := [], bpTags := [], pfTags := [], l1i := [], l1d := [], l2 := [], l2use := [],
    wb := [], want := [], later := [], spec := [] }

/-- A line no cache holds and no request names.
DESIGN CHOICE (log 4, 7). -/
def HomeLine.reset : HomeLine :=
  { dir := .invalid, pkgs := 0, txn := none, waiting := [], blocked := .none, notices := [], inL3 := false,
    l3dirty := false, l3old := false, right := 0, up := none }

/-- An erase block never erased. -/
def Block.reset : Block :=
  { st := .free, cycles := 0, senses := 0, saved := 0, ranking := [0, 1, 2, 3, 4, 5, 6, 7], learn := 0, used := 0,
    live := 0, attempt := 0, refreshed := none }

/-- A domain's LC slice at domain creation (R504). -/
def LcSlice.reset : LcSlice :=
  { rdpg := 0, retry := 0, unc := 0, unca := 0, uncVol := 0, uncr := 0, mapm := 0, vqsel := 0 }

/-- A stack after reset: LOAM_READY not reached, the spares of Table 13-1.
DESIGN CHOICE (log 2). -/
def Stack.reset : Stack :=
  { ready := false, state := 0, temp := 0, spares := 1460, spare0 := 1460, spareUse := [], grown := 0, unc := 0,
    rfDist := 0, rfPatrol := 0, passTime := 0, pass := 0, factor := 1, blocks := [], table := [], writing := [],
    plane := 0, programs := [], reads := [], nextRead := 0, waiting := [], buffer := [], mapTop := [], mapLeaf := [],
    journal := 0, jseq := 1, changed := [], slices := [] }

/-- A volume number with no extent. -/
def Volume.reset : Volume :=
  { vbase := 0, vlen := 0, current := none, lastRev := 0, deleting := false, revs := [] }

/-- Loam after reset, with the LPARAM defaults of Table 13-3. -/
def Loam.reset : Loam :=
  { stackMap := [], volumes := [], sessions := [], compacts := [], nextSession := 1, patrolHours := 24, refreshBits := 40,
    pgmPlanes := 32 }

/-- The Page region of a part that no record has been written to: the bitmaps of counters 0–4 at their starting
pattern (R579), every other byte zero. -/
def pageReset : Mem := (List.range 160).map (fun i => (0x84000 + i, 0xFF))

/-- A partition after reset: closed states and counts cleared (R583). -/
def SbPart.reset : SbPart := { rdOpen := false, wrOpen := false, fails := 0, refused := false, ticket := 0 }

/-- Seedbank after reset, recovery not yet run (R577).
DESIGN CHOICE (log 2). -/
def Seedbank.reset : Seedbank :=
  { recovered := false, ferric := [], page := pageReset,
    openBuf := { cseq := 1, images := [], first := none, asked := false }, commit := none, done := 0, parts := [],
    spareMap := [], sparesUsed := 0, failed := [], bad := [], weak := 0, patrolAt := 0, replayed := 0,
    auditHead := 0, auditLive := 0, logHead := 0, waiters := [] }

/-- A Grant Store with every entry free and index 0 unused (R174, R177). -/
def GrantStore.reset : GrantStore := { entries := [], fresh := 1, freed := [] }

/-- An entry of the Grant Store never used. -/
def Grant.reset : Grant :=
  { inUse := false, gen := 0, kind := 0, object := 0, rights := 0, base := 0, len := 0, parent := 0, depth := 0,
    holder := none, parked := none }

/-- A domain that does not exist. -/
def Domain.reset : Domain :=
  { valid := false, tiles := 0, windows := [], cutWin := [], ways := 0xFFFF, rsv := [], cap := [],
    specguard := false, ports := 0, power := 0, gen := 0, evict := 0, evdl := 0, roots := [],
    store := GrantStore.reset, srcs := [], holder := 0, bootVol := 0xFFFF, bootOff := 0, loadOff := 0,
    boot := none, bootDone := false, power10 := 0, srcBoot := 0 }

/-- A link port after reset. -/
def FPort.reset : FPort :=
  { fails := 0, mode := 0, up := false, x4 := false, fenced := false, peer := 0, replay := 0, serial := 0, farPort := 0 }

/-- A thread's area of the agent slice after reset (Table 16-8). -/
def FabThread.reset : FabThread :=
  { sndState := 0, sndCode := 0, colSrc := 0, colDst := 0, colCnt := 0, colState := 0, colCode := 0, colFlags := 0,
    msg := [] }

/-- The fabric agent after reset (Table 16-8, R653).
DESIGN CHOICE (log 2). -/
def Fabric.reset : Fabric :=
  { state := 0, node := 0xFFFF, disc := false, coord := false, coordSer := none, epoch := false, phase := 0, round := 0,
    candidate := none, candSince := 0, lost := [], answers := [], assigned := [], firstUp := none, ports := [], bank0 := [],
    bank1 := [], gw0 := [], gw1 := [], endpoints := [], queues := [], groups := [], credits := [], threads := [], ops := [],
    colls := [], seqOut := [], seqIn := [], parked := [], inbuf := [], badPuts := [], held := [], out := [], early := [],
    getWait := [], nextOp := 0, chStep := 0, chWait := [], chDone := [], chNext := [], retired := 0, ferrCode := 0,
    ferrNode := 0, ferrThr := 0, members := [], memberBase := [], assembled := false, badPkgs := [], news := none }

/-- A tile's clock before the CLOCKS section is read: the slowest divider, full duty. -/
def TileClk.reset : TileClk :=
  { req := 3, eff := 3, allow3 := false, target := none, wait := 0, held := false, dutyPwr := 16, divPwr := 0, dutyTh := 16,
    divTh := 0, vreg := false, vcore := 0, droop := 0, temp := 0, tempAt := 0, tempHot := false, power := 0, power1s := 0,
    avail := true }

/-- A tile's clock and voltage at reset, with what its sensors last read: they stand on the SMC's side of a reset (R736). -/
def TileClk.stopped (c : TileClk) : TileClk :=
  { TileClk.reset with temp := c.temp, tempAt := c.tempAt, tempHot := c.tempHot, droop := c.droop, power := c.power,
                       power1s := c.power1s }

/-- A mailbox slot after reset (Table 17-10). -/
def MbSlot.reset : MbSlot := { req := [], rsp := [], state := 0, tag := 0, status := 0, ien := false }

/-- The SMC as VAUX has just risen: step 1 not run.
DESIGN CHOICE (log 2). -/
def Smc.reset : Smc :=
  { up := false, step := 1, fail := 0, warm := false, ovlUsed := false, sigChk := false, fromCs1 := false, imgGen := 0,
    config := [], image := [], stepBegan := 0, mgmtAddr := 0x4E, mgmt := [], vc3 := [], slots := [], waiting := [],
    early := [], sets := [], nextSet := 1, clk := [], ioTemp := [], ioAt := [], ioHot := [], loamTemp := [], loamAt := [],
    ppt := 450, pptNext := 450, pkg10 := 0, pkg1s := 0, uncore := 0, factor := 1024, vr := [], vrStatus := [], vrFault := [],
    prochotIn := false, tripped := false, refLost := false, rpll := false, railBad := [], mgmtOut := [], logQ := [] }

/-- The lands with VAUX up and the other rails not yet risen; open inputs take their pull-downs (R804). -/
def Pins.reset : Pins :=
  { vaux := true, pwrgood := false, resetN := false, wpN := false, prochotN := true, thermtripN := true,
    alertN := true, perstN := 0, bootSrc := 0, tussockId := 0, spiOwned := false, pwrgoodAt := 0 }

/-- The TAP at Test-Logic-Reset, which selects IDCODE (Table 19-8). -/
def Tap.reset : Tap := { ir := 1, captured := [], preload := [], control := false, highz := false }

/-- DRAM before training. -/
def Ddr.reset : Ddr :=
  { trained := false, caps := [], dimms := [], two := false, temps := [], top := 0, fills := [], filled := [], rest := false,
    speed := 0,
    openRow := [] }

/-- A root port before the PCIE section is read. -/
def RootPort.reset : RootPort :=
  { exists_ := false, enabled := false, up := false, width := 0, rate := 0, cfg := [], cfgAddr := 0, ur := false,
    dpc := false, msi := [], dmaData := [] }

/-- The part right after a cold reset: VAUX has just come inside its limits (R735, R740).
DESIGN CHOICE (log 2, 3, 63). -/
def State.reset : State :=
  { threads := [], cores := [], dram := [], lines := [], msgs := [], stops := [], agentWant := [], missWait := [],
    misses := [], l3 := [], dirUse := [], loam := Loam.reset, seed := Seedbank.reset, domains := [], tileDom := [],
    fabric := Fabric.reset, smc := Smc.reset, pins := Pins.reset, tap := Tap.reset, ddr := Ddr.reset, ports := [],
    timeBase := 0, free := 0, pending := [] }

end Sys2Proof.Machine
end

