-- ==== Sys2Proof/Machine/Seed.lean ====
section
/-!
DEFINITION. Seedbank as a store (R561 to R579, R587): CRC-32C, page frames and A/B records, the commit buffers and the
commit journal, spread counters and the two rings.
-/

namespace Sys2Proof.Machine

/-! ### CRC-32C -/

/-- Shifts `n` bits of a reflected CRC-32C register.
PRESUMED (log 35). -/
def crcShift (n c : Nat) : Nat :=
  match n with
  | 0 => c
  | k + 1 => crcShift k (if c % 2 = 1 then (c / 2) ^^^ 0x82F63B78 else c / 2)

/-- CRC-32C of a byte list: reflected, seeded and finished with all ones.
PRESUMED (log 35). -/
def crc32c (bs : List Byte) : Nat := bs.foldl (fun c b => crcShift 8 (c ^^^ b.toNat)) 0xFFFFFFFF ^^^ 0xFFFFFFFF

/-! ### Frames (R566, R567) -/

/-- `n` bytes of a list, zero-padded. -/
def padTo (n : Nat) (bs : List Byte) : List Byte := (bs ++ List.replicate n 0).take n

/-- The little-endian number of `n` bytes at an offset of a byte list. -/
def leAt (bs : List Byte) (off n : Nat) : Nat := leNat ((bs.drop off).take n)

/-- A 64-byte page of a payload and a SEQ. -/
def framePage (payload : List Byte) (seq : Nat) : List Byte :=
  let b := padTo 56 payload ++ leBytes 4 seq
  b ++ leBytes 4 (crc32c b)

/-- SEQ of a page. -/
def pageSeq (pg : List Byte) : Nat := leAt pg 56 4

/-- Does the page's frame check? -/
def pageValid (pg : List Byte) : Bool := crc32c (pg.take 60) == leAt pg 60 4

/-- SEQ comparison of R567: is `a` larger than `b`? -/
def seqLarger (a b : Nat) : Bool :=
  let d := (a % 2 ^ 32 + 2 ^ 32 - b % 2 ^ 32) % 2 ^ 32
  decide (1 ≤ d) && decide (d < 2 ^ 31)

/-! ### Partitions (Table 14-3), by page index -/

/-- First page of a partition. -/
def Part.factory : Nat := 0x0
def Part.calib : Nat := 0x4000 / 64
def Part.overlay : Nat := 0x14000 / 64
def Part.param : Nat := 0x54000 / 64
def Part.train : Nat := 0x64000 / 64
def Part.counters : Nat := 0x84000 / 64
def Part.loamroot : Nat := 0x88000 / 64
def Part.loamtab : Nat := 0xA8000 / 64
def Part.log : Nat := 0x1EE000 / 64
def Part.audit : Nat := 0x22E000 / 64
def Part.spare : Nat := 0x2EE000 / 64
def Part.domain (d : Nat) : Nat := (0x300000 + 0x4000 * d) / 64

/-- Offset and size of a partition number, none when it is undefined. -/
def partRange (n : Nat) : Option (Nat × Nat) :=
  if n < 64 then some (0x300000 + 0x4000 * n, 0x4000)
  else match n with
    | 0x40 => some (0, 0x4000)
    | 0x41 => some (0x4000, 0x10000)
    | 0x42 => some (0x14000, 0x40000)
    | 0x43 => some (0x54000, 0x10000)
    | 0x44 => some (0x64000, 0x20000)
    | 0x45 => some (0x84000, 0x4000)
    | 0x46 => some (0x88000, 0x20000)
    | 0x47 => some (0xA8000, 0x146000)
    | 0x48 => some (0x1EE000, 0x40000)
    | 0x49 => some (0x22E000, 0xC0000)
    | _ => none

/-- The partition that holds a page. -/
def partOfPage (i : Nat) : Nat :=
  if Part.domain 0 ≤ i then (i - Part.domain 0) / 256
  else ((List.range 10).find? (fun k => match partRange (0x40 + k) with
    | some (o, z) => decide (o ≤ 64 * i) && decide (64 * i < o + z)
    | none => false)).elim 0x4A (fun k => 0x40 + k)

/-! ### Reading (R572) -/

/-- The page of cells that holds page `i`: its own, or the spare it is mapped to (R576). -/
def Seedbank.cellsOf (b : Seedbank) (i : Nat) : Nat :=
  match FMap.find b.spareMap i with | some k => Part.spare + k | none => i

/-- Page `i` of the region. -/
def Seedbank.regionPage (b : Seedbank) (i : Nat) : List Byte := Mem.block b.page (64 * b.cellsOf i) 64

/-- Page `i` as a read returns it: the open buffer's image, the committing buffer's, or the region. -/
def Seedbank.readPage (b : Seedbank) (i : Nat) : List Byte :=
  match FMap.find b.openBuf.images i with
  | some x => x
  | none =>
    match b.commit.bind (fun c => FMap.find c.images i) with
    | some x => x
    | none => b.regionPage i

/-- `n` bytes of the Page region from byte offset `off`. -/
def Seedbank.readBytes (b : Seedbank) (off n : Nat) : List Byte :=
  let first := off / 64
  (((List.range ((off % 64 + n + 63) / 64)).flatMap (fun k => b.readPage (first + k))).drop (off % 64)).take n

/-- Is one of the pages of a byte range uncorrectable (R582)? A page whose image a buffer holds is not. -/
def Seedbank.unreadable (b : Seedbank) (off n : Nat) : Bool :=
  (List.range ((off % 64 + n + 63) / 64)).any (fun k =>
    let i := off / 64 + k
    b.bad.contains i && !FMap.has b.openBuf.images i && !(match b.commit with | some c => FMap.has c.images i | none => false))

/-! ### A/B records (R567, R568) -/

/-- The copy of `n` pages from page `i`: its SEQ when valid. -/
def Seedbank.copySeq (b : Seedbank) (i n : Nat) : Option Nat :=
  let q := pageSeq (b.readPage i)
  if (List.range n).all (fun k => !b.bad.contains (i + k) && pageValid (b.readPage (i + k)) && pageSeq (b.readPage (i + k)) == q) then
    some q
  else none

/-- The copy R567 selects of the record whose copies start at pages `a` and `c`: its first page and SEQ. -/
def Seedbank.select (b : Seedbank) (a c n : Nat) : Option (Nat × Nat) :=
  match b.copySeq a n, b.copySeq c n with
  | some x, some y => if seqLarger y x then some (c, y) else some (a, x)
  | some x, none => some (a, x)
  | none, some y => some (c, y)
  | none, none => none

/-- The payload of a record, none when it is absent.
DESIGN CHOICE (log 39). -/
def Seedbank.record (b : Seedbank) (a c n : Nat) : Option (List Byte) :=
  (b.select a c n).map (fun p => (List.range n).flatMap (fun k => (b.readPage (p.1 + k)).take 56))

/-- The payload of a one-page record whose copy B follows copy A. -/
def Seedbank.rec1 (b : Seedbank) (a : Nat) : Option (List Byte) := b.record a (a + 1) 1

/-! ### Commits (R569 to R576) -/

/-- Base of the commit journal in Ferric. -/
def commitAt : Nat := 0x8000

/-- The directory entries and images of a commit as the journal holds them. -/
def journalBody (images : FMap (List Byte)) : List Byte :=
  images.flatMap (fun p => leBytes 4 (p.1 % 65536)) ++ images.flatMap (fun p => p.2)

/-- The DONE word of a finished commit. -/
def doneWord : Nat := 0xD0D0D0D0

/-- Header of a commit with its DONE word. -/
def journalHeader (cseq : Nat) (images : FMap (List Byte)) (done : Nat) : List Byte :=
  let h := padTo 56 (leBytes 4 cseq ++ leBytes 4 images.length)
  h ++ leBytes 4 done ++ leBytes 4 (crc32c (h ++ journalBody images))

/-- The journal of a commit written whole. -/
def journalWrite (f : Mem) (cseq : Nat) (images : FMap (List Byte)) : Mem :=
  let f := Mem.splice f (commitAt + 0x40) (images.flatMap (fun p => leBytes 4 (p.1 % 65536)))
  let f := Mem.splice f (commitAt + 0x140) (images.flatMap (fun p => p.2))
  Mem.splice f commitAt (journalHeader cseq images 0)

/-- Step 5: the DONE word, and the buffer is free. -/
def Seedbank.finish (b : Seedbank) : Seedbank :=
  { b with ferric := Mem.splice b.ferric (commitAt + 56) (leBytes 4 doneWord), commit := none }

/-- Steps 1 to 3 of R573 for the open buffer, the other being free: the commit point is reached and the other buffer
opens. A commit of no page is done at once. -/
def Seedbank.start (b : Seedbank) : Seedbank :=
  let o := b.openBuf
  let next : SbBuf := { cseq := (o.cseq + 1) % 2 ^ 32, images := [], first := none, asked := false }
  let c : SbCommit := { cseq := o.cseq, todo := o.images, images := o.images, tries := 0 }
  let b := { b with ferric := journalWrite b.ferric o.cseq o.images, done := o.cseq, openBuf := next, commit := some c }
  if o.images.isEmpty then b.finish else b

/-- Programs page `i` of the region with an image, which is readable again (R582).
DESIGN CHOICE (log 39). -/
def Seedbank.program (b : Seedbank) (i : Nat) (img : List Byte) : Seedbank :=
  { b with page := Mem.splice b.page (64 * b.cellsOf i) img, bad := b.bad.filter (· != i) }

/-- Finishes a commit in progress: every page left is programmed. -/
def Seedbank.finishNow (b : Seedbank) : Seedbank :=
  match b.commit with
  | some c => (c.todo.foldl (fun b p => b.program p.1 p.2) b).finish
  | none => b

/-- Commits the open buffer at once, for a write of the SMC's own whose effect waits for its commit point. -/
def Seedbank.commitNow (b : Seedbank) : Seedbank := b.finishNow.start

/-- Starts the commit of the open buffer when the other is free and it is full, asked for, or 10 ms old (R570). -/
def Seedbank.kick (b : Seedbank) (now : Nat) : Seedbank :=
  let o := b.openBuf
  let old := match o.first with | some t => decide (t + 1000000 ≤ now) | none => false
  if b.commit.isNone && (decide (64 ≤ o.images.length) || o.asked || old) then b.start else b

/-- A client requests a commit of the open buffer. -/
def Seedbank.ask (b : Seedbank) (now : Nat) : Seedbank := { b with openBuf := { b.openBuf with asked := true } }.kick now

/-- Puts an image into the open buffer. -/
def Seedbank.image (b : Seedbank) (now i : Nat) (img : List Byte) : Seedbank :=
  { b with openBuf := { b.openBuf with images := FMap.put b.openBuf.images i img,
                                       first := some (b.openBuf.first.getD now) } }

/-- Is there room for an image of page `i` in the open buffer?
DESIGN CHOICE (log 39). -/
def Seedbank.room (b : Seedbank) (i : Nat) : Bool :=
  FMap.has b.openBuf.images i || decide (b.openBuf.images.length < 64)

/-- A write of the SMC: page `i` takes an image, after a commit when the open buffer is full. -/
def Seedbank.smcPut (b : Seedbank) (now i : Nat) (img : List Byte) : Seedbank :=
  (if b.room i then b else b.commitNow).image now i img

/-- A write of the SMC to some bytes of page `i`. -/
def Seedbank.smcPatch (b : Seedbank) (now i off : Nat) (bs : List Byte) : Seedbank :=
  let old := b.readPage i
  b.smcPut now i (old.take off ++ bs ++ old.drop (off + bs.length))

/-- Writes the 56-byte chunks of a payload as pages from `i` on with a SEQ. -/
def Seedbank.putPages (b : Seedbank) (now i seq : Nat) (payload : List Byte) (n : Nat) : Seedbank :=
  match n with
  | 0 => b
  | k + 1 => (b.smcPut now i (framePage (payload.take 56) seq)).putPages now (i + 1) seq (payload.drop 56) k

/-- A new value of a record of `n` pages: into the copy not selected, with the next SEQ, the first page last (R568). -/
def Seedbank.write (b : Seedbank) (now a c n : Nat) (payload : List Byte) : Seedbank :=
  let (dest, seq) := match b.select a c n with
    | some (p, q) => (if p = a then c else a, (q + 1) % 2 ^ 32)
    | none => (a, 1)
  (b.putPages now (dest + 1) seq (payload.drop 56) (n - 1)).smcPut now dest (framePage (payload.take 56) seq)

/-- A new value of a one-page record. -/
def Seedbank.write1 (b : Seedbank) (now a : Nat) (payload : List Byte) : Seedbank := b.write now a (a + 1) 1 payload

/-! ### Spread counters (R578, R579) -/

/-- BASE and PHASE of counter `c`. -/
def Seedbank.counterBase (b : Seedbank) (c : Nat) : Nat × Bool :=
  match b.rec1 (Part.counters + 32 + 2 * c) with
  | some p => (leAt p 0 8, bitOf (leAt p 8 1) 0)
  | none => (0, false)

/-- The 32 bytes of a counter's bitmap. -/
def Seedbank.bitmap (b : Seedbank) (c : Nat) : List Byte := ((b.readPage (Part.counters + c / 2)).drop (32 * (c % 2))).take 32

/-- The increments since the last fold. -/
def Seedbank.counted (b : Seedbank) (c : Nat) : Nat :=
  let v := leNat (b.bitmap c)
  ((List.range 256).filter (fun i => bitOf v i == (b.counterBase c).2)).length

/-- A counter's value. -/
def Seedbank.counter (b : Seedbank) (c : Nat) : Nat := (b.counterBase c).1 + b.counted c

/-- One increment: a bitmap bit, and with the 256th a new base record. -/
def Seedbank.increment (b : Seedbank) (now c : Nat) : Seedbank :=
  let n := b.counted c
  let (base, phase) := b.counterBase c
  let b' := b.smcPatch now (Part.counters + c / 2) (32 * (c % 2))
    (leBytes 32 (leNat (b.bitmap c) ^^^ 2 ^ n))
  if n = 255 then b'.write1 now (Part.counters + 32 + 2 * c) (leBytes 8 (base + 256) ++ leBytes 1 (natOf !phase)) else b'

/-! ### Rings (R587 to R589) -/

/-- Room in the open buffer for `n` more images, by a commit when there is none: a record and its counter go in one commit (R588).
-/
def Seedbank.makeRoom (b : Seedbank) (n : Nat) : Seedbank := if 64 < b.openBuf.images.length + n then b.commitNow else b

/-- Appends an event-log record: time, type, unit and detail bytes.
DEDUCED (log 38). -/
def Seedbank.appendLog (b : Seedbank) (now type unit : Nat) (detail : List Byte) : Seedbank :=
  let v := b.counter 1 + 1
  let p := leBytes 8 v ++ leBytes 8 now ++ leBytes 2 type ++ leBytes 2 unit ++ leBytes 4 0 ++ padTo 32 detail
  let b := ((b.makeRoom 3).smcPut now (Part.log + b.logHead) (framePage p (v % 2 ^ 32))).increment now 1
  { b with logHead := (b.logHead + 1) % 4096 }.commitNow

/-- Appends an audit record whose bytes +16 to +55 are given, in the commit of its AUDITSEQ increment (R588).
DEDUCED (log 38). -/
def Seedbank.appendAudit (b : Seedbank) (now : Nat) (body : List Byte) : Seedbank :=
  let v := b.counter 0 + 1
  let p := leBytes 8 v ++ leBytes 8 now ++ padTo 40 body
  let b := ((b.makeRoom 3).smcPut now (Part.audit + b.auditHead) (framePage p (v % 2 ^ 32))).increment now 0
  { b with auditHead := (b.auditHead + 1) % 12288, auditLive := min 12288 (b.auditLive + 1) }.commitNow

end Sys2Proof.Machine
end

