-- ==== Sys2Proof/Machine/Ops.lean ====
section
/-!
DEFINITION. Shared operations: reading and writing the parts of the state, registers, interrupt sources, the event
log queue, and the free values.
-/

namespace Sys2Proof.Machine

/-! ### Parts of the state -/

/-- Hardware thread `g`, numbered 2 × core + thread. -/
def State.thread (s : State) (g : Nat) : Thread := (FMap.find s.threads g).getD (Thread.reset g)

/-- Replaces thread `g`. -/
def State.setThread (s : State) (g : Nat) (t : Thread) : State := { s with threads := FMap.put s.threads g t }

/-- Changes thread `g`. -/
def State.onThread (s : State) (g : Nat) (f : Thread → Thread) : State := s.setThread g (f (s.thread g))

/-- Core `c`. -/
def State.core (s : State) (c : Nat) : Core := FMap.get s.cores c Core.reset

/-- Replaces core `c`. -/
def State.setCore (s : State) (c : Nat) (x : Core) : State := { s with cores := FMap.put s.cores c x }

/-- Changes core `c`. -/
def State.onCore (s : State) (c : Nat) (f : Core → Core) : State := s.setCore c (f (s.core c))

/-- Domain `d`. -/
def State.domain (s : State) (d : Nat) : Domain := FMap.get s.domains d Domain.reset

/-- Replaces domain `d`. -/
def State.setDomain (s : State) (d : Nat) (x : Domain) : State := { s with domains := FMap.put s.domains d x }

/-- Changes domain `d`. -/
def State.onDomain (s : State) (d : Nat) (f : Domain → Domain) : State := s.setDomain d (f (s.domain d))

/-- Loam stack `n`. -/
def State.stack (s : State) (n : Nat) : Stack := FMap.get s.loam.stackMap n Stack.reset

/-- Changes Loam stack `n`. -/
def State.onStack (s : State) (n : Nat) (f : Stack → Stack) : State :=
  { s with loam := { s.loam with stackMap := FMap.put s.loam.stackMap n (f (s.stack n)) } }

/-- Volume `v`. -/
def State.volume (s : State) (v : Nat) : Volume := FMap.get s.loam.volumes v Volume.reset

/-- Changes volume `v`. -/
def State.onVolume (s : State) (v : Nat) (f : Volume → Volume) : State :=
  { s with loam := { s.loam with volumes := FMap.put s.loam.volumes v (f (s.volume v)) } }

/-- The clock state of tile `t`. -/
def State.clk (s : State) (t : Nat) : TileClk := FMap.get s.smc.clk t TileClk.reset

/-- Changes the clock state of tile `t`. -/
def State.onClk (s : State) (t : Nat) (f : TileClk → TileClk) : State :=
  { s with smc := { s.smc with clk := FMap.put s.smc.clk t (f (s.clk t)) } }

/-- Root port `p`. -/
def State.port (s : State) (p : Nat) : RootPort := FMap.get s.ports p RootPort.reset

/-- Changes root port `p`. -/
def State.onPort (s : State) (p : Nat) (f : RootPort → RootPort) : State :=
  { s with ports := FMap.put s.ports p (f (s.port p)) }

/-- Link port `p`. -/
def State.fport (s : State) (p : Nat) : FPort := FMap.get s.fabric.ports p FPort.reset

/-- Changes link port `p`. -/
def State.onFport (s : State) (p : Nat) (f : FPort → FPort) : State :=
  { s with fabric := { s.fabric with ports := FMap.put s.fabric.ports p (f (s.fport p)) } }

/-- The fabric area of thread `g`. -/
def State.fab (s : State) (g : Nat) : FabThread := FMap.get s.fabric.threads g FabThread.reset

/-- Changes the fabric area of thread `g`. -/
def State.onFab (s : State) (g : Nat) (f : FabThread → FabThread) : State :=
  { s with fabric := { s.fabric with threads := FMap.put s.fabric.threads g (f (s.fab g)) } }

/-- The line at its home. -/
def State.line (s : State) (l : Nat) : HomeLine := FMap.get s.lines l HomeLine.reset

/-- Changes a line at its home. -/
def State.onLine (s : State) (l : Nat) (f : HomeLine → HomeLine) : State :=
  { s with lines := FMap.put s.lines l (f (s.line l)) }

/-- The domain that owns the tile of thread `g` (DOMID, Table 2-17). -/
def State.domOf (s : State) (g : Nat) : Option Nat := FMap.find s.tileDom (g / 4)

/-- A free value of 64 bits, and the state that has taken it.
DESIGN CHOICE (log 63). -/
def State.takeFree (s : State) : Word × State := (Config.freeWord s.free, { s with free := s.free + 1 })

/-- Does thread `g` belong to domain `d`? -/
def State.inDomain (s : State) (g d : Nat) : Bool := s.domOf g == some d

/-! ### Registers -/

/-- System register numbers that the operations name. -/
def Sys.ringctl : Nat := 0x101
def Sys.seip (p : Nat) : Nat := 0x104 + p
def Sys.sp (p : Nat) : Nat := 0x108 + p
def Sys.slim (p : Nat) : Nat := 0x10C + p
def Sys.esp : Nat := 0x110
def Sys.ehip : Nat := 0x111
def Sys.xlate : Nat := 0x112
def Sys.cause : Nat := 0x200
def Sys.faddr : Nat := 0x201
def Sys.fip : Nat := 0x202
def Sys.fprog : Nat := 0x203
def Sys.ecause : Nat := 0x204
def Sys.efaddr : Nat := 0x205
def Sys.gtb : Nat := 0x300
def Sys.gtl : Nat := 0x301
def Sys.gcaller : Nat := 0x303
def Sys.wbsp : Nat := 0x400
def Sys.wblim : Nat := 0x401
def Sys.wstat : Nat := 0x402
def Sys.wctl : Nat := 0x403
def Sys.ntxen : Nat := 0x500
def Sys.tctl : Nat := 0x501
def Sys.tstat : Nat := 0x502
def Sys.tfirst : Nat := 0x503
def Sys.ts (n : Nat) : Nat := 0x504 + n
def Sys.tprog : Nat := 0x509
def Sys.tqip : Nat := 0x50A
def Sys.tsavea : Nat := 0x50B
def Sys.tsbbase : Nat := 0x50C
def Sys.tsblim : Nat := 0x50D
def Sys.txprog : Nat := 0x50E
def Sys.tcfg (n : Nat) : Nat := 0x510 + n
def Sys.tmrcmp : Nat := 0x601
def Sys.tmrctl : Nat := 0x602
def Sys.pmctl : Nat := 0x700
def Sys.pmsel (n : Nat) : Nat := 0x708 + n
def Sys.pmc (n : Nat) : Nat := 0x710 + n
def Sys.bpa (n : Nat) : Nat := 0x800 + n
def Sys.bpc (n : Nat) : Nat := 0x804 + n
def Sys.dbgstat : Nat := 0x808
def Sys.erra (n : Nat) : Nat := 0xF00 + 2 * n
def Sys.errb (n : Nat) : Nat := 0xF01 + 2 * n
def Sys.estat : Nat := 0xF10
def Sys.ecnt (u : Nat) : Nat := 0xF20 + u

/-- A system register kept as a plain word. -/
def Thread.sysGet (t : Thread) (n : Nat) : Word := FMap.get t.sys n 0

/-- Sets a system register kept as a plain word. -/
def Thread.sysSet (t : Thread) (n : Nat) (v : Word) : Thread := { t with sys := FMap.set t.sys n v 0 }

/-- A system register as a number. -/
def Thread.sysNat (t : Thread) (n : Nat) : Nat := (t.sysGet n).toNat

/-- Reads the integer register a specifier names (R66): 0–31 w0–w31, 32–39 k0–k7; k0 reads as zero (R74). -/
def Thread.reg (t : Thread) (r : Nat) : Word :=
  if r < 32 then FMap.get t.cur r 0 else if r = 32 then 0 else FMap.get t.k (r - 32) 0

/-- Writes the integer register a specifier names; a write of k0 is discarded (R74). -/
def Thread.setReg (t : Thread) (r : Nat) (v : Word) : Thread :=
  if r < 32 then { t with cur := FMap.set t.cur r v 0 }
  else if r = 32 then t
  else { t with k := FMap.set t.k (r - 32) v 0 }

/-- Reads f0–f31. -/
def Thread.freg (t : Thread) (r : Nat) : Word := FMap.get t.f r 0

/-- Writes f0–f31. -/
def Thread.setFreg (t : Thread) (r : Nat) (v : Word) : Thread := { t with f := FMap.set t.f r v 0 }

/-- The stack pointer k7 (R74). -/
def Thread.sp (t : Thread) : Word := t.reg 39

/-- WSTAT.RES (R81). -/
def Thread.res (t : Thread) : Nat := 1 + t.older.length

/-- WSTAT.SPILLED (R81), held in bits [39:8] of 0x402. -/
def Thread.spilled (t : Thread) : Nat := bitsOf (t.sysNat Sys.wstat) 39 8

/-- Sets WSTAT.SPILLED; a spill at 0xFFFFFFFF (R83) leaves 0. DESIGN CHOICE (log 13). -/
def Thread.setSpilled (t : Thread) (n : Nat) : Thread := t.sysSet Sys.wstat (BitVec.ofNat 64 (n % 2 ^ 32 * 256))

/-- PSW as a register (Table 5-4). -/
def Psw.toWord (p : Psw) : Word :=
  BitVec.ofNat 64 (p.pl.toNat + 4 * p.ml.toNat + 64 * natOf p.ems + 128 * natOf p.ss + 256 * natOf p.brs)

/-- The PSW a word holds; bits [63:9] are reserved. -/
def Psw.ofWord (w : Word) : Psw :=
  { pl := BitVec.ofNat 2 w.toNat, ml := BitVec.ofNat 4 (w.toNat / 4), ems := bitOf w.toNat 6, ss := bitOf w.toNat 7,
    brs := bitOf w.toNat 8 }

/-- The current ring as a number. -/
def Thread.ring (t : Thread) : Nat := t.psw.pl.toNat

/-- IP as a 64-bit address. -/
def Thread.pc (t : Thread) : Word := t.ip.zeroExtend 64

/-- Sets IP to the low 48 bits of an address. -/
def Thread.setIp (t : Thread) (a : Word) : Thread := { t with ip := a.truncate 48 }

/-- Is the thread in a state to issue: running, and not waiting for TINV acknowledgements or a drain?
DEDUCED (log 11). -/
def Thread.issues (t : Thread) : Bool := t.run == .running && t.tinv.isNone && t.revoke.isNone

/-! ### Interrupt sources (R224 to R228) -/

/-- The boot thread of a domain: thread 0 of the even core of its lowest-numbered tile (R226), which its sources target as it is
made. DESIGN CHOICE (log 48). -/
def Domain.bootThread (x : Domain) : Nat :=
  4 * ((List.range 64).find? (fun t => x.tiles.getLsbD t)).getD 0

/-- SRCCFG of a source at every reset of a distributor block (R226). -/
def Domain.srcReset (x : Domain) (n : Nat) : Src :=
  { level := if n ≤ 4 then 14 else 0, en := decide (n ≤ 4), pend := false, ovr := false,
    target := if 0x100 ≤ n ∧ n < 0x200 then n - 0x100 else x.srcBoot }

/-- Source `n` of a domain. -/
def Domain.src (x : Domain) (n : Nat) : Src := (FMap.find x.srcs n).getD (x.srcReset n)

/-- Replaces source `n` of a domain. -/
def Domain.setSrc (x : Domain) (n : Nat) (v : Src) : Domain := { x with srcs := FMap.put x.srcs n v }

/-- An event of source `n` of domain `d`: PEND is set, or OVR when it already is (R227). -/
def State.raise (s : State) (d n : Nat) : State :=
  if (s.domain d).valid then
    s.onDomain d (fun x =>
      let c := x.src n
      x.setSrc n (if c.pend then { c with ovr := true } else { c with pend := true }))
  else s

/-- Raises source `n` in every domain of a list. -/
def State.raiseAll (s : State) (ds : List Nat) (n : Nat) : State := ds.foldl (fun s d => s.raise d n) s

/-- The existing domains, in ascending number. -/
def State.domList (s : State) : List Nat := (List.range 64).filter (fun d => (s.domain d).valid)

/-- The domains that hold a root grant of a kind. -/
def State.domsWithRoot (s : State) (kind : Nat) : List Nat :=
  s.domList.filter (fun d => (s.domain d).roots.any (fun i =>
    (FMap.get (s.domain d).store.entries i Grant.reset).kind == kind))

/-- The source the distributor presents to thread `g` (R228): enabled, pending, of the highest level, the lowest
number first among equals; with its level.
DEDUCED (log 59). -/
def State.presented (s : State) (g : Nat) : Option (Nat × Nat) :=
  match s.domOf g with
  | none => none
  | some d =>
    (s.domain d).srcs.foldl (fun best p =>
      if p.2.en && p.2.pend && decide (0 < p.2.level) && p.2.target == g then
        match best with
        | none => some (p.1, p.2.level)
        | some (n, l) => if l < p.2.level then some (p.1, p.2.level) else some (n, l)
      else best) none

/-- The cause code of a source (Table 5-9). -/
def sourceCause (n : Nat) : Nat :=
  if n < 0x10 then 0x24 else if n < 0x100 then 0x22 else if n < 0x200 then 0x21 else if n < 0x300 then 0x23 else 0x20

/-! ### The event log (R589, Table 14-11) -/

/-- The SMC logs an event (R589); before Seedbank is recovered the record waits in the SMC. -/
def State.log (s : State) (type unit : Nat) (detail : List Byte) : State :=
  if s.seed.recovered then { s with seed := s.seed.appendLog s.timeBase type unit detail }
  else { s with smc := { s.smc with logQ := s.smc.logQ ++ [(type, unit, detail)] } }

/-! ### Error records (R238, R239) -/

/-- Adds an error record to the ring of thread `g`: ERRA fields and, when given, the physical address.
DESIGN CHOICE (log 60). -/
def Thread.addError (t : Thread) (now unit idx kind : Nat) (lost ctx : Bool) (pa : Option Nat) : Thread :=
  let e := t.sysNat Sys.estat
  let count := bitsOf e 6 3
  if count = 8 then
    let dr := bitsOf e 31 16
    t.sysSet Sys.estat (BitVec.ofNat 64 (setBits e 31 16 (if dr = 0xFFFF then dr else dr + 1)))
  else
    let n := (bitsOf e 2 0 + count) % 8
    let a := 1 + 2 * natOf lost + 4 * natOf ctx + 8 * natOf pa.isSome + unit % 256 * 2 ^ 8 + idx % 256 * 2 ^ 16 +
      kind % 256 * 2 ^ 24 + now % 2 ^ 32 * 2 ^ 32
    ((t.sysSet (Sys.erra n) (BitVec.ofNat 64 a)).sysSet (Sys.errb n) (BitVec.ofNat 64 (pa.getD 0 % 2 ^ 52))).sysSet
      Sys.estat (BitVec.ofNat 64 (setBits e 6 3 (count + 1)))

/-- Adds 1 to ECNT of a unit, saturating (Table 5-13). -/
def Thread.addCorrected (t : Thread) (u : Nat) : Thread :=
  let n := t.sysNat (Sys.ecnt u)
  if n = 0xFFFFFFFF then t else t.sysSet (Sys.ecnt u) (BitVec.ofNat 64 (n + 1))

/-! ### Performance counters (R276, R277) -/

/-- Counts `by_` occurrences of an event at a ring in every counter of the thread that selects it.
DESIGN CHOICE (log 25). -/
def Thread.countEvent (t : Thread) (ring ev by_ : Nat) : Thread :=
  if bitOf (t.sysNat Sys.pmctl) 0 then
    (List.range 8).foldl (fun t n =>
      let sel := t.sysNat (Sys.pmsel n)
      if bitOf sel 12 && bitsOf sel 7 0 == ev && bitOf sel (8 + ring) then
        let c := t.sysNat (Sys.pmc n) + by_
        let t := t.sysSet (Sys.pmc n) (BitVec.ofNat 64 (c % 2 ^ 48))
        if c < 2 ^ 48 then t
        else t.sysSet Sys.pmctl (t.sysGet Sys.pmctl ||| BitVec.ofNat 64 (2 ^ (8 + n)))
      else t) t
  else t

end Sys2Proof.Machine
end

