-- ==== Sys2Proof/Machine/Memory.lean ====
section
/-!
DEFINITION. Addresses: the physical address map (Table 1-5), control-space slices (Table 1-6, R43), page tables
(R158), grant windows (R188) and the byte-by-byte check of an access (R42), then reading and writing what passed.
-/

namespace Sys2Proof.Machine

/-! ### Control-space slices -/

/-- Where a control-space offset lies: the unit and the instance and offset its chapter gives. -/
inductive CsLoc where
  | mbox (d off : Nat)
  | lc (n d off : Nat)
  | seed (d off : Nat)
  | fabric (d off : Nat)
  | readback (d off : Nat)
  | pcie (p off : Nat)
  | stream (c off : Nat)
  | dist (d off : Nat)
  | nothing
  deriving DecidableEq, Repr

/-- The unit and slice of an offset from 0x0_FE00_0000_0000 (Table 1-6 and the owning chapters). -/
def csLocate (off : Nat) : CsLoc :=
  let o := off % 0x1000000
  match off / 0x1000000 with
  | 0 => .mbox (o / 0x40000) (o % 0x40000)
  | 1 => if o < 0x800000 ∧ 0x40000 ≤ o % 0x100000 ∧ o % 0x100000 < 0x80000 then
           .lc (o / 0x100000) ((o % 0x100000 - 0x40000) / 0x1000) (o % 0x1000)
         else .nothing
  | 2 => if o < 0x400000 then .seed (o / 0x10000) (o % 0x10000) else .nothing
  | 3 => .fabric (o / 0x40000) (o % 0x40000)
  | 4 => .readback (o / 0x40000) (o % 0x40000)
  | 6 => .pcie (o / 0x100000) (o % 0x100000)
  | 7 => if o < 0x800000 then .stream (o / 0x10000) (o % 0x10000) else .nothing
  | 8 => .dist (o / 0x40000) (o % 0x40000)
  | _ => .nothing

/-- Has a control-space location a target for domain `d` (R43 and the owning chapters)? -/
def State.csTarget (s : State) (d : Nat) (l : CsLoc) : Bool :=
  match l with
  | .mbox e off => e == d && decide (off < 0x4000)
  | .lc _ e _ => e == d
  | .seed e off => e == d && (decide (off < 0x1000) || (decide (0x4000 ≤ off) && decide (off < 0x8000)))
  | .fabric e off =>
    e == d && (if off < 0x10000 then true
      else if off < 0x30000 then
        (match FMap.find s.fabric.queues ((off - 0x10000) / 32) with | some q => q.domain == d | none => false)
      else s.inDomain ((off - 0x30000) / 0x100) d)
  | .readback e off =>
    e == d && (decide (off < 0x40) || (decide (0x100 ≤ off) && decide (off < 0x1200)))
  | .pcie p _ => decide (p < 16) && (s.domain d).ports.getLsbD p && (s.port p).exists_
  | .stream c _ => FMap.find s.tileDom (c / 2) == some d
  | .dist e off => e == d && decide (off < 0x2008)
  | .nothing => false

/-- The width in bytes of the registers at a control-space location (R15, R821). -/
def csWidth (l : CsLoc) : Nat := match l with | .pcie _ _ => 4 | _ => 8

/-! ### Physical targets -/

/-- A physical target (Table 1-5). -/
inductive Tgt where
  | dram
  | loam
  | pcie (port : Nat)
  | control (off : Nat)
  | rom
  deriving DecidableEq, Repr

/-- A GiB figure as bytes. -/
def gib (n : Nat) : Nat := n * 2 ^ 30

/-- Is a physical address installed DRAM, of this package or of a Tussock member present (R651, R754)? -/
def State.installed (s : State) (pa : Nat) : Bool :=
  if s.fabric.assembled then
    s.fabric.members.any (fun m =>
      let b := FMap.get s.fabric.memberBase m.1 0 * 2 ^ 30
      decide (b ≤ pa) && decide (pa < b + m.2 * 2 ^ 30))
  else decide (pa < s.ddr.top)

/-- Is a physical address in a DRAM window of the domain's own? -/
def Domain.owns (x : Domain) (pa : Nat) : Bool :=
  x.windows.any (fun w => decide (w.2.base ≤ pa) && decide (pa < w.2.limit) && !x.cutWin.contains w.1)

/-- Entry `i` of a domain's Grant Store. -/
def Domain.grant (x : Domain) (i : Nat) : Grant := FMap.get x.store.entries i Grant.reset

/-- Is the grant of an attached window still in use with its generation (R181)? -/
def State.winLive (s : State) (d : Nat) (w : GrantWin) : Bool :=
  let e := (s.domain d).grant w.index
  e.inUse && e.gen == w.gen

/-- The numbers of a thread's live windows of a kind that cover a physical address, lowest first. -/
def State.winsAt (s : State) (g d kind pa : Nat) : List Nat :=
  ((s.thread g).gw.filter (fun p =>
    p.2.kind == kind && decide (p.2.base ≤ pa) && decide (pa < p.2.limit) && s.winLive d p.2)).map (·.1)

/-- The window of a root port's Type 1 header that PCIe memory addresses fall in: prefetchable base and limit.
PRESUMED (log 22). -/
def RootPort.claims (p : RootPort) (pa : Nat) : Bool :=
  let lo := leNat (Mem.read p.cfg 0x24 2) / 16 * 2 ^ 20 + leNat (Mem.read p.cfg 0x28 4) * 2 ^ 32
  let hi := leNat (Mem.read p.cfg 0x26 2) / 16 * 2 ^ 20 + 0xFFFFF + leNat (Mem.read p.cfg 0x2C 4) * 2 ^ 32
  p.exists_ && p.enabled && decide (lo ≤ pa) && decide (pa ≤ hi)

/-- Does a thread's live RECV window name a queue of this node, so that the queue's QHEAD is a target for it (R679)? -/
def State.recvTarget (s : State) (g d : Nat) (l : CsLoc) : Bool :=
  match l with
  | .fabric e off =>
    e == d && decide (0x10000 ≤ off) && decide (off < 0x30000) && decide (off % 32 < 8) &&
      (s.thread g).gw.any (fun p => p.2.kind == 5 && s.winLive d p.2 && p.2.rights.getLsbD 4 &&
        p.2.object == s.fabric.node + (off - 0x10000) / 32 * 2 ^ 16 + 2 * 2 ^ 28)
  | _ => false

/-- The physical target of an address for a thread of domain `d`, none when it has none (R40, R189). -/
def State.target (s : State) (g d pa : Nat) : Option Tgt :=
  if pa < 0x060000000000 then
    if s.installed pa && ((s.domain d).owns pa || !(s.winsAt g d 2 pa).isEmpty) then some .dram else none
  else if 0x100000000000 ≤ pa ∧ pa < 0x140000000000 then some .loam
  else if 0xF00000000000 ≤ pa ∧ pa < 0xFE0000000000 then
    ((List.range 16).find? (fun p => (s.domain d).ports.getLsbD p && (s.port p).claims pa)).map Tgt.pcie
  else if 0xFE0000000000 ≤ pa ∧ pa < 0xFE0009000000 then
    let l := csLocate (pa - 0xFE0000000000)
    if s.csTarget d l || s.recvTarget g d l then some (.control (pa - 0xFE0000000000)) else none
  else if 0xFFFFFF000000 ≤ pa ∧ pa < 0x1000000000000 then some .rom
  else none

/-! ### Page tables (R158) -/

/-- Why a byte of an access fails (R42): translation, page rights, target, width, grant. -/
inductive Why where
  | notPresent
  | noTable
  | malformed
  | nonCanon
  | plmax
  | noWrite
  | noExec
  | refuse (sub : Nat)
  | width
  | grant (sub : Nat)
  deriving DecidableEq, Repr

/-- A failed access: why, and the virtual address of the earliest failing byte. -/
structure AccErr where
  why : Why
  va  : Nat
  deriving DecidableEq, Repr

/-- A page-table entry or a gate-table quadword read physically with no grant window: only the domain's own DRAM and
the Boot ROM have a target (R158, R162). -/
def State.tableRead (s : State) (d pa n : Nat) : Option (List Byte) :=
  if pa + n ≤ 0x060000000000 ∧ s.installed pa ∧ s.installed (pa + n - 1) ∧ (s.domain d).owns pa ∧
      (s.domain d).owns (pa + n - 1) then
    some (Mem.read s.dram pa n)
  else if 0xFFFFFF000000 ≤ pa ∧ pa + n ≤ 0x1000000000000 then
    some ((List.range n).map (fun i => Config.bootRom (pa - 0xFFFFFF000000 + i)))
  else none

/-- The walk from the table at `table` for a level (4 to 1): the leaf as a translation, and the entries it used. -/
def State.walk (s : State) (d root va : Nat) (level table : Nat) (path : List Nat) :
    Except Why (TlbEntry × List Nat) :=
  match level with
  | 0 => .error .malformed
  | k + 1 =>
    let shift := 12 + 9 * k
    let at_ := table + 8 * (va / 2 ^ shift % 512)
    match s.tableRead d at_ 8 with
    | none => .error .noTable
    | some bs =>
      let e := leNat bs
      let addr := bitsOf e 51 12 * 4096
      if !bitOf e 0 then .error .notPresent
      else if k = 3 ∧ bitOf e 8 then .error .malformed
      else if k = 0 ∨ bitOf e 8 then
        if addr % 2 ^ shift ≠ 0 then .error .malformed
        else .ok ({ dom := d, root := root, va := va / 2 ^ shift * 2 ^ shift, pa := addr, bits := shift, w := bitOf e 1,
                    x := bitOf e 2, plmax := bitsOf e 4 3, g := bitOf e 5, dev := bitOf e 9, leaf := at_,
                    dirty := bitOf e 7 }, path ++ [at_])
      else s.walk d root va k addr (path ++ [at_])

/-- Where a core's walker caches let the walk of a virtual address start: the level and its table, the root's at level 4 when
they hold nothing of it (R158, R272).
DESIGN CHOICE (log 19). -/
def Core.walkFrom (c : Core) (d root va : Nat) : Nat × Nat :=
  match [1, 2, 3].findSome? (fun k => c.walker.find? (fun w =>
      w.dom == d && w.root == root && w.level == k && w.at_ == va / 2 ^ (12 + 9 * k))) with
  | some w => (w.level, w.table)
  | none => (4, root * 4096)

/-- The translation a thread uses for a virtual address: none with XLATE.EN = 0, one its core holds, or a walk.
DESIGN CHOICE (log 19). -/
def State.translate (s : State) (g d va : Nat) : Except Why (Option (TlbEntry × List Nat)) :=
  let x := (s.thread g).sysNat Sys.xlate
  if !bitOf x 0 then .ok none
  else
    let root := bitsOf x 51 12
    match (s.core (g / 2)).tlb.find? (fun e =>
        e.dom == d && (e.root == root || e.g) && e.va == va / 2 ^ e.bits * 2 ^ e.bits) with
    | some e => .ok (some (e, []))
    | none =>
      let at_ := (s.core (g / 2)).walkFrom d root va
      match s.walk d root va at_.1 at_.2 [] with
      | .error w => .error w
      | .ok r => .ok (some r)

/-! ### The check of one byte, R42 -/

/-- What an access needs of its target: a load, a store, a fetch; whether it moves a block at once (R819) and whether
it is an atomic. -/
structure Need where
  load   : Bool
  store  : Bool
  fetch  : Bool
  block  : Bool
  atomic : Bool
  deriving DecidableEq, Repr

/-- The needs of the kinds of access. -/
def Need.ld : Need := { load := true, store := false, fetch := false, block := false, atomic := false }
def Need.st : Need := { load := false, store := true, fetch := false, block := false, atomic := false }
def Need.rmw : Need := { load := true, store := true, fetch := false, block := false, atomic := true }
def Need.ifetch : Need := { load := false, store := false, fetch := true, block := false, atomic := false }
def Need.blockLd : Need := { load := true, store := false, fetch := false, block := true, atomic := false }
def Need.blockSt : Need := { load := false, store := true, fetch := false, block := true, atomic := false }

/-- A byte that passed: where it lies and what its access uses. -/
structure ByteRef where
  va   : Nat
  pa   : Nat
  tgt  : Tgt
  dev  : Bool
  tlb  : Option TlbEntry
  path : List Nat
  wins : Option (List Nat)
  deriving DecidableEq, Repr

/-- The refusal of device memory for an access that moves a block, is an atomic, or fetches (R819). -/
def Need.deviceRefusal (n : Need) : Option Nat :=
  if n.fetch then some 0x40 else if n.atomic then some 0x42 else if n.block then some 0x44 else none

/-- The refusal of a target (Table 1-5, Table 1-7, R819). -/
def Need.refusal (n : Need) (t : Tgt) (dev : Bool) : Option Nat :=
  match t with
  | .dram => if dev then n.deviceRefusal else none
  | .loam => if n.fetch || n.store then some 0x40 else none
  | .rom => if n.store then some 0x40 else none
  | .pcie _ => n.deviceRefusal
  | .control _ => n.deviceRefusal

/-- The page-right checks of Table 4-1 at ring `p`. -/
def Need.rights (n : Need) (p : Nat) (e : TlbEntry) : Option Why :=
  if n.fetch then
    if !e.x then some .noExec else if e.plmax < p then some .plmax else none
  else if e.plmax < p then some .plmax
  else if n.store && !e.w then some .noWrite
  else none

/-- The right bits an access needs in a window of DRAMSH or LOAM (Table 4-12). -/
def Need.rightBits (n : Need) : List Nat :=
  (if n.load then [0] else []) ++ (if n.store then [1] else []) ++ (if n.fetch then [2] else [])

/-- The grant check of one byte (R188): `prev` is the windows that covered the earlier bytes of the access. -/
def State.grantAt (s : State) (g d kind pa : Nat) (bits : List Nat) (prev : Option (List Nat)) :
    Except Nat (List Nat) :=
  let cover := s.winsAt g d kind pa
  match prev with
  | none =>
    if cover.isEmpty then .error 0x09
    else
      let ok := cover.filter (fun w => match FMap.find (s.thread g).gw w with
        | some x => bits.all (fun b => x.rights.getLsbD b)
        | none => false)
      if ok.isEmpty then .error 0x03 else .ok ok
  | some ws =>
    let ok := ws.filter (fun w => cover.contains w)
    if ok.isEmpty then .error 0x04 else .ok ok

/-- Does control space at an offset need a window, and of which kind and rights (R592, R721)? Kind 3 windows cover
partition bytes; kind 4 windows cover the page of their class. -/
def csGrantNeed (l : CsLoc) (store : Bool) : Option (Nat × Nat) :=
  match l with
  | .seed _ off => if 0x4000 ≤ off then some (3, if store then 1 else 0) else none
  | .mbox _ off =>
    if store then
      if off % 0x400 < 0x200 ∨ 0x3F8 ≤ off % 0x400 then some (4, 0) else none
    else if 0x200 ≤ off % 0x400 ∧ off % 0x400 < 0x3F8 then some (4, 1) else none
  | _ => none

/-- The grant check of a control-space byte. -/
def State.csGrant (s : State) (g d off : Nat) (store : Bool) (prev : Option (List Nat)) :
    Except Nat (Option (List Nat)) :=
  let l := csLocate off
  match csGrantNeed l store with
  | none => .ok none
  | some (3, b) => (s.grantAt g d 3 (0xFE0000000000 + off) [b] prev).map some
  | some (_, b) =>
    let cls := match l with | .mbox _ o => o / 0x1000 | _ => 0
    let cover := ((s.thread g).gw.filter (fun p => p.2.kind == 4 && p.2.object == cls && s.winLive d p.2))
    if cover.isEmpty then .error 0x09
    else if cover.any (fun p => p.2.rights.getLsbD b) then .ok none else .error 0x03

/-- The check of one byte at virtual address `va` (64-bit), ring `p`, the `i`-th byte of an access of `n` bytes, in the
order of R42. -/
def State.checkByte (s : State) (g p : Nat) (nd : Need) (va i n : Nat) (prev : Option (List Nat)) :
    Except AccErr ByteRef :=
  let d := (s.domOf g).getD 64
  if 2 ^ 48 ≤ va then .error ⟨.nonCanon, va⟩
  else match s.translate g d va with
  | .error w => .error ⟨w, va⟩
  | .ok tr =>
    let bad := match tr with | none => none | some (e, _) => nd.rights p e
    match bad with
    | some w => .error ⟨w, va⟩
    | none =>
      let pa := match tr with | none => va | some (e, _) => e.pa + va % 2 ^ e.bits
      match s.target g d pa with
      | none => .error ⟨.refuse (if nd.fetch then 0x40 else 0x41), va⟩
      | some t =>
        let dev := match t, tr with
          | .dram, some (e, _) => e.dev
          | .pcie _, _ => true
          | .control _, _ => true
          | _, _ => false
        match nd.refusal t dev with
        | some c => .error ⟨.refuse c, va⟩
        | none =>
          let ref (w : Option (List Nat)) : ByteRef :=
            { va := va, pa := pa, tgt := t, dev := dev, tlb := tr.map (·.1),
              path := match tr with | none => [] | some (_, l) => l, wins := w }
          match t with
          | .control off =>
            if i ≠ 0 ∨ n ≠ csWidth (csLocate off) ∨ off % n ≠ 0 then .error ⟨.width, va⟩
            else match s.csGrant g d off nd.store prev with
              | .error c => .error ⟨.grant c, va⟩
              | .ok w => .ok (ref w)
          | .loam =>
            match s.grantAt g d 1 pa [0] prev with
            | .error c => .error ⟨.grant c, va⟩
            | .ok w => .ok (ref (some w))
          | .dram =>
            if (s.domain d).owns pa then .ok (ref none)
            else match s.grantAt g d 2 pa nd.rightBits prev with
              | .error c => .error ⟨.grant c, va⟩
              | .ok w => .ok (ref (some w))
          | _ => .ok (ref none)

/-- The bytes `i, i+1, …` (`k` of them) of an access of `n` bytes at `va`, checked in ascending order; addresses are
taken modulo 2^64 (R67). A control-space access is checked at its first byte, which stands for the register.
DEDUCED (log 16). -/
def State.checkFrom (s : State) (g p : Nat) (nd : Need) (va n i k : Nat) (prev : Option (List Nat)) :
    Except AccErr (List ByteRef) :=
  match k with
  | 0 => .ok []
  | j + 1 =>
    match s.checkByte g p nd ((va + i) % 2 ^ 64) i n prev with
    | .error e => .error e
    | .ok r =>
      match r.tgt with
      | .control _ => .ok [r]
      | _ =>
        match s.checkFrom g p nd va n (i + 1) j r.wins with
        | .error e => .error e
        | .ok rs => .ok (r :: rs)

/-- The Loam bytes of an access take the windows that cover every byte of it, as those of its last byte do: the lowest of them
decides the revision (R490). -/
def oneWindow (rs : List ByteRef) : List ByteRef :=
  match rs.getLast? with
  | some l => rs.map (fun r => if r.tgt = .loam then { r with wins := l.wins } else r)
  | none => rs

/-- Checks an access of `n` bytes at virtual address `va` at ring `p` (R42). -/
def State.check (s : State) (g p : Nat) (nd : Need) (va n : Nat) : Except AccErr (List ByteRef) :=
  (s.checkFrom g p nd va n 0 n none).map oneWindow

/-! ### Reporting a failed access -/

/-- The scalar fault of a failed data access (Tables 4-1, 1-7, 4-13, 5-2). -/
def Why.scalar (w : Why) : Nat × Nat :=
  match w with
  | .notPresent => (0x05, 0x01)
  | .noTable => (0x05, 0x02)
  | .malformed => (0x05, 0x03)
  | .nonCanon => (0x05, 0x30)
  | .plmax => (0x06, 0x01)
  | .noWrite => (0x06, 0x02)
  | .noExec => (0x03, 0x01)
  | .refuse c => (0x06, c)
  | .width => (0x07, 0x02)
  | .grant c => (0x0C, c)

/-- The fault of a failed fetch. -/
def Why.fetch (w : Why) : Nat × Nat :=
  match w with
  | .notPresent => (0x04, 0x01)
  | .noTable => (0x04, 0x02)
  | .malformed => (0x04, 0x03)
  | .nonCanon => (0x04, 0x30)
  | .plmax => (0x03, 0x02)
  | .noWrite => (0x03, 0x01)
  | .noExec => (0x03, 0x01)
  | .refuse c => (0x03, c)
  | .width => (0x03, 0x40)
  | .grant c => (0x0C, c)

/-- The subcode of a failed spill or fill (Table 2-8, R158). -/
def Why.window (w : Why) : Nat :=
  match w with
  | .noWrite => 0x02
  | .refuse _ => 0x04
  | .width => 0x04
  | .grant _ => 0x05
  | _ => 0x01

/-- The subcode of fault 0x13 of a failed tile access (Table 7-8, R158, R819). -/
def Why.tile (w : Why) : Nat :=
  match w with
  | .notPresent => 0x01
  | .noTable => 0x01
  | .malformed => 0x01
  | .nonCanon => 0x04
  | .plmax => 0x02
  | .noWrite => 0x03
  | .noExec => 0x02
  | .refuse _ => 0x06
  | .width => 0x06
  | .grant _ => 0x0C

/-- The error code of a Stream engine request that fails (Table 10-6), also used by collectives (Table 16-7). -/
def Why.stream (w : Why) : Nat :=
  match w with
  | .notPresent => 0x02
  | .noTable => 0x02
  | .malformed => 0x02
  | .nonCanon => 0x02
  | .plmax => 0x03
  | .noWrite => 0x03
  | .noExec => 0x03
  | .refuse _ => 0x04
  | .width => 0x04
  | .grant _ => 0x01

/-- A fault as raised: code, subcode, FADDR and FPROG. -/
structure Flt where
  code  : Nat
  sub   : Nat
  faddr : Word
  fprog : Word
  deriving DecidableEq, Repr

/-- A fault with FPROG 0. -/
def Flt.mk' (code sub : Nat) (faddr : Word) : Flt := { code := code, sub := sub, faddr := faddr, fprog := 0 }

/-- The scalar fault of a failed access. -/
def AccErr.flt (e : AccErr) : Flt := Flt.mk' e.why.scalar.1 e.why.scalar.2 (BitVec.ofNat 64 e.va)

/-! ### Using what passed -/

/-- Sets bits of byte 0 of a page-table entry in DRAM; an entry in the Boot ROM is left as it stands (R158). -/
def setPteBits (m : Mem) (pa : Nat) (bits : Byte) : Mem :=
  if pa < 0x060000000000 then Mem.setByte m pa (Mem.byte m pa ||| bits) else m

/-- The walker-cache entries that a walk leaves: one for each table below the first it read (R272). -/
def TlbEntry.walked (e : TlbEntry) (va : Nat) (path : List Nat) : List WalkEntry :=
  ((path.zipIdx).drop 1).map (fun p =>
    let k := (e.bits - 3) / 9 + (path.length - 1 - p.2)
    { dom := e.dom, root := e.root, level := k, at_ := va / 2 ^ (12 + 9 * k), table := p.1 / 4096 * 4096 })

/-- Installs a translation and what its walk leaves in the walker caches. -/
def Core.install (c : Core) (e : TlbEntry) (ws : List WalkEntry) : Core :=
  { c with
    tlb := e :: c.tlb.filter (fun x => !(x.dom == e.dom && x.root == e.root && x.va == e.va && x.bits == e.bits))
    walker := ws ++ c.walker.filter (fun w =>
      !ws.any (fun v => v.dom == w.dom && v.root == w.root && v.level == w.level && v.at_ == w.at_)) }

/-- Accessed and dirty bits, and the install of the translation and of its walk, as the access retires (R158, R272). -/
def State.useRef (s : State) (g : Nat) (store : Bool) (r : ByteRef) : State :=
  match r.tlb with
  | none => s
  | some e =>
    let m := r.path.foldl (fun m a => setPteBits m a 0x40) s.dram
    let m := if store && !e.dirty then setPteBits m e.leaf 0x80 else m
    let s := { s with dram := m }
    if r.path.isEmpty && !(store && !e.dirty) then s
    else s.onCore (g / 2) (fun c => c.install { e with dirty := e.dirty || store } (e.walked r.va r.path))

/-- `useRef` for the first and the last byte of an access, whose pages are all the pages it touches.
DESIGN CHOICE (log 4). -/
def State.useRefs (s : State) (g : Nat) (store : Bool) (rs : List ByteRef) : State :=
  match rs.head?, rs.getLast? with
  | some a, some b => (s.useRef g store a).useRef g store b
  | _, _ => s

/-- The volume whose extent holds a Loam offset. -/
def State.volumeAt (s : State) (off : Nat) : Option Nat :=
  (s.loam.volumes.find? (fun p => decide (p.2.vbase ≤ off) && decide (off < p.2.vbase + p.2.vlen))).map (·.1)

/-- A revision of a volume. -/
def Volume.rev (v : Volume) (n : Nat) : Option Revision := v.revs.find? (fun r => r.number == n)

/-- The revision a Loam access reads: that of the lowest-numbered window that covers every byte of it (R490). -/
def State.loamRev (s : State) (g : Nat) (ws : Option (List Nat)) (pa : Nat) : Option (Nat × Revision) :=
  match ws with
  | some (w :: _) =>
    match FMap.find (s.thread g).gw w with
    | some x =>
      match x.revision, s.volumeAt (pa - 0x100000000000) with
      | some n, some v => ((s.volume v).rev n).map (fun r => (v, r))
      | _, _ => none
    | none => none
  | _ => none

/-- One byte of a revision: bytes the revision never wrote read as zero (R491). -/
def Revision.byte (r : Revision) (vbase off : Nat) : Byte := Mem.byte r.bytes (off - vbase)

/-- The byte of a passed reference to normal memory.
DESIGN CHOICE (log 4, 23). -/
def State.refByte (s : State) (g : Nat) (r : ByteRef) : Byte :=
  match r.tgt with
  | .dram => Mem.byte s.dram r.pa
  | .rom => Config.bootRom (r.pa - 0xFFFFFF000000)
  | .loam =>
    match s.loamRev g r.wins r.pa with
    | some (v, x) => x.byte (s.volume v).vbase (r.pa - 0x100000000000)
    | none => 0
  | .pcie _ => Config.deviceByte s.free r.pa
  | .control _ => 0

/-- The bytes of passed references. -/
def State.refBytes (s : State) (g : Nat) (rs : List ByteRef) : List Byte := rs.map (s.refByte g)

/-- Writes bytes through passed references to DRAM. A byte posted to PCIe space leaves the part.
DESIGN CHOICE (log 4). -/
def storeRefs (m : Mem) (rs : List ByteRef) (bs : List Byte) : Mem :=
  match rs, bs with
  | r :: rs, b :: bs => storeRefs (match r.tgt with | .dram => Mem.setByte m r.pa b | _ => m) rs bs
  | _, _ => m

end Sys2Proof.Machine
end

