-- ==== Sys2Proof/Machine/Lines.lean ====
section
/-!
DEFINITION. Lines and their homes (chapter 11): the mesh and its ports (R35 to R37), the credit shares of the misses toward
memory (R264, R265), the caches of Table 11-1 with their sets, ways and replacement, the directory and the transactions of
the homes (R446 to R454, Table 11-3), and how an access obtains the line it needs (R456, R460, R463). Line data are those of
the coherent image; what is kept here is who holds a line, where, and in which state.
-/

namespace Sys2Proof.Machine

/-! ### The mesh (R35 to R37, R444) -/

/-- The mesh column and row of a tile (R35). -/
def meshCol (t : Nat) : Nat := t % 8
def meshRow (t : Nat) : Nat := t / 8

/-- The home slice of a line (R444). -/
def homeOf (line : Nat) : Nat :=
  let pa := line * 64
  (((((((bitsOf pa 11 6 ^^^ bitsOf pa 17 12) ^^^ bitsOf pa 23 18) ^^^ bitsOf pa 29 24) ^^^ bitsOf pa 35 30) ^^^
    bitsOf pa 41 36) ^^^ bitsOf pa 47 42) ^^^ bitsOf pa 51 48)

/-- The core of this package that a requester number names (R451).
DESIGN CHOICE (log 7). -/
def State.localCore (s : State) (req : Nat) : Option Nat :=
  if req < 512 ∧ req / 128 = s.pins.tussockId.toNat then some (req % 128) else none

/-- The requester number of a core of this package. -/
def State.reqNo (s : State) (c : Nat) : Nat := 128 * s.pins.tussockId.toNat + c

/-- The last step of the path from tile `t` to tile `h`, along the row first (R37): the input port of stop `h` (Table 1-2). -/
def meshPort (t h : Nat) : Nat :=
  if meshRow t < meshRow h then 0
  else if meshRow h < meshRow t then 2
  else if meshCol h < meshCol t then 1
  else 3

/-- The input port at which a request of `req` enters the stop of tile `h` (R36, R37): the core's own port in its own tile, the
end of its path from another tile, and the vertical port for an agent or another package. -/
def State.arrivalPort (s : State) (req h : Nat) : Nat :=
  match s.localCore req with
  | some c => if c / 2 = h then 4 + c % 2 else meshPort (c / 2) h
  | none => 7

/-! ### Credit shares (R264, R265) -/

/-- RSV and CAP of a domain in a class (0 L3, 1 DDR, 2 Loam, 3 fabric gets), in sixty-fourths, among a set of domains. -/
def shareIn (m : FMap Domain) (d cls : Nat) : Nat × Nat :=
  let x := FMap.get m d Domain.reset
  match FMap.find x.cap cls with
  | some cap => (FMap.get x.rsv cls 0, cap)
  | none =>
    let n := (m.filter (fun p => p.2.valid)).length
    if n ≤ 1 then (0, 64) else (32 / n, 48)

/-- The share of a domain in force. -/
def State.share (s : State) (d cls : Nat) : Nat × Nat := shareIn s.domains d cls

/-- The entries of a share of `k` sixty-fourths of a base of `n` (R264). -/
def shareEntries (k n : Nat) : Nat := k * n / 64

/-- Does domain `d` take an entry of a class of share base `n` (R264)? `inUse` gives each domain's entries in use, `total` all
entries in use, and `floor` the entries of a reserve that no domain holds and that are not in use (R265). -/
def State.admits (s : State) (cls n : Nat) (inUse : Nat → Nat) (total floor d : Nat) : Bool :=
  let rsv (e : Nat) : Nat := shareEntries (s.share e cls).1 n
  let unmet : Nat := ((s.domList.filter (· != d)).map (fun e => rsv e - inUse e)).sum + floor
  decide (inUse d < shareEntries (s.share d cls).2 n) && (decide (inUse d < rsv d) || decide (unmet < n - total))

/-! ### DDR channels (R787) -/

/-- An interleave set: first byte, GiB of each channel in it, the channels, and GiB of each used by the sets below it. -/
structure DramSet where
  base  : Nat
  each  : Nat
  chans : List Nat
  used  : Nat
  deriving DecidableEq, Repr

/-- The sets over the capacities left, from `base` up; every set leaves at least one channel out, so 12 are enough. -/
def dramSets (caps : List (Nat × Nat)) (base used fuel : Nat) : List DramSet :=
  match fuel with
  | 0 => []
  | k + 1 =>
    match caps.filter (fun c => decide (0 < c.2)) with
    | [] => []
    | c :: r =>
      let l := c :: r
      let m := r.foldl (fun m c => min m c.2) c.2
      { base := base, each := m, chans := l.map (·.1), used := used } ::
        dramSets (l.map (fun c => (c.1, c.2 - m))) (base + gib (l.length * m)) (used + m) k

/-- The first physical address of this package's DRAM (R651). -/
def State.ownBase (s : State) : Nat := if s.fabric.assembled then gib (FMap.get s.fabric.memberBase s.pins.tussockId.toNat 0) else 0

/-- The channel, the DIMM of it and the channel offset of a physical address of this package's DRAM. -/
def State.dramAt (s : State) (pa : Nat) : Option (Nat × Nat × Nat) :=
  let a := pa - s.ownBase
  ((dramSets s.ddr.caps 0 0 12).find? (fun x => decide (x.base ≤ a) && decide (a < x.base + gib (x.chans.length * x.each)))).bind
    (fun x =>
      let q := a - x.base
      let g := q / 256
      ((x.chans.drop (g % x.chans.length)).head?).map (fun ch =>
        let off := gib x.used + g / x.chans.length * 256 + q % 256
        (ch, off / 4096 % FMap.get s.ddr.dimms ch 1, off)))

/-- The DDR channel of a physical address of installed DRAM; 0 before training. -/
def State.channelOf (s : State) (pa : Nat) : Nat := ((s.dramAt pa).map (·.1)).getD 0

/-- Does a byte range of DRAM lie on a channel? -/
def State.onChannel (s : State) (lo hi ch : Nat) : Bool :=
  (dramSets s.ddr.caps 0 0 12).any (fun x =>
    x.chans.contains ch && decide (lo < s.ownBase + x.base + gib (x.chans.length * x.each)) && decide (s.ownBase + x.base < hi))

/-! ### Misses toward memory (R259, R264) -/

/-- The slice entries, and the entries of a DDR channel, that a domain has in use. -/
def State.sliceUse (s : State) (n d : Nat) : Nat := (s.misses.filter (fun m => m.slice == n && m.dom == d)).length
def State.chanUse (s : State) (c d : Nat) : Nat := (s.misses.filter (fun m => m.chan == c && m.ddr == 1 && m.dom == d)).length

/-- May domain `d` take a miss entry of slice `n`, or an entry of channel `c` (R264)? -/
def State.sliceAdmits (s : State) (n d : Nat) : Bool :=
  s.admits 0 176 (s.sliceUse n) (s.misses.filter (fun m => m.slice == n)).length 0 d
def State.chanAdmits (s : State) (c d : Nat) : Bool :=
  s.admits 1 128 (s.chanUse c) (s.misses.filter (fun m => m.chan == c && m.ddr == 1)).length 0 d

/-- The domain of the request at the front of a line's queue. -/
def State.frontDom (s : State) (line : Nat) : Nat := ((s.line line).waiting.head?.map (·.dom)).getD 64

/-- Does a line wait for a miss entry of slice `n` that R264 would give it? It goes before a request that arrives (R261). -/
def State.sliceWaiter (s : State) (n : Nat) : Option Nat :=
  s.missWait.find? (fun l => homeOf l == n && s.sliceAdmits n (s.frontDom l))

/-- The miss that waits longest for channel `c` among those R264 admits. -/
def State.chanWaiter (s : State) (c : Nat) : Option Miss :=
  s.misses.find? (fun m => m.chan == c && m.ddr == 0 && s.chanAdmits c m.dom)

/-- May a request of domain `d` for a line read DRAM now, with an entry of its slice and of its channel? -/
def State.missOk (s : State) (line d : Nat) : Bool :=
  let c := s.channelOf (line * 64)
  s.sliceAdmits (homeOf line) d && (s.sliceWaiter (homeOf line)).isNone && s.chanAdmits c d && (s.chanWaiter c).isNone

/-! ### L3 (R445) -/

/-- The revision tag of a line of DRAM, which has none; Loam lines carry 0 to 65,535 (R465). -/
def dramTag : Nat := 65536

/-- Do two lines lie in one set of one L3 slice, or of one directory (Table 11-1)? The bits above those that choose the slice
choose the set.
DESIGN CHOICE (log 34). -/
def sameL3Set (a b : Nat) : Bool := homeOf a == homeOf b && a / 64 % 4096 == b / 64 % 4096
def sameDirSet (a b : Nat) : Bool := homeOf a == homeOf b && a / 64 % 8192 == b / 64 % 8192

/-- Does L3 hold a line with a tag? -/
def State.l3Has (s : State) (line tag : Nat) : Bool := s.l3.any (fun e => e.line == line && e.tag == tag)

/-- A hit in L3 makes the line the most recently used. -/
def State.l3Touch (s : State) (line tag : Nat) : State :=
  match s.l3.find? (fun e => e.line == line && e.tag == tag) with
  | some e => { s with l3 := e :: s.l3.filter (· != e) }
  | none => s

/-- The L3 ways an allocation of a domain may use: its way mask; all of them for one made for no domain (R445). -/
def State.wayMask (s : State) (d : Nat) : BitVec 16 := if (s.domain d).valid then (s.domain d).ways else 0xFFFF

/-- A line leaves L3; one of DRAM is no longer held, and dirty data go to DRAM (R445). -/
def State.l3Drop (s : State) (e : L3Line) : State :=
  let s := { s with l3 := s.l3.filter (· != e) }
  if e.tag = dramTag then s.onLine e.line (fun x => { x with inL3 := false, l3dirty := false, l3old := false }) else s

/-- L3 allocates a line for a domain: a free way of its mask, else the way of the least recently used line among them. -/
def State.l3Fill (s : State) (d line tag : Nat) : State :=
  if s.l3Has line tag then s.l3Touch line tag
  else
    let set := s.l3.filter (fun e => sameL3Set e.line line)
    let ways := (List.range 16).filter (fun w => (s.wayMask d).getLsbD w)
    match ways.find? (fun w => !set.any (fun e => e.way == w)) with
    | some w => { s with l3 := { line := line, tag := tag, way := w } :: s.l3 }
    | none =>
      match (set.filter (fun e => ways.contains e.way)).getLast? with
      | some v => let s := s.l3Drop v; { s with l3 := { line := line, tag := tag, way := v.way } :: s.l3 }
      | none => s

/-- A line's L3 copy: what a DRAM read for an allocating request leaves (R445). -/
def State.allocL3 (s : State) (d line : Nat) : State :=
  let had := (s.line line).inL3
  (s.l3Fill d line dramTag).onLine line (fun x =>
    if had then x else { x with inL3 := true, l3dirty := false, l3old := false })

/-- Data that reach L3: the copy is dirty and current. -/
def State.writeL3 (s : State) (d line : Nat) : State :=
  (s.l3Fill d line dramTag).onLine line (fun x => { x with inL3 := true, l3dirty := true, l3old := false })

/-- The line granted in M or E: L3's copy may be out of date (R446). -/
def State.staleL3 (s : State) (line : Nat) : State := s.onLine line (fun x => { x with l3old := x.inL3 })

/-- The owner gave a clean line up: L3's copy is current. -/
def State.freshL3 (s : State) (line : Nat) : State := s.onLine line (fun x => { x with l3old := false })

/-! ### Messages (R449, Table 11-2) -/

/-- The message classes of Table 11-2: FWD 1, RSP 2. -/
def MsgKind.cls (k : MsgKind) : Nat :=
  match k with | .fwds => 1 | .fwdx => 1 | .fwdna => 1 | .inv => 1 | .binv => 1 | _ => 2

/-- Does a message travel to the home? -/
def MsgKind.toHome (k : MsgKind) : Bool :=
  match k with
  | .fwdack => true | .fwdackd => true | .fwdnak => true | .wbm => true | .eve => true | .evs => true | _ => false

/-- The stop of a requester: a core's tile, or a stop beyond the tiles for an agent or another package. -/
def stopOf (req : Nat) : Nat := if req < 512 then req / 2 else 1000 + req

/-- The stops a message travels from and to. -/
def CohMsg.route (m : CohMsg) : Nat × Nat :=
  if m.kind.toHome then (stopOf m.peer, homeOf m.line)
  else ((match m.kind, m.req with
    | .datas, some c => stopOf c
    | .datax, some c => stopOf c
    | .datana, some c => stopOf c
    | _, _ => homeOf m.line), stopOf m.peer)

/-- The message of a kind for a line and an end: one that its L2 holds, or the first of its class on its route (R449). -/
def State.arriving (s : State) (k : MsgKind) (line peer : Nat) : Option CohMsg :=
  match s.msgs.find? (fun m => m.kind == k && m.line == line && m.peer == peer) with
  | some m =>
    if m.held || s.msgs.find? (fun x => !x.held && x.kind.cls == m.kind.cls && x.route == m.route) == some m then some m
    else none
  | none => none

/-- A message without data. -/
def msgOf (k : MsgKind) (line peer : Nat) (req : Option Nat) : CohMsg :=
  { kind := k, line := line, peer := peer, req := req, held := false, data := [] }

/-- Sends messages. -/
def State.send (s : State) (l : List CohMsg) : State := { s with msgs := s.msgs ++ l }

/-- Takes a message off the mesh. -/
def State.take (s : State) (m : CohMsg) : State := { s with msgs := dropFirst (· == m) s.msgs }

/-- The 64 bytes of a line of DRAM. -/
def State.lineBytes (s : State) (line : Nat) : List Byte := Mem.read s.dram (line * 64) 64

/-! ### The directory (R446, R448, R468) -/

/-- The holders of a line. -/
def DirSt.holders (d : DirSt) : List Nat :=
  match d with | .invalid => [] | .shared l => l | .owned o => [o]

/-- The holder a requester counts as: a core of this package or an agent itself, another package as one holder (R468). -/
def State.holderOf (s : State) (req : Nat) : Nat :=
  if req < 512 ∧ req / 128 ≠ s.pins.tussockId.toNat then 128 * (req / 128) else req

/-- The package bits of a line's holders outside this package (R468).
DESIGN CHOICE (log 7). -/
def State.pkgBits (s : State) (l : List Nat) : BitVec 4 :=
  l.foldl (fun b h => if h < 512 ∧ h / 128 ≠ s.pins.tussockId.toNat then b ||| BitVec.ofNat 4 (2 ^ (h / 128)) else b) 0

/-- Sets the directory state of a line, whose entry becomes the most recently used of its set, or free. -/
def State.setDir (s : State) (line : Nat) (d : DirSt) : State :=
  let rest := s.dirUse.filter (· != line)
  { s.onLine line (fun x => { x with dir := d, pkgs := s.pkgBits d.holders }) with
    dirUse := if d = .invalid then rest else line :: rest }

/-- The entry a request for a line with none frees first: the least recently used of a set of 16 that is full (R448). -/
def State.dirVictim (s : State) (line : Nat) : Option Nat :=
  if (s.line line).dir = .invalid then
    let set := s.dirUse.filter (fun l => sameDirSet l line)
    if set.length < 16 then none else set.getLast?
  else none

/-- A request with the sharers other than its requester. -/
def others (l : List Nat) (req : Nat) : List Nat := l.filter (· != req)

/-! ### The package a line is homed on (R468) -/

/-- Is the home of a line on another package of the Tussock? This package's slice is then its proxy. -/
def State.remoteHomed (s : State) (line : Nat) : Bool :=
  s.fabric.assembled && s.fabric.members.any (fun m =>
    let b := FMap.get s.fabric.memberBase m.1 0 * 2 ^ 30
    m.1 != s.pins.tussockId.toNat && decide (b ≤ line * 64) && decide (line * 64 < b + m.2 * 2 ^ 30))

/-- Has the package the right that a request needs of a line it is the proxy of? -/
def State.proxyMay (s : State) (line : Nat) (k : CohKind) : Bool :=
  let need := match k with | .rds => 1 | .rdna => 1 | _ => 2
  !s.remoteHomed line || decide (need ≤ (s.line line).right)

/-! ### The home's transactions (R450, R452, Table 11-3) -/

/-- Does a request read DRAM when it opens: in I or S without the line in L3 (R452)? -/
def State.readsDram (s : State) (line : Nat) (r : HomeReq) : Bool :=
  let x := s.line line
  !x.inL3 && (match r.kind, x.dir with
    | .free, _ => false
    | .wrl, _ => false
    | _, .owned _ => false
    | .upg, .shared l => !l.contains (s.holderOf r.req)
    | _, _ => true)

/-- The row of its DRAM channel that a non-allocating read leaves open (R275).
DESIGN CHOICE (log 34). -/
def State.openRowFor (s : State) (line : Nat) : State :=
  { s with ddr := { s.ddr with openRow := FMap.put s.ddr.openRow (s.channelOf (line * 64)) (line / 128) } }

/-- Removes a line of DRAM from a core's L2, and so from its L1s (R443). -/
def Core.dropLine (c : Core) (line : Nat) : Core :=
  let keep (l : List (Nat × Nat)) := l.filter (fun e => e != (line, dramTag))
  { c with l2 := FMap.erase c.l2 line, l2use := keep c.l2use, l1i := keep c.l1i, l1d := keep c.l1d }

/-- A store leaves no copy of its line in an L1I (R460), nor in an L2 that a fetch off the taken path filled without an entry
(R266).
DESIGN CHOICE (log 61). -/
def State.dropStray (s : State) (line h : Nat) : State :=
  { s with cores := s.cores.map (fun p =>
      if s.reqNo p.1 == h then (p.1, { p.2 with l1i := p.2.l1i.filter (· != (line, dramTag)) })
      else if (line, dramTag) ∈ p.2.l2use then (p.1, p.2.dropLine line) else p) }

/-- The line an agent's whole-line write leaves (R452, R460, R462). -/
def State.writeLine (s : State) (line dom : Nat) (bs : List Byte) : State :=
  (({ s with dram := Mem.write s.dram (line * 64) (bs.take 64) }.writeL3 dom line).setDir line .invalid).dropStray line 10000

/-- What opening a request does (Table 11-3): messages, and the transaction left open or the state it closes in. -/
def State.openReq (s : State) (line : Nat) (r : HomeReq) : State :=
  let x := s.line line
  let me := s.holderOf r.req
  let wait (k : MsgKind) (l : List Nat) (req : Option Nat) (kind : ReqKind) : State :=
    (s.send (l.map (fun h => msgOf k line h req))).onLine line (fun x =>
      { x with txn := some { kind := kind, req := r.req, dom := r.dom, off := r.off, bytes := r.bytes, wait := l } })
  let data (k : MsgKind) : State := s.send [msgOf k line r.req none]
  let own (k : MsgKind) : State := (((data k).allocL3 r.dom line).staleL3 line).setDir line (.owned me)
  match r.kind, x.dir with
  | .rds, .invalid => own .datae
  | .rds, .shared l => ((data .datas).allocL3 r.dom line).setDir line (.shared (others l me ++ [me]))
  | .rds, .owned o => wait .fwds [o] (some r.req) .rds
  | .rdna, .owned o => wait .fwdna [o] (some r.req) .rdna
  | .rdna, _ =>
    let s := s.send [{ msgOf .datana line r.req none with data := s.lineBytes line }]
    if x.inL3 then s else s.openRowFor line
  | .upg, .shared l =>
    if l.contains me then
      if (others l me).isEmpty then ((data .grantx).staleL3 line).setDir line (.owned me)
      else wait .inv (others l me) (some r.req) .upg
    else wait .inv l (some r.req) .rdx
  | .wrl, d => if d.holders.isEmpty then s.writeLine line r.dom r.bytes else wait .inv d.holders none .wrl
  | .free, d => if d.holders.isEmpty then s else wait .binv d.holders none .free
  | _, .invalid => own .datax
  | _, .shared l =>
    if (others l me).isEmpty then own .datax else wait .inv (others l me) (some r.req) .rdx
  | _, .owned o => wait .fwdx [o] (some r.req) .rdx

/-- What stands before the opening of a line's first waiting request. -/
inductive Gate where
  | go (s : State)
  | stay (s : State)
  | free (victim : Nat) (s : State)
  deriving DecidableEq, Repr

/-- Takes the miss entries that a request reading DRAM needs (R259, R264), or waits for them where Table 6-2 says: in its
ordering queue entry for one of the slice, in its slice entry for one of the channel. -/
def State.missGate (s : State) (line : Nat) (r : HomeReq) : Gate :=
  let n := homeOf line
  let c := s.channelOf (line * 64)
  let block (b : Blocked) (s : State) : State := s.onLine line (fun x => { x with blocked := b })
  let m : Miss := { slice := n, chan := c, dom := r.dom, line := line, ddr := 1 }
  match (s.line line).blocked with
  | .ddr =>
    if s.chanAdmits c r.dom then
      .go { s with misses := s.misses.map (fun y => if y = { m with ddr := 0 } then m else y) }
    else .stay s
  | b =>
    let mine := s.missWait.contains line
    if s.sliceAdmits n r.dom && (mine || (s.sliceWaiter n).isNone) then
      let s := { s with missWait := others s.missWait line }
      if s.chanAdmits c r.dom && (s.chanWaiter c).isNone then .go { s with misses := s.misses ++ [m] }
      else .stay (block .ddr { s with misses := s.misses ++ [{ m with ddr := 0 }] })
    else if b = .miss then .stay s
    else .stay (block .miss { s with missWait := s.missWait ++ [line] })

/-- What the first waiting request of a line waits for: the right of the package (R468), a directory entry (R448), miss
entries. -/
def State.gate (s : State) (line : Nat) (r : HomeReq) : Gate :=
  let kind : CohKind := match r.kind with | .rds => .rds | .rdna => .rdna | .upg => .upg | _ => .rdx
  if r.kind ≠ .free ∧ !s.proxyMay line kind then
    .stay (s.onLine line (fun x => { x with up := some (x.up.getD kind) }))
  else match (if r.kind = .rds ∨ r.kind = .rdx ∨ r.kind = .upg then s.dirVictim line else none) with
    | some v =>
      if (s.line line).blocked = .entry v then .stay s
      else .free v (s.onLine line (fun x => { x with blocked := .entry v }))
    | none => if s.readsDram line r then s.missGate line r else .go s

/-- The lines whose first request waits for the entry of line `v`. -/
def State.entryWaiters (s : State) (v : Nat) : List Nat := (s.lines.filter (fun p => p.2.blocked == .entry v)).map (·.1)

/-- Opens waiting requests of a line while none is open and nothing stands before the first (R450), `n` steps at most. The
freeing of a directory entry is a transaction of its own line (R448, R473); one that finds no holder closes at once. -/
def State.openNext (s : State) (line n : Nat) : State :=
  match n with
  | 0 => s
  | k + 1 =>
    let x := s.line line
    match x.txn, x.waiting with
    | none, r :: rest =>
      match s.gate line r with
      | .go s =>
        let s := (s.onLine line (fun x => { x with waiting := rest, blocked := .none })).openReq line r
        let s := if r.kind = .free ∧ (s.line line).txn.isNone then
            (s.entryWaiters line).foldl (fun s l => s.openNext l k) s
          else s
        s.openNext line k
      | .stay s => s
      | .free v s =>
        (s.onLine v (fun x => { x with waiting := x.waiting ++
          [{ kind := .free, req := r.req, dom := r.dom, off := 0, bytes := [] }] })).openNext v k
    | _, _ => s

/-- Steps enough for every waiting request to open. -/
def State.openFuel (s : State) : Nat := s.lines.foldl (fun n p => n + p.2.waiting.length + 1) 2

/-- A request enters the ordering queue of its line's home. -/
def State.enterQueue (s : State) (line : Nat) (r : HomeReq) : State :=
  let s := s.onLine line (fun x => { x with waiting := x.waiting ++ [r] })
  s.openNext line s.openFuel

/-- Entries of a slice's ordering queue in use (R450). The freeing of a directory entry uses that of the request which needs
it.
DESIGN CHOICE (log 34). -/
def State.queueUsed (s : State) (slice : Nat) : Nat :=
  s.lines.foldl (fun n p =>
    if homeOf p.1 = slice then
      n + (p.2.waiting.filter (fun r => r.kind != .free)).length + natOf (p.2.txn.any (fun t => t.kind != .free))
    else n) 0

/-- The kind of a request in the ordering queue. -/
def homeKind (k : CohKind) : ReqKind :=
  match k with | .rds => .rds | .rdx => .rdx | .upg => .upg | .rdna => .rdna | .wrl => .wrl

/-- The domain a request counts for (R264): that of its core's tile, or the one its agent acts for. -/
def State.reqDom (s : State) (q : CohReq) : Nat :=
  match s.localCore q.req with | some c => (s.domOf (2 * c)).getD 64 | none => q.domain

/-- A request is let into its slice's queue. -/
def State.admitReq (s : State) (k : CohKind) (q : CohReq) : State :=
  s.enterQueue q.line { kind := homeKind k, req := q.req, dom := s.reqDom q, off := q.off, bytes := q.bytes }

/-- A request reaches its home: it holds at its mesh stop while the queue is full or an earlier one holds (R450, R261). -/
def State.arrive (s : State) (k : CohKind) (q : CohReq) : State :=
  let n := homeOf q.line
  if 256 ≤ s.queueUsed n || s.stops.any (fun r => homeOf r.2.line == n) then { s with stops := s.stops ++ [(k, q)] }
  else s.admitReq k q

/-- The request that an L2 already has open, or that its writeback buffer stands before, makes another one wait in the L2.
DESIGN CHOICE (log 34). -/
def Core.busy (c : Core) (line : Nat) : Bool := FMap.has c.want line || FMap.has c.wb line

/-- A request leaves its L2 or its agent. A core's own request is open until its data arrive (R453); a non-allocating read
belongs to a load, not to the L2. -/
def State.request (s : State) (k : CohKind) (q : CohReq) : State :=
  match s.localCore q.req, k with
  | some _, .rdna => s.arrive k q
  | some c, _ =>
    if (s.core c).busy q.line then s.onCore c (fun x => { x with later := x.later ++ [(k, q)] })
    else (s.onCore c (fun x =>
      { x with want := FMap.put x.want q.line { kind := k, off := q.off, bytes := q.bytes } })).arrive k q
  | none, .rdx => if 512 ≤ q.req then ({ s with agentWant := s.agentWant ++ [q] } : State).arrive k q else s.arrive k q
  | none, _ => s.arrive k q

/-- Sends the requests of a core for a line that waited for its own. -/
def State.sendLater (s : State) (c line : Nat) : State :=
  let mine := (s.core c).later.filter (fun r => r.2.line == line)
  let s := s.onCore c (fun x => { x with later := x.later.filter (fun r => r.2.line != line) })
  mine.foldl (fun s r => s.request r.1 r.2) s

/-! ### Requests of one MCLK cycle (R451, R470, R484) -/

/-- Puts a request in its place by requester number. -/
def insertByReq (r : CohKind × CohReq) (l : List (CohKind × CohReq)) : List (CohKind × CohReq) :=
  match l with
  | [] => [r]
  | x :: rest => if r.2.req < x.2.req then r :: x :: rest else x :: insertByReq r rest

/-- What each port delivers in one cycle, in ascending port number: at most one message from ports 0 to 6, two from port 7,
those by requester number. The first list enters now, the second in later cycles. -/
def State.portRound (s : State) (h : Nat) (l : List (CohKind × CohReq)) :
    List (CohKind × CohReq) × List (CohKind × CohReq) :=
  (List.range 8).foldl (fun acc p =>
    let here := (l.filter (fun r => s.arrivalPort r.2.req h == p)).foldl (fun m r => insertByReq r m) []
    let k := if p = 7 then 2 else 1
    (acc.1 ++ here.take k, acc.2 ++ here.drop k)) ([], [])

/-- The order in which requests that reach the home in tile `h` at once enter its queue, `n` cycles at most. -/
def State.portOrder (s : State) (h : Nat) (l : List (CohKind × CohReq)) (n : Nat) : List (CohKind × CohReq) :=
  match n with
  | 0 => l
  | k + 1 =>
    if l.isEmpty then [] else
      let r := s.portRound h l
      r.1 ++ s.portOrder h r.2 k

/-- Requests that reach their homes in one MCLK cycle: those of one home in the order of R451. -/
def State.arriveTogether (s : State) (l : List (CohKind × CohReq)) : State :=
  let homes := (l.map (fun r => homeOf r.2.line)).eraseDups
  homes.foldl (fun s h =>
    (s.portOrder h (l.filter (fun r => homeOf r.2.line == h)) l.length).foldl (fun s r => s.request r.1 r.2) s) s

/-! ### The core's caches (R442, R443, R465) -/

/-- Do two lines lie in one set of an L1, or of an L2 (Table 11-1)? The low bits of the line number choose it.
DESIGN CHOICE (log 34). -/
def sameL1Set (a b : Nat) : Bool := a % 128 == b % 128
def sameL2Set (a b : Nat) : Bool := a % 2048 == b % 2048

/-- Puts a line in an L1 as the most recently used of its set, which keeps 8. -/
def l1Put (l : List (Nat × Nat)) (k : Nat × Nat) : List (Nat × Nat) :=
  let rest := l.filter (· != k)
  let set := rest.filter (fun e => sameL1Set e.1 k.1)
  match (if set.length < 8 then none else set.getLast?) with
  | some v => k :: rest.filter (· != v)
  | none => k :: rest

/-- Removes the Loam lines of a core's caches that satisfy `p`. -/
def Core.dropLoam (c : Core) (p : Nat × Nat → Bool) : Core :=
  let keep (l : List (Nat × Nat)) := l.filter (fun e => e.2 == dramTag || !p e)
  { c with l2use := keep c.l2use, l1i := keep c.l1i, l1d := keep c.l1d }

/-- A line becomes the most recently used of its L2 set. -/
def Core.touch2 (c : Core) (k : Nat × Nat) : Core := { c with l2use := k :: c.l2use.filter (· != k) }

/-- The line that the install of a line in L2 replaces: the least recently used of a set of 16 that is full. -/
def Core.victim2 (c : Core) (k : Nat × Nat) : Option (Nat × Nat) :=
  if c.l2use.contains k then none
  else
    let set := c.l2use.filter (fun e => sameL2Set e.1 k.1)
    if set.length < 16 then none else set.getLast?

/-- The answer of a home to an eviction notice of its own holder (R454): M data go to L3, a clean line leaves L3's copy
current, a sharer leaves the vector; a copy that the directory does not list leaves no trace. -/
def State.giveUp (s : State) (d line h : Nat) (st : LineSt) : State :=
  match st with
  | .modified => (s.writeL3 d line).setDir line .invalid
  | .exclusive => (s.freshL3 line).setDir line .invalid
  | .shared =>
    let l := others (s.line line).dir.holders h
    if !(s.line line).dir.holders.contains h then s
    else s.setDir line (if l.isEmpty then .invalid else .shared l)

/-- Is nothing open, waiting or on its way for a line? -/
def State.lineIdle (s : State) (line : Nat) : Bool :=
  let x := s.line line
  x.txn.isNone && x.waiting.isEmpty && x.notices.isEmpty && x.up.isNone && !s.msgs.any (fun m => m.line == line)

/-- A line leaves an L2 with its notice to the home (R447): a line in M or E needs an entry of the writeback buffer, none when all
16 are in use. A Loam line leaves without notice. -/
def State.evictOut (s : State) (c : Nat) (k : Nat × Nat) : Option State :=
  let x := s.core c
  let h := s.reqNo c
  let gone := s.onCore c (fun x => x.dropLine k.1)
  if k.2 ≠ dramTag then some (s.onCore c (fun x => x.dropLoam (· == k)))
  else match FMap.find x.l2 k.1 with
    | none => some gone
    | some .shared => some (gone.send [msgOf .evs k.1 h none])
    | some st =>
      if 16 ≤ x.wb.length then none
      else some ((gone.onCore c (fun x => { x with wb := FMap.put x.wb k.1 (st == .modified) })).send
        [msgOf (if st = .modified then .wbm else .eve) k.1 h none])

/-- A line leaves an L2 for another; where its home is idle the notice is answered within the step. -/
def State.evict2 (s : State) (c : Nat) (k : Nat × Nat) : Option State :=
  match (if k.2 = dramTag ∧ s.lineIdle k.1 then FMap.find (s.core c).l2 k.1 else none) with
  | some st => some ((s.onCore c (fun x => x.dropLine k.1)).giveUp ((s.domOf (2 * c)).getD 64) k.1 (s.reqNo c) st)
  | none => s.evictOut c k

/-- A line enters an L2 in a state, or as a Loam line; none while the line it replaces cannot leave. -/
def State.install2 (s : State) (c : Nat) (k : Nat × Nat) (st : LineSt) : Option State :=
  let put (s : State) : State := s.onCore c (fun x =>
    { x.touch2 k with l2 := if k.2 = dramTag then FMap.put x.l2 k.1 st else x.l2 })
  match (s.core c).victim2 k with
  | some v => (s.evict2 c v).map put
  | none => some (put s)

/-! ### Obtaining a line (R446, R456, R460, R463) -/

/-- What an access wants of a line: a load's copy in L1D, a fetch's in L1I, a tile row's in L2; or the line in M for a
store or a tile row. -/
inductive LineUse where
  | load
  | fetch
  | tileRead
  | store
  | tileWrite
  deriving DecidableEq, Repr

/-- Does a use need the line in M? -/
def LineUse.owns (u : LineUse) : Bool := match u with | .store => true | .tileWrite => true | _ => false

/-- The copy a use leaves in its L1. -/
def Core.fill1 (c : Core) (u : LineUse) (k : Nat × Nat) : Core :=
  match u with
  | .load => { c with l1d := l1Put c.l1d k }
  | .store => { c with l1d := l1Put c.l1d k }
  | .fetch => { c with l1i := l1Put c.l1i k }
  | _ => c

/-- Are a line's holders all L2s of this package that hold it and have no request open for it? -/
def State.holdersHere (s : State) (line : Nat) : Bool :=
  (s.line line).dir.holders.all (fun h => match s.localCore h with
    | some c => FMap.has (s.core c).l2 line && !(s.core c).busy line
    | none => false)

/-- Can a request of core `c` for a line be served within the step? Its home is idle, its holders answer at once, the core has
nothing open for it, and the package has the right to it. -/
def State.lineFree (s : State) (c line : Nat) (k : CohKind) : Bool :=
  s.lineIdle line && s.holdersHere line && !(s.core c).busy line && s.proxyMay line k

/-- Every holder of a line but `h` drops it (Inv, FwdX, BInv). -/
def State.dropHolders (s : State) (line h : Nat) : State :=
  (others (s.line line).dir.holders h).foldl (fun s o =>
    match s.localCore o with | some c => s.onCore c (fun x => x.dropLine line) | none => s) s

/-- Does the owner of a line hold it in M? -/
def State.dirtyAt (s : State) (line h : Nat) : Bool :=
  match s.localCore h with | some c => FMap.find (s.core c).l2 line == some .modified | none => false

/-- The freeing of a directory entry within a step (R448): its holders drop the line, M data go to L3; none while a holder
cannot answer at once. -/
def State.freeEntry (s : State) (v : Nat) : Option State :=
  if s.lineIdle v && s.holdersHere v then
    let dirty := (s.line v).dir.holders.any (fun h => s.dirtyAt v h)
    let s := s.dropHolders v 10000
    some ((if dirty then s.writeL3 64 v else s.freshL3 v).setDir v .invalid)
  else none

/-- A line obtained for reading within the step (RdS, Table 11-3): the state it installs in. -/
def State.readLine (s : State) (d line h : Nat) : State × LineSt :=
  match (s.line line).dir with
  | .owned o =>
    let s' := if s.dirtyAt line o then s.writeL3 d line else s.freshL3 line
    let s' := match s.localCore o with
      | some c => s'.onCore c (fun x => { x with l2 := FMap.put x.l2 line .shared })
      | none => s'
    (s'.setDir line (.shared [o, h]), .shared)
  | .shared l => ((s.allocL3 d line).setDir line (.shared (others l h ++ [h])), .shared)
  | .invalid => (((s.allocL3 d line).staleL3 line).setDir line (.owned h), .exclusive)

/-- A line obtained for writing within the step (RdX or Upg): every other copy goes. -/
def State.ownLine (s : State) (d line h : Nat) (upg : Bool) : State :=
  let fromL3 := match (s.line line).dir with | .owned _ => false | _ => !upg
  let s := s.dropHolders line h
  ((if fromL3 then s.allocL3 d line else s).staleL3 line).setDir line (.owned h)

/-- The state in which a request for a line finds a directory entry (R448). -/
def State.dirRoom (s : State) (line : Nat) : Option State :=
  match s.dirVictim line with
  | some v => s.freeEntry v
  | none => some s

/-- The request that an access of a core makes for a line its L2 does not hold as the use needs. -/
def State.needs (s : State) (c : Nat) (u : LineUse) (line : Nat) : CohKind :=
  if u.owns then (if FMap.has (s.core c).l2 line then .upg else .rdx) else .rds

/-- The home serves that request within the step and the line is installed; none while it finds no entry toward memory. -/
def State.serveLine (s : State) (c d : Nat) (u : LineUse) (line : Nat) (k : CohKind) : Option State :=
  let h := s.reqNo c
  if s.readsDram line { kind := homeKind k, req := h, dom := d, off := 0, bytes := [] } && !s.missOk line d then none
  else if u.owns then (s.ownLine d line h (k == .upg)).install2 c (line, dramTag) .modified
  else (s.readLine d line h).1.install2 c (line, dramTag) (s.readLine d line h).2

/-- Obtains a line of DRAM that the core's L2 does not hold as the use needs: none while it cannot be had within the step. -/
def State.fetchLine (s : State) (c d : Nat) (u : LineUse) (line : Nat) : Option State :=
  let k := s.needs c u line
  if s.lineFree c line k then (s.dirRoom line).bind (fun s => s.serveLine c d u line k) else none

/-- Obtains a line of DRAM for core `c` of domain `d` (R446, R456, R463): a hit makes it the most recently used, a miss is served
by its home within the step. None while the line cannot be had: the access then holds.
DESIGN CHOICE (log 4). -/
def State.obtain (s : State) (c d : Nat) (u : LineUse) (line : Nat) : Option State :=
  let k := (line, dramTag)
  let hit (s : State) : State := s.onCore c (fun x => (x.touch2 k).fill1 u k)
  let got := match FMap.find (s.core c).l2 line, u.owns with
    | some .modified, _ => some s
    | some .exclusive, true => some (s.onCore c (fun x => { x with l2 := FMap.put x.l2 line .modified }))
    | some .shared, true => s.fetchLine c d u line
    | some _, false => some s
    | none, _ => s.fetchLine c d u line
  got.map (fun s => if u.owns then (hit s).dropStray line (s.reqNo c) else hit s)

/-- The lines of DRAM that passed references touch, in order. -/
def dramLines (rs : List ByteRef) : List Nat :=
  ((rs.filter (fun r => r.tgt == .dram && !r.dev)).map (fun r => r.pa / 64)).eraseDups

/-- Obtains every line of DRAM that an access touches, or none of them. -/
def State.obtainRefs (s : State) (c d : Nat) (u : LineUse) (rs : List ByteRef) : Option State :=
  (dramLines rs).foldl (fun o line => o.bind (fun s => s.obtain c d u line)) (some s)

/-- An access made for the part itself (a spill, a fill, a frame): it takes the lines it can have and does not hold.
DESIGN CHOICE (log 4). -/
def State.obtainSome (s : State) (c d : Nat) (u : LineUse) (rs : List ByteRef) : State :=
  (dramLines rs).foldl (fun s line => (s.obtain c d u line).getD s) s

/-! ### Agents (R462) -/

/-- An agent's write to one line: at once where its home is idle, every copy dropped and the data in L3; otherwise as the request
it is, a WrL of a whole line or a RdX for part of one. -/
def State.agentWrite (s : State) (req d line off : Nat) (bs : List Byte) : State :=
  if s.lineIdle line && s.holdersHere line && s.proxyMay line .rdx then
    let s := (s.dropHolders line 10000).dropStray line 10000
    ({ s with dram := Mem.write s.dram (line * 64 + off) (bs.take (64 - off)) }.writeL3 d line).setDir line .invalid
  else
    let q : CohReq := { line := line, req := req, domain := d, off := off, bytes := bs.take (64 - off) }
    s.request (if off = 0 ∧ 64 ≤ bs.length then .wrl else .rdx) q

/-- An agent's non-allocating reads of lines of DRAM (R462): none when one of them finds no entry toward memory (R264); a read of
memory leaves its row open. -/
def State.agentReads (s : State) (d : Nat) (lines : List Nat) : Option State :=
  lines.foldl (fun o line => o.bind (fun s =>
    let x := s.line line
    if x.inL3 || (match x.dir with | .owned _ => true | _ => false) then some s
    else if s.missOk line d then some (s.openRowFor line) else none)) (some s)

/-- An agent's write of `bs` at a physical address, line by line in ascending order. -/
def State.agentWrites (s : State) (req d a : Nat) (bs : List Byte) : State :=
  if bs.isEmpty then s
  else (List.range ((a % 64 + bs.length + 63) / 64)).foldl (fun s i =>
    let off := if i = 0 then a % 64 else 0
    let skip := if i = 0 then 0 else 64 * i - a % 64
    s.agentWrite req d (a / 64 + i) off ((bs.drop skip).take (64 - off))) s

/-- The requester numbers of the agents: a core's Stream engine, a root port, the fabric agent (R451: after every core). -/
def streamAgent (c : Nat) : Nat := 512 + c
def portAgent (p : Nat) : Nat := 640 + p
def fabricAgent : Nat := 656

end Sys2Proof.Machine
end

