-- ==== Sys2Proof/Machine/Speculate.lean ====
section
/-!
DEFINITION. Work in flight before it retires (chapter 6): the bounds of a core and their guarantees (R259 to R263, R285), what
a speculative load or fetch does and holds (R266 to R274), the install of its line (R271), its discard (R255, R280, R281), and
the SPEC_ events (R277). None of it reaches a register or memory: a load's value is that of its retirement.
-/

namespace Sys2Proof.Machine

/-! ### The bounds of a core (R259, R263) -/

/-- The structures of a core that bound work in flight (Table 6-2). -/
inductive CoreBound where
  | rob
  | loads
  | stores
  | fill
  | sfb
  | l2
  deriving DecidableEq, Repr

/-- A bound and its guarantee per active thread (Table 6-2). -/
def CoreBound.size (b : CoreBound) : Nat × Nat :=
  match b with
  | .rob => (448, 64) | .loads => (160, 32) | .stores => (112, 24) | .fill => (48, 8) | .sfb => (16, 4) | .l2 => (64, 16)

/-- The entries of a structure that a speculative access holds. -/
def SpecOp.uses (o : SpecOp) (b : CoreBound) : Nat :=
  let inFlight := o.at_ != .decode && !o.dead
  match b with
  | .rob => if inFlight then o.acc.uops else 0
  | .loads => if inFlight then o.acc.loads else 0
  | .stores => if inFlight then o.acc.stores else 0
  | .fill => 0
  | .sfb => natOf o.sfb
  | .l2 => natOf o.miss

/-- The entries of a structure that thread `g` of a core has in use. -/
def Core.inUse (c : Core) (b : CoreBound) (g : Nat) : Nat :=
  ((c.spec.filter (fun o => o.acc.thread == g)).map (fun o => o.uses b)).sum

/-- The entries that a core's own open requests have in use: misses beyond L2, in the fill buffers for reads. -/
def Core.openUse (c : Core) (b : CoreBound) : Nat :=
  match b with
  | .fill => (c.want.filter (fun w => w.2.kind == .rds)).length
  | .l2 => c.want.length
  | _ => 0

/-- Is a thread active: neither halted, Wedged, nor stopped by the SMC (Table 6-2)? -/
def State.active (s : State) (g : Nat) : Bool := (s.thread g).run == .running && !(s.clk (g / 4)).vreg

/-- May thread `g` take `need` entries of a structure of its core (R263)? With both threads active it leaves the other what that
one needs to reach its guarantee. -/
def State.coreRoom (s : State) (g : Nat) (b : CoreBound) (need : Nat) : Bool :=
  let c := s.core (g / 2)
  let h := g / 2 * 2 + (1 - g % 2)
  let used := c.inUse b g + c.inUse b h + c.openUse b
  let kept := if s.active h then b.size.2 - c.inUse b h else 0
  need == 0 || decide (used + need + kept ≤ b.size.1)

/-- Does an instruction of thread `g` that is not in flight yet find room at decode (R285)? -/
def State.decodes (s : State) (g : Nat) : Bool :=
  (s.core (g / 2)).spec.any (fun o => o.acc.thread == g && o.at_ != .decode) || s.coreRoom g .rob 1

/-! ### Speculative accesses (R266 to R270, R272, R273) -/

/-- Counts an event of work on any path, at the thread's ring (R277). -/
def State.countSpec (s : State) (g ev n : Nat) : State := s.onThread g (fun t => t.countEvent t.ring ev n)

/-- SPECGUARD of the domain of a core. -/
def State.guarded (s : State) (d : Nat) : Bool := (s.domain d).specguard

/-- A speculative access as decode takes it. -/
def SpecOp.new (a : SpecAccess) (d : Nat) : SpecOp :=
  { acc := a, dom := d, line := 0, walk := [], at_ := .decode, sfb := false, fromL2 := false, miss := false, data := [],
    put := false, redone := false, dead := false }

/-- The line of the coherent image that an access finds: of DRAM, or of the Boot ROM. -/
def State.specBytes (s : State) (t : Tgt) (line : Nat) : List Byte :=
  match t with
  | .rom => (List.range 64).map (fun i => Config.bootRom (line * 64 + i - 0xFFFFFF000000))
  | _ => s.lineBytes line

/-- What a speculative access comes to once it is translated, with its non-allocating read sent or not. -/
structure SpecStep where
  state : State
  op    : SpecOp
  send  : Bool
  alloc : Bool
  deriving DecidableEq, Repr

/-- The access of a passed speculative load or fetch to its first line (R266 to R270). A load that hits an SFB entry of its own
thread shares it.
DESIGN CHOICE (log 61). -/
def State.specLine (s : State) (o : SpecOp) (t : Tgt) (dev : Bool) : SpecStep :=
  let g := o.acc.thread
  let c := s.core (g / 2)
  let k := (o.line, if t = .dram then dramTag else 0)
  let stop (p : SpecAt) : SpecStep := { state := s, op := { o with at_ := p }, send := false, alloc := false }
  let beyond : SpecStep :=
    if !s.coreRoom g .l2 1 then stop .bound
    else if s.guarded o.dom then { stop .guard with op := { o with at_ := .guard, miss := true, sfb := !o.acc.fetch },
                                                    alloc := !o.acc.fetch }
    else { stop .sent with op := { o with at_ := .sent, miss := true, sfb := !o.acc.fetch }, send := true, alloc := !o.acc.fetch }
  match t with
  | .loam => stop .waits
  | .pcie _ => stop .waits
  | .control _ => stop .waits
  | _ =>
    if dev then stop .waits
    else if o.acc.fetch then
      if c.l1i.contains k then stop .filled
      else if c.l2use.contains k then
        { stop .filled with state := s.onCore (g / 2) (fun c => { c with l1i := l1Put c.l1i k }) }
      else if t = .dram then beyond else stop .filled
    else if c.l1d.contains k then { stop .ready with op := { o with at_ := .ready, put := true } }
    else match c.spec.find? (fun x => x.acc.thread == g && x.line == o.line && x.sfb && x.at_ == .ready && !x.dead) with
      | some x => { stop .ready with op := { o with at_ := .ready, put := true, fromL2 := x.fromL2 } }
      | none =>
        if !s.coreRoom g .sfb 1 then stop .bound
        else if c.l2use.contains k || t = .rom then
          { stop .ready with op := { o with at_ := .ready, sfb := true, fromL2 := true, data := s.specBytes t o.line },
                             alloc := true }
        else beyond

/-- Executes a speculative access (R253, R266 to R273): it is translated and checked, setting no accessed bit and installing
nothing; a failed load gives its dependents zero, a failed fetch stops, and device memory and Loam wait. -/
def State.specRun (s : State) (o : SpecOp) : SpecStep :=
  let g := o.acc.thread
  let stop (p : SpecAt) : SpecStep := { state := s, op := { o with at_ := p }, send := false, alloc := false }
  match s.check g (s.thread g).ring (if o.acc.fetch then Need.ifetch else Need.ld) o.acc.va o.acc.size with
  | .error _ => stop (if o.acc.fetch then .waits else .zero)
  | .ok [] => stop .zero
  | .ok (r :: rs) =>
    let walks := (r :: rs).filterMap (fun r => if r.path.isEmpty then none else r.tlb)
    s.specLine { o with line := r.pa / 64, walk := walks.eraseDups } r.tgt r.dev

/-- What a step of a speculative access leaves: its place in the core's list, its events, its request on the mesh. A fetch that
filled its line or stopped holds nothing. -/
def SpecStep.finish (r : SpecStep) (place : Core → SpecOp → Core) : State :=
  let o := r.op
  let g := o.acc.thread
  let s := r.state.onCore (g / 2) (fun c => place c o)
  let s := if r.alloc && o.sfb then s.countSpec g 0x43 1 else s
  if r.send then s.request .rdna { line := o.line, req := s.reqNo (g / 2), domain := o.dom, off := 0, bytes := [] } else s

/-- Is a speculative access finished with everything it held? -/
def SpecOp.spent (o : SpecOp) : Bool := o.acc.fetch && (o.at_ == .filled || o.at_ == .waits || o.at_ == .zero)

/-- May a speculative access of thread `g` be decoded: no earlier one of the thread waits, and the reorder buffer and the load
and store queues have room (R260, R263)? -/
def State.specDecodes (s : State) (a : SpecAccess) : Bool :=
  s.coreRoom a.thread .rob a.uops && s.coreRoom a.thread .loads a.loads && s.coreRoom a.thread .stores a.stores

/-- A speculative access begins: decode takes its entries and it executes, or it holds at decode. -/
def State.specBegin (s : State) (a : SpecAccess) : State :=
  let g := a.thread
  let o := SpecOp.new a ((s.domOf g).getD 64)
  let append (c : Core) (o : SpecOp) : Core := if o.spent then c else { c with spec := c.spec ++ [o] }
  if decide (g < 256) && s.active g then
    if !(s.core (g / 2)).spec.any (fun x => x.acc.thread == g && x.at_ == .decode) && s.specDecodes a then
      ((s.specRun { o with at_ := .bound }).finish append).countSpec g 0x41 a.uops
    else s.onCore (g / 2) (fun c => append c o)
  else s

/-- Replaces one speculative access of a core by another, or by none once it is spent. -/
def Core.setSpec (c : Core) (o o' : SpecOp) : Core :=
  if o'.spent then { c with spec := dropFirst (· == o) c.spec }
  else { c with spec := c.spec.map (fun x => if x = o then o' else x) }

/-- Tries again one speculative access that holds at decode or at a bound (R261). -/
def State.specRetry (s : State) (o : SpecOp) : State :=
  let g := o.acc.thread
  let run (s : State) : State := (s.specRun { o with at_ := .bound }).finish (fun c o' => c.setSpec o o')
  match o.at_ with
  | .decode => if s.specDecodes o.acc then (run s).countSpec g 0x41 o.acc.uops else s
  | .bound => run s
  | _ => s

/-- Serves the speculative accesses of a core that hold at one of its bounds, in the order they reached it (R261). -/
def State.specServe (s : State) (c : Nat) : State := (s.core c).spec.foldl (fun s o => s.specRetry o) s

/-! ### Discard and re-execution (R255, R271, R274, R278, R280, R281) -/

/-- A speculative access is discarded: its micro-ops and queue entries go at once, its SFB entry too, or when its data arrive. -/
def SpecOp.discard (o : SpecOp) : Option SpecOp := if o.at_ = .sent then some { o with dead := true } else none

/-- Discards the speculative accesses of a core that `p` picks (R255). -/
def State.discardSpec (s : State) (c : Nat) (p : SpecOp → Bool) : State :=
  let gone := (s.core c).spec.filter (fun o => p o && !o.dead)
  let s := s.onCore c (fun x => { x with spec := x.spec.filterMap (fun o => if p o && !o.dead then o.discard else some o) })
  gone.foldl (fun s o =>
    let s := if o.at_ = .decode then s else s.countSpec o.acc.thread 0x42 o.acc.uops
    if o.sfb && !o.put then s.countSpec o.acc.thread 0x44 1 else s) s

/-- Discards every speculative access of a thread but its `keep` oldest. -/
def State.discardAfter (s : State) (g keep : Nat) : State :=
  let old := ((s.core (g / 2)).spec.filter (fun o => o.acc.thread == g && !o.dead)).take keep
  s.discardSpec (g / 2) (fun o => o.acc.thread == g && !old.contains o)

/-- An event that is delivered discards every instruction of the thread behind its boundary (R230, R255), and with it the
poisoned lines that were delivered for them. A store that has retired stays. -/
def State.squash (s : State) (g : Nat) : State :=
  (s.discardAfter g 0).onThread g (fun t =>
    { t with loamBad := t.loamBad.filter (·.tile), prog := 0, hold := if t.stq.isSome then t.hold else .none })

/-- The accesses of a thread older than `o`. -/
def Core.olderThan (c : Core) (o : SpecOp) : Nat :=
  ((c.spec.filter (fun x => x.acc.thread == o.acc.thread && !x.dead)).takeWhile (· != o)).length

/-- A load is executed again, and with it every younger instruction of its thread (R271, R274): its SFB entry is discarded and it
misses or hits anew. -/
def State.reexecute (s : State) (o : SpecOp) : State :=
  let g := o.acc.thread
  let s := s.discardAfter g ((s.core (g / 2)).olderThan o + 1)
  let o' : SpecOp := { SpecOp.new o.acc o.dom with at_ := .bound, redone := true }
  let s := match o.discard with
    | some d => s.onCore (g / 2) (fun c => { c with spec := c.spec.flatMap (fun x => if x = o then [d, o'] else [x]) })
    | none => s.onCore (g / 2) (fun c => c.setSpec o o')
  s.specRetry o'

/-- A store of `n` bytes at `va` retires: a younger load of its thread that has executed and overlaps it is executed again
(R274, R288). -/
def State.storeOverlap (s : State) (g va n : Nat) : State :=
  let covers (o : SpecOp) : Bool :=
    o.acc.thread == g && !o.acc.fetch && !o.dead && (o.at_ == .ready || o.at_ == .sent || o.at_ == .zero) &&
      decide (o.acc.va < va + n) && decide (va < o.acc.va + o.acc.size)
  match (s.core (g / 2)).spec.find? covers with
  | some o => s.reexecute o
  | none => s

/-- An invalidation that reaches a core discards every walk result it covers that has not retired: its access is walked again
(R272, R287). -/
def State.dropWalks (s : State) (c : Nat) (covers : TlbEntry → Bool) : State :=
  ((s.core c).spec.filter (fun o => !o.dead && o.walk.any covers)).foldl (fun s o =>
    let o' : SpecOp := { SpecOp.new o.acc o.dom with at_ := .bound, redone := o.redone }
    let s := match o.discard with
      | some d => s.onCore c (fun x => { x with spec := x.spec.flatMap (fun y => if y = o then [d, o'] else [y]) })
      | none => s.onCore c (fun x => x.setSpec o o')
    s.specRetry o') s

/-- SPECGUARD of a domain has become 0: the misses it held go out as non-allocating reads (R282). -/
def State.releaseGuard (s : State) (d : Nat) : State :=
  (s.cores.flatMap (fun c => (c.2.spec.filter (fun o => o.at_ == .guard && o.dom == d && !o.dead)))).foldl (fun s o =>
    ({ state := s, op := { o with at_ := .sent }, send := true, alloc := false } : SpecStep).finish (fun c o' => c.setSpec o o')) s

/-! ### Data and install (R266, R268, R271) -/

/-- The data of a non-allocating read reach a core: they go to the access that asked first (R279), and to no cache but for a
fetch, whose line fills L1I and L2 (R266).
DESIGN CHOICE (log 61). -/
def State.specData (s : State) (c line : Nat) (bs : List Byte) : State :=
  match (s.core c).spec.find? (fun o => o.at_ == .sent && o.line == line) with
  | none => s
  | some o =>
    if o.dead then s.onCore c (fun x => { x with spec := dropFirst (· == o) x.spec })
    else if o.acc.fetch then
      let s := s.onCore c (fun x => { x with spec := dropFirst (· == o) x.spec })
      match s.install2 c (line, dramTag) .shared with
      | some s => s.onCore c (fun x => { x with l1i := l1Put x.l1i (line, dramTag) })
      | none => s
    else s.onCore c (fun x => x.setSpec o { o with at_ := .ready, miss := false, data := bs })

/-- The bytes of a line that a load reads, of those an SFB entry holds. -/
def SpecOp.part (o : SpecOp) (bs : List Byte) : List Byte := (bs.drop (o.acc.va % 64)).take o.acc.size

/-- Do the bytes that a load took differ from those of its line now? -/
def State.specChanged (s : State) (o : SpecOp) : Bool := o.part o.data != o.part (s.lineBytes o.line)

/-- The install of the line of a load that has become non-speculative (R271, R278): from L2 it is copied, and re-executed when L2
has lost it; from beyond it is requested again as an allocating read, and re-executed when the load's bytes differ. The
install waits while the line cannot be had. -/
def State.specInstall (s : State) (o : SpecOp) : State :=
  let c := o.acc.thread / 2
  let done (s : State) : State := s.onCore c (fun x => x.setSpec o { o with sfb := false, put := true })
  if o.fromL2 then
    match (s.core c).l2use.find? (fun e => e.1 == o.line) with
    | some k => done (s.onCore c (fun x => { x with l1d := l1Put x.l1d k }))
    | none => s.reexecute o
  else match s.obtain c o.dom .load o.line with
    | none => s
    | some s' => if o.part o.data = o.part (s'.lineBytes o.line) then done s' else s'.reexecute o

/-- What stands before the retirement of a load whose access ran ahead: nothing, with the access then gone; or its install. -/
inductive SpecEnd where
  | wait
  | go (s : State) (evs : List Nat)
  deriving DecidableEq, Repr

/-- The oldest access in flight of thread `g`, when it is the load of `n` bytes at `va` which now retires (R271): it waits for its
data and its install. One that holds, or that waits to become non-speculative, goes out as an ordinary access (R270, R281).
The events are those its data came with (Table 6-7). -/
def State.retireSpec (s : State) (g va n : Nat) : SpecEnd :=
  match (s.core (g / 2)).spec.find? (fun o => o.acc.thread == g && !o.dead) with
  | some o =>
    if o.acc.fetch || o.acc.va != va || o.acc.size != n then .go s []
    else
      let gone := s.onCore (g / 2) (fun c => { c with spec := dropFirst (· == o) c.spec })
      let evs := (if o.redone then [0x08] else []) ++
        (if o.data.isEmpty then [] else [0x06] ++ (if o.fromL2 then [] else [0x07]))
      match o.at_ with
      | .sent => .wait
      | .ready => if o.put then .go gone evs else .wait
      | _ => .go gone (if o.redone then [0x08] else [])
  | none => .go s []

/-! ### Cycles (R277) -/

/-- The SPEC_ events of a thread that count cycles, `n` of them in this tick of SCLK: active, held at a bound of the core, at a
shared bound, by SPECGUARD, or at the Tile Queue.
DESIGN CHOICE (log 25). -/
def State.cycleEvents (s : State) (g : Nat) : List Nat :=
  let ops := (s.core (g / 2)).spec.filter (fun o => o.acc.thread == g && !o.dead)
  let h := (s.thread g).hold
  (if s.active g then [0x40] else []) ++
  (if h = .coreBound ∨ ops.any (fun o => o.at_ == .decode || o.at_ == .bound) then [0x45] else []) ++
  (if h = .bound then [0x46] else []) ++ (if ops.any (fun o => o.at_ == .guard) then [0x47] else []) ++
  (if h = .tileQueue then [0x48] else [])

/-- Does a thread count any SPEC_ event of cycles? -/
def Thread.countsCycles (t : Thread) : Bool :=
  bitOf (t.sysNat Sys.pmctl) 0 && (List.range 8).any (fun n =>
    bitOf (t.sysNat (Sys.pmsel n)) 12 && decide (bitsOf (t.sysNat (Sys.pmsel n)) 7 0 ∈ [0x40, 0x45, 0x46, 0x47, 0x48]))

/-- One tick of SCLK with no command waiting (R703): the time base counts while VAUX is up, and the threads count their cycles, a
free number of them.
DESIGN CHOICE (log 1, 25). -/
def State.tick (s : State) : State :=
  if s.pins.vaux then
    let on := s.threads.filter (fun p => p.2.countsCycles)
    let n := Config.cyclesOf s.free
    let s := { s with timeBase := s.timeBase + 1, free := if on.isEmpty then s.free else s.free + 1 }
    on.foldl (fun s p => (s.cycleEvents p.1).foldl (fun s e => s.countSpec p.1 e n) s) s
  else s

end Sys2Proof.Machine
end

