-- ==== Sys2Proof/Machine/Engine.lean ====
section
/-!
DEFINITION. The Tile Staging Buffer and the Stream engine block of a core (R417 to R427, Tables 10-4 to 10-6): its registers, the
launch and the end of a descriptor, and the stores that hold while a descriptor is busy.
-/

namespace Sys2Proof.Machine

/-! ### The Tile Staging Buffer -/

/-- The TSB window of a thread: its first offset and the first past it (R417). -/
def Thread.tsbWindow (t : Thread) : Nat × Nat :=
  (bitsOf (t.sysNat Sys.tsbbase) 18 12 * 4096, bitsOf (t.sysNat Sys.tsblim) 19 12 * 4096)

/-- The first byte offset of a row outside the thread's TSB window, if any. -/
def Thread.tsbOutside (t : Thread) (off n : Nat) : Option Nat :=
  let (lo, hi) := t.tsbWindow
  if hi ≤ lo ∨ off < lo ∨ hi ≤ off then some off else if hi < off + n then some hi else none

/-- The first poisoned line of `n` bytes of a TSB (R427): its offset. -/
def Core.tsbPoison (c : Core) (off n : Nat) : Option Nat :=
  ((List.range ((n + 63) / 64)).find? (fun i => c.poison.contains (off / 64 + i))).map (fun i => off + 64 * i)

/-- Writes bytes of a TSB; a line written whole is no longer poisoned. -/
def Core.tsbWrite (c : Core) (off : Nat) (bs : List Byte) : Core :=
  { c with tsb := Mem.splice c.tsb off bs,
           poison := c.poison.filter (fun l => !(decide (off ≤ 64 * l) && decide (64 * l + 64 ≤ off + bs.length))) }

/-! ### Descriptors -/

/-- Descriptor `n` of a core. -/
def Core.desc (c : Core) (n : Nat) : Desc := FMap.get c.descs n Desc.reset

/-- Replaces descriptor `n`. -/
def Core.setDesc (c : Core) (n : Nat) (d : Desc) : Core := { c with descs := FMap.put c.descs n d }

/-- Is descriptor `n` busy? -/
def Core.descBusy (c : Core) (n : Nat) : Bool := (c.desc n).state == 1

/-- SHAPE fields (Table 10-5). -/
def Desc.rowLen (d : Desc) : Nat := bitsOf d.shape.toNat 13 0 * 64
def Desc.nRows (d : Desc) : Nat := bitsOf d.shape.toNat 29 16

/-- Adds 1 to SCNTm, and sets ERR when asked. -/
def Core.count (c : Core) (m : Nat) (err : Bool) : Core :=
  let v := (FMap.get c.scnt m 0).toNat
  let n := (v % 2 ^ 32 + 1) % 2 ^ 32 + (if bitOf v 32 || err then 2 ^ 32 else 0)
  { c with scnt := FMap.set c.scnt m (BitVec.ofNat 64 n) 0 }

/-- Sets SCNTm.ERR. -/
def Core.countErr (c : Core) (m : Nat) : Core :=
  { c with scnt := FMap.set c.scnt m (FMap.get c.scnt m 0 ||| 0x100000000) 0 }

/-- A descriptor ends in error, its requests in flight completed (R426). -/
def Core.descFail (c : Core) (n code : Nat) (faddr : Option Word) : Core :=
  let d := c.desc n
  (c.setDesc n { d with state := 3, code := code, faddr := faddr.getD d.faddr, ending := none }).count d.cnt true

/-- A descriptor fails or is aborted: it ends once its requests in flight have completed, and issues no more (R426).
DEDUCED (log 33). -/
def Core.descEnds (c : Core) (n code : Nat) (faddr : Option Word) : Core :=
  let d := c.desc n
  if d.ending.isSome then c
  else if d.flight.isEmpty then c.descFail n code faddr else c.setDesc n { d with ending := some (code, faddr) }

/-- ROWSDONE: the rows issued whole, but for those with a request in flight (Table 10-5). -/
def Desc.counted (d : Desc) : Desc :=
  let open_ := ((d.flight.map (·.row)).filter (fun r => decide (r < d.row))).eraseDups
  { d with rowsDone := d.row - open_.length }

/-- A codeword of the request for the bytes at `at_` of a row has been written to the TSB (R425). -/
def Core.landed (c : Core) (n row at_ : Nat) : Core :=
  let d := c.desc n
  let less (r : StreamReq) : Option StreamReq :=
    if r.row = row ∧ r.at_ = at_ then (if r.left ≤ 1 then none else some { r with left := r.left - 1 }) else some r
  let d := ({ d with flight := d.flight.filterMap less }).counted
  let c := c.setDesc n d
  match d.ending with
  | some (code, fa) => if d.flight.isEmpty then c.descFail n code fa else c
  | none => c

/-- The launch of descriptor `n` of core `c` by thread `g` (R423). -/
def State.launch (s : State) (g c n : Nat) : State :=
  let t := s.thread g
  let d := { (s.core c).desc n with state := 1, rowsDone := 0, code := 0, ring := t.ring, thr := g, row := 0, off := 0,
                                     flight := [], ending := none }
  let core := (s.core c).setDesc n d
  let len := bitsOf d.shape.toNat 13 0
  let (lo, hi) := t.tsbWindow
  let dst := d.dst.toNat
  let bad :=
    if g / 2 ≠ c then some 0x09
    else if len = 0 ∨ 8192 < len ∨ d.nRows = 0 ∨ 8192 < d.nRows then some 0x06
    else if dst < lo ∨ hi < dst + (d.nRows - 1) * d.dstr.toNat + d.rowLen then some 0x05
    else none
  s.setCore c (match bad with | some code => core.descFail n code none | none => core)

/-! ### Registers (Table 10-4) -/

/-- SESTAT. -/
def Core.sestat (c : Core) : Nat :=
  ((List.range 16).map (fun n =>
    natOf ((c.desc n).state == 1) * 2 ^ n + natOf ((c.desc n).state == 3) * 2 ^ (16 + n))).sum

/-- SWSTAT. OWNER names no thread in Shared mode and reads as the last owner.
DESIGN CHOICE (log 6, 30). -/
def Core.swstat (c : Core) : Nat := c.mode + c.owner * 4 + natOf c.modeDrain.isSome * 8

/-- DnSTAT. -/
def Desc.stat (d : Desc) : Nat :=
  d.state + d.code * 2 ^ 8 + d.rowsDone * 2 ^ 16 + d.ring * 2 ^ 30 + d.thr % 2 * 2 ^ 32

/-- The TSB offset of an aperture offset (R420). -/
def Core.aperture (c : Core) (off : Nat) : Nat := c.apbase * 0x8000 + (off - 0x8000)

/-- What a load of a register reads; none for a poisoned line of the aperture (R427). -/
def Core.streamRead (c : Core) (off : Nat) : Option Nat :=
  if 0x8000 ≤ off then
    if c.poison.contains (c.aperture off / 64) then none else some (leNat (Mem.block c.tsb (c.aperture off) 8))
  else if 0x800 ≤ off then some (if off < 0x880 then (FMap.get c.scnt ((off - 0x800) / 8) 0).toNat else 0)
  else if 0x100 ≤ off then
    if 0x500 ≤ off then some 0
    else
      let d := c.desc ((off - 0x100) / 0x40)
      some (match off % 0x40 with
        | 0x00 => d.src.toNat
        | 0x08 => d.dst.toNat
        | 0x10 => d.shape.toNat
        | 0x18 => d.sstr.toNat
        | 0x20 => d.dstr.toNat
        | 0x28 => d.cnt * 16
        | 0x30 => d.stat
        | _ => d.faddr.toNat)
  else some (if off = 0 then c.sestat else if off = 8 then c.swstat else if off = 0x10 then c.apbase else 0)

/-- A store to DnCTL of a descriptor that is not busy: CNT, then a launch for GO without ABORT (R19, R423). -/
def State.ctlStore (s : State) (g c n v : Nat) : State :=
  let s := s.onCore c (fun x => x.setDesc n { x.desc n with cnt := bitsOf v 7 4 })
  if bitOf v 0 && !bitOf v 1 then s.launch g c n else s

/-- A descriptor's requests that hold at a Loam stack are withdrawn (R434). -/
def State.withdraw (s : State) (c n : Nat) : State :=
  let mine (r : LoamReq) : Bool := match r.dest with | .stream k m _ _ _ => k == c && m == n | _ => false
  let gone : List LoamReq := s.loam.stackMap.flatMap (fun x => x.2.waiting.filter mine)
  let s := { s with loam := { s.loam with stackMap := s.loam.stackMap.map (fun (x : Nat × Stack) =>
    (x.1, { x.2 with waiting := x.2.waiting.filter (fun r => !mine r) })) } }
  let held (r : StreamReq) : Bool := gone.any (fun q => match q.dest with | .stream _ _ row at_ _ => row == r.row && at_ == r.at_ | _ => false)
  s.onCore c (fun x => x.setDesc n { x.desc n with flight := (x.desc n).flight.filter (fun r => !held r) })

/-- An ABORT of a busy descriptor (R422, R426, R434): CNT is written with it.
DESIGN CHOICE (log 33). -/
def State.abortStore (s : State) (c n v : Nat) : State :=
  (s.withdraw c n).onCore c (fun x => (x.setDesc n { x.desc n with cnt := bitsOf v 7 4 }).descEnds n 0x07 none)

/-- A store to a register other than DnCTL of a descriptor that is not busy.
DESIGN CHOICE (log 33). -/
def Desc.write (d : Desc) (r : Nat) (v : Nat) : Desc :=
  match r with
  | 0x00 => { d with src := BitVec.ofNat 64 (bitsOf v 47 6 * 64) }
  | 0x08 => { d with dst := BitVec.ofNat 64 (bitsOf v 18 6 * 64) }
  | 0x10 => { d with shape := BitVec.ofNat 64 (bitsOf v 13 0 + bitsOf v 29 16 * 2 ^ 16) }
  | 0x18 => if v % 64 = 0 then { d with sstr := BitVec.ofNat 64 v } else d
  | 0x20 => { d with dstr := BitVec.ofNat 64 (bitsOf v 18 6 * 64) }
  | _ => d

/-- A store to a register of the block; none when it holds at a busy descriptor (R422).
DESIGN CHOICE (log 33). -/
def State.streamWrite (s : State) (g c off v : Nat) : Option State :=
  if 0x8000 ≤ off then some (s.onCore c (fun x => x.tsbWrite (x.aperture off) (leBytes 8 v)))
  else if 0x800 ≤ off then
    some (if off < 0x880 then
        s.onCore c (fun x =>
          let m := (off - 0x800) / 8
          let err := bitOf (FMap.get x.scnt m 0).toNat 32 && !bitOf v 32
          { x with scnt := FMap.set x.scnt m (BitVec.ofNat 64 (v % 2 ^ 32 + natOf err * 2 ^ 32)) 0 })
      else s)
  else if 0x100 ≤ off ∧ off < 0x500 then
    let n := (off - 0x100) / 0x40
    let r := off % 0x40
    if (s.core c).descBusy n then
      if r = 0x28 ∧ bitOf v 1 ∧ !bitOf v 0 then some (s.abortStore c n v) else none
    else if r = 0x28 then some (s.ctlStore g c n v)
    else some (s.onCore c (fun x => x.setDesc n ((x.desc n).write r v)))
  else if off = 0x10 then some (s.onCore c (fun x => { x with apbase := v % 16 }))
  else some s

end Sys2Proof.Machine
end

