-- ==== Sys2Proof/Machine/Respond.lean ====
section
/-!
DEFINITION. What the SMC sends: fabric packets of this node (R667) and the responses of Synry commands (R716 to R722).
-/

namespace Sys2Proof.Machine

/-! ### Routes (R660, R661) -/

/-- The port that stands for this node itself. -/
def localPort : Nat := 8

/-- Is a link port able to carry packets? -/
def State.livePort (s : State) (p : Nat) : Bool :=
  let x := s.fport p
  x.up && !x.fenced && (x.mode == 1 || x.mode == 3)

/-- The port a node entry sends by: LOCAL, PRI while its link is up, otherwise ALT (R661). -/
def State.entryPort (s : State) (e : Nat) : Option Nat :=
  if bitOf e 8 then some localPort
  else if bitOf e 3 && s.livePort (bitsOf e 2 0) then some (bitsOf e 2 0)
  else if bitOf e 7 && s.livePort (bitsOf e 6 4) then some (bitsOf e 6 4)
  else none

/-- The port a packet leaves by under the bank of its epoch, none when its entry has no live port. -/
def State.routePort (s : State) (dst : Nat) (epoch : Bool) : Option Nat :=
  let bank := if epoch then s.fabric.bank1 else s.fabric.bank0
  let gws := if epoch then s.fabric.gw1 else s.fabric.gw0
  if dst = s.fabric.node then some localPort
  else if dst / 8192 = s.fabric.node / 8192 then s.entryPort (FMap.get bank (dst % 8192) 0).toNat
  else
    let g := (FMap.get gws (dst / 8192 % 8) 0).toNat
    if bitOf g 3 then (if s.livePort (bitsOf g 2 0) then some (bitsOf g 2 0) else none)
    else if bitOf g 17 then s.entryPort (FMap.get bank (bitsOf g 16 4) 0).toNat
    else none

/-- Sends a packet on: out of its port, held when it has none (R661, R696). A packet that leaves by a gateway port has
crossed a gateway link. -/
def State.forward (s : State) (p : Packet) : State :=
  let f := s.fabric
  match s.routePort p.dst p.epoch with
  | some o =>
    let p : Packet := { p with crossed := p.crossed || (s.fport o).mode == 3 }
    { s with fabric := { f with out := f.out ++ [(o, p)] } }
  | none => { s with fabric := { f with held := f.held ++ [p] } }

/-- Tries again every packet that holds for a live port. -/
def State.reroute (s : State) : State :=
  s.fabric.held.foldl State.forward { s with fabric := { s.fabric with held := [] } }

/-- Injects a packet: the inject epoch, and the next sequence number of its destination and VC (R667). -/
def State.sendPacket (s : State) (dst vc dom : Nat) (body : PacketBody) : State :=
  let f := s.fabric
  let q := FMap.get f.seqOut (dst * 4 + vc) 0
  let p : Packet :=
    { src := f.node, dst := dst, vc := vc, epoch := f.epoch, seq := q, crossed := false, srcDom := dom, body := body }
  { s with fabric := { f with seqOut := FMap.put f.seqOut (dst * 4 + vc) (q + 1) } }.forward p

/-- Sends VC3 control traffic on every live Meadow link (R654, R657).
DESIGN CHOICE (log 50). -/
def State.flood (s : State) (kind : Nat) (data : List Nat) : State :=
  (List.range 8).foldl (fun s o =>
    if (s.fport o).up && (s.fport o).mode == 1 && (!(s.fport o).fenced || kind == 0) then
      { s with fabric := { s.fabric with out := s.fabric.out ++
        [(o, { src := s.fabric.node, dst := 0xFFFF, vc := 3, epoch := false, seq := 0, crossed := false, srcDom := 0,
               body := .control kind data })] } }
    else s) s

/-! ### Responses -/

/-- A response frame without its CRC (Table 17-6). -/
def responseFrame (tag : Byte) (status code : Nat) (results : List Byte) : List Byte :=
  [tag, BitVec.ofNat 8 status] ++ leBytes 2 code ++ leBytes 2 results.length ++ leBytes 2 0 ++ results

/-- A frame with the CRC-32C that ends it on the management port and on VC3. -/
def sealFrame (f : List Byte) : List Byte := f ++ leBytes 4 (crc32c f)

/-- The key of a mailbox slot. -/
def slotKey (domain cls slot : Nat) : Nat := (domain * 4 + cls) * 4 + slot

/-- Mailbox slot `k`. -/
def State.slot (s : State) (k : Nat) : MbSlot := FMap.get s.smc.slots k MbSlot.reset

/-- Changes mailbox slot `k`. -/
def State.onSlot (s : State) (k : Nat) (f : MbSlot → MbSlot) : State :=
  { s with smc := { s.smc with slots := FMap.put s.smc.slots k (f (s.slot k)) } }

/-- Ends a mailbox slot's command: RSP, done, and source 0x001 with IEN (R721). -/
def State.slotDone (s : State) (d k : Nat) (r : Reply) (status : Nat) (results : List Byte) : State :=
  let ien := (s.slot k).ien
  let s := s.onSlot k (fun m =>
    { m with rsp := Mem.cells 0 (responseFrame r.tag status r.code results), state := 2, tag := r.tag, status := status })
  if ien then s.raise d 0x001 else s

/-- Answers a Synry command: the final response when `pend` is false, PENDING or TAGINUSE before it otherwise. -/
def State.answerAs (s : State) (r : Reply) (pend : Bool) (status : Nat) (results : List Byte) : State :=
  let resp : Resp := { pend := pend, code := r.code, status := status, results := results }
  match r.iface with
  | .mgmt => { s with smc := { s.smc with mgmt := FMap.put s.smc.mgmt r.tag.toNat resp } }
  | .vc3 node =>
    let m := FMap.put (FMap.get s.smc.vc3 node []) r.tag.toNat resp
    ({ s with smc := { s.smc with vc3 := FMap.put s.smc.vc3 node m } }).sendPacket node 3 0
      (.synry (sealFrame (responseFrame r.tag status r.code results)))
  | .mailbox d cls slot _ => if pend then s else s.slotDone d (slotKey d cls slot) r status results

/-- The final response of a command. -/
def State.answer (s : State) (r : Reply) (status : Nat) (results : List Byte) : State := s.answerAs r false status results

end Sys2Proof.Machine
end

