-- ==== Sys2Proof/Machine/Sheaf.lean ====
section
/-!
DEFINITION. The Sheaf image (R745 to R748): its header and sections, its validity, and the fields of the sections the
part runs by. Where the manual gives a section's fields without widths, the widths are those of the assumption log.
-/

namespace Sys2Proof.Machine

/-! ### Images -/

/-- A section table entry. -/
structure Sect where
  type    : Nat
  version : Nat
  off     : Nat
  len     : Nat
  crc     : Nat
  deriving DecidableEq, Repr

/-- Entry `i` of the section table. -/
def sectAt (img : List Byte) (i : Nat) : Sect :=
  let b := (img.drop (64 + 16 * i)).take 16
  { type := leAt b 0 2, version := leAt b 2 2, off := leAt b 4 4, len := leAt b 8 4, crc := leAt b 12 4 }

/-- The section table. -/
def sectTable (img : List Byte) : List Sect := (List.range (leAt img 12 4)).map (sectAt img)

/-- The body of a section. -/
def Sect.body (t : Sect) (img : List Byte) : List Byte := (img.drop t.off).take t.len

/-- Do two byte ranges share a byte? -/
def rangesMeet (a la b lb : Nat) : Bool := decide (a < b + lb) && decide (b < a + la) && decide (0 < la) && decide (0 < lb)

/-- No section overlaps another. -/
def sectsApart (l : List Sect) : Bool :=
  match l with
  | [] => true
  | t :: r => r.all (fun u => !rangesMeet t.off t.len u.off u.len && t.type != u.type) && sectsApart r

/-- Steps 4 to 6 of R746 on one section. -/
def Sect.ok (t : Sect) (img : List Byte) (len nsect : Nat) : Bool :=
  decide (t.off + t.len ≤ len) && t.off % 8 == 0 && decide (64 + 16 * nsect ≤ t.off) &&
    crc32c (t.body img) == t.crc && (decide (0x8000 ≤ t.type) || (decide (1 ≤ t.type) && decide (t.type ≤ 0x000B) && t.version == 1))

/-- Steps 1 to 6 of R746. -/
def imageChecks (img : List Byte) : Bool :=
  let nsect := leAt img 12 4
  let len := leAt img 8 4
  let trailer := if bitOf (leAt img 6 2) 0 then 196 else 0
  leAt img 0 4 == 0x46454853 && leAt img 4 2 == 1 && decide (1 ≤ nsect) && decide (nsect ≤ 32) &&
    decide (64 + 16 * nsect ≤ len) && decide (len + trailer ≤ 1048576) && decide (len + trailer ≤ img.length) &&
    crc32c (img.take 20 ++ (img.drop 64).take (16 * nsect)) == leAt img 20 4 &&
    (sectTable img).all (fun t => t.ok img len nsect) && sectsApart (sectTable img)

/-- The signature rule of R747.
PRESUMED (log 62). -/
def signatureOk (img : List Byte) (src : FlashSource) : Bool :=
  if !Config.keyHashSet then true
  else if bitOf (leAt img 6 2) 0 then src.keyMatches && src.sigVerifies
  else !Config.sigReq

/-- The sections of an image below 0x8000, by TYPE. -/
def sectMap (img : List Byte) : FMap (List Byte) :=
  ((sectTable img).filter (fun t => decide (t.type < 0x8000))).foldl (fun m t => FMap.put m t.type (t.body img)) []

/-- A Sheaf-format image of a set of sections: header, table, bodies padded to multiples of 8. -/
def buildImage (gen : Nat) (sects : FMap (List Byte)) : List Byte :=
  let n := sects.length
  let start := 64 + 16 * n
  let pad (b : List Byte) : List Byte := b ++ List.replicate ((8 - b.length % 8) % 8) 0
  let (entries, bodies) := sects.foldl (fun (a : List Byte × List Byte) p =>
    (a.1 ++ leBytes 2 p.1 ++ leBytes 2 1 ++ leBytes 4 (start + a.2.length) ++ leBytes 4 p.2.length ++ leBytes 4 (crc32c p.2),
      a.2 ++ pad p.2)) ([], [])
  let head := leBytes 4 0x46454853 ++ leBytes 2 1 ++ leBytes 2 0 ++ leBytes 4 (start + bodies.length) ++ leBytes 4 n ++ leBytes 4 gen
  padTo 64 (head ++ leBytes 4 (crc32c (head ++ entries))) ++ entries ++ bodies

/-! ### The merged configuration -/

/-- Section TYPEs of Table 18-6. -/
def Ty.clocks : Nat := 1
def Ty.power : Nat := 2
def Ty.ddr : Nat := 3
def Ty.pcie : Nat := 4
def Ty.fabric : Nat := 5
def Ty.tussock : Nat := 6
def Ty.domains : Nat := 7
def Ty.loam : Nat := 8
def Ty.seedbank : Nat := 9
def Ty.grants : Nat := 10
def Ty.strapovr : Nat := 11

/-- A section of the merged configuration. -/
def State.sect (s : State) (t : Nat) : Option (List Byte) := FMap.find s.smc.config t

/-- Is the fabric enabled? -/
def State.fabricOn (s : State) : Bool := match s.sect Ty.fabric with | some b => leAt b 0 1 != 0 | none => false

/-- The FABRIC section, or nothing. -/
def State.fabricSect (s : State) : List Byte := (s.sect Ty.fabric).getD []

/-- The Meadow index. -/
def State.meadow (s : State) : Nat := leAt s.fabricSect 1 1 % 8

/-- The fabric timeout in ms (R685). -/
def State.fabricTimeout (s : State) : Nat :=
  match s.sect Ty.fabric with
  | some b => let t := leAt b 15 2; if t = 0 then 100 else t
  | none => 100

/-- Is a node one of the managers?
DEDUCED (log 37). -/
def State.isManager (s : State) (node : Nat) : Bool :=
  match s.sect Ty.fabric with
  | some b => node != 0xFFFF && (List.range 16).any (fun i => leAt b (17 + 2 * i) 2 == node)
  | none => false

/-- Member mask and DRAM bases (GiB) of the TUSSOCK section. -/
def State.tussockMask (s : State) : Nat := match s.sect Ty.tussock with | some b => leAt b 0 1 | none => 0
/-- DESIGN CHOICE (log 51). -/
def State.tussockBase (s : State) (t : Nat) : Nat := match s.sect Ty.tussock with | some b => leAt b (1 + 2 * t) 2 | none => 0

/-- The regulator address and page of a tile (POWER section).
DESIGN CHOICE (log 51). -/
def State.tileRail (s : State) (t : Nat) : Nat × Nat :=
  match s.sect Ty.power with
  | some b => (leAt b (4 + 2 * t) 1 % 128, leAt b (5 + 2 * t) 1)
  | none => (0, 0)

/-- The tiles fed by a regulator address and page. -/
def State.railTiles (s : State) (addr page : Nat) : List Nat := (List.range 64).filter (fun t => s.tileRail t == (addr, page))

/-- May a tile run at /3 (CLOCKS section)? -/
def State.tileFast (s : State) (t : Nat) : Bool := match s.sect Ty.clocks with | some b => bitOf (leAt b t 1) 2 | none => false

end Sys2Proof.Machine
end

