-- ==== Sys2Proof/Machine/LoamOps.lean ====
section
/-!
DEFINITION. The Loam stacks as stores (chapters 12 and 13): pins and attachments, blocks, the journal, page programs,
relocation, retirement, and the end of an update session without commit (R200).
-/

namespace Sys2Proof.Machine

/-! ### Attachments (R186, R187, R530) -/

/-- Changes the attachments of revision `r` of volume `v`. -/
def State.onPins (s : State) (v r : Nat) (f : Nat → Nat) : State :=
  s.onVolume v (fun x => { x with revs := x.revs.map (fun y => if y.number == r then { y with pins := f y.pins } else y) })

/-- One attachment more. -/
def State.pin (s : State) (v r : Nat) : State := s.onPins v r (· + 1)

/-- Is a cached Loam line with revision tag `tag` one of revision `r` of the volume (R465)? -/
def Volume.ownsLine (x : Volume) (r : Nat) (l : Nat × Nat) : Bool :=
  let off := l.1 * 64 - 0x100000000000
  decide (0x100000000000 ≤ l.1 * 64) && decide (x.vbase ≤ off) && decide (off < x.vbase + x.vlen) && l.2 == r % 65536

/-- The flush of every line tagged with a revision, from every core and slice (R467). -/
def State.flushRevision (s : State) (v r : Nat) : State :=
  let x := s.volume v
  { s with
    l3 := s.l3.filter (fun e => !x.ownsLine r (e.line, e.tag))
    cores := s.cores.map (fun p => (p.1, p.2.dropLoam (x.ownsLine r))) }

/-- One attachment less; with the last one the revision's lines are flushed (R467). The freeing of its blocks is a
command of its own (R530). -/
def State.unpin (s : State) (v r : Nat) : State :=
  let s' := s.onPins v r (· - 1)
  if ((s'.volume v).rev r).any (fun y => y.pins == 0) then s'.flushRevision v r else s'

/-! ### Blocks (R485, R486, R519 to R521) -/

/-- The block slot of a page address: bits [25:11] (R486). -/
def slotOf (page : Nat) : Nat := page / 2048

/-- The plane of a slot: page address bits [25:19]. -/
def planeOf (slot : Nat) : Nat := slot / 256

/-- The stack of unit `u` of an extent (R44): extents start at multiples of 2 MiB. -/
def stackOfUnit (u : Nat) : Nat := u % 8

/-- Slots and spare blocks of a plane: 22,860 slots and 1,460 spares over 128 planes of 190 blocks (R519).
DESIGN CHOICE (log 41). -/
def planeSlots (p : Nat) : Nat := if p < 76 then 179 else 178
def planeSpares (p : Nat) : Nat := 190 - planeSlots p

/-- Is a slot one of the 64 metadata slots (R519): block 0 of planes 0 to 63?
DESIGN CHOICE (log 41). -/
def metaSlot (slot : Nat) : Bool := slot % 256 == 0 && decide (slot / 256 < 64)

/-- Slot `k` of a stack. -/
def Stack.block (x : Stack) (k : Nat) : Block := FMap.get x.blocks k Block.reset

/-- Changes slot `k`. -/
def Stack.onBlock (x : Stack) (k : Nat) (f : Block → Block) : Stack := { x with blocks := FMap.put x.blocks k (f (x.block k)) }

/-- The physical block of a slot, within its plane (R521). -/
def Stack.physical (x : Stack) (k : Nat) : Nat := FMap.get x.table k (k % 256)

/-- The free slots of plane `p`, metadata slots or the others. -/
def Stack.freeSlots (x : Stack) (p : Nat) (isMeta : Bool) : List Nat :=
  (upFrom (256 * p) (planeSlots p)).filter (fun k => metaSlot k == isMeta && (x.block k).st == .free)

/-- The slot with the fewest cycles, the lowest number among equals (R540). -/
def Stack.leastWorn (x : Stack) (l : List Nat) : Option Nat :=
  l.foldl (fun best k => match best with
    | none => some k
    | some b => if (x.block k).cycles < (x.block b).cycles then some k else best) none

/-- The slot of plane `p` that takes the next page, and the stack with it open for writing. -/
def Stack.writeSlot (x : Stack) (p : Nat) (isMeta : Bool) : Option (Nat × Stack) :=
  let key := 2 * p + natOf isMeta
  match (FMap.find x.writing key).filter (fun k => (x.block k).st == .inUse && decide ((x.block k).used < 1536)) with
  | some k => some (k, x)
  | none =>
    (x.leastWorn (x.freeSlots p isMeta)).map (fun k =>
      (k, { x.onBlock k (fun b => { b with st := .inUse, used := 0, live := 0 }) with writing := FMap.put x.writing key k }))

/-- Takes a page of plane `p`: its address, and the stack with it live. -/
def Stack.takePage (x : Stack) (p : Nat) (isMeta : Bool) : Option (Nat × Stack) :=
  (x.writeSlot p isMeta).map (fun r =>
    (r.1 * 2048 + (r.2.block r.1).used,
      { r.2.onBlock r.1 (fun b => { b with used := b.used + 1, live := b.live + 1 }) with plane := (p + 1) % 128 }))

/-- Takes a page of the next plane that has one. -/
def Stack.alloc (x : Stack) (isMeta : Bool) : Option (Nat × Stack) :=
  (List.range 128).findSome? (fun i => x.takePage ((x.plane + i) % 128) isMeta)

/-- Takes a map page: from the metadata slots, or from the others when they have none. -/
def Stack.allocMap (x : Stack) : Option (Nat × Stack) :=
  match x.alloc true with | some r => some r | none => x.alloc false

/-- A page of a stack stops being live. -/
def State.pageDead (s : State) (stack page : Nat) : State :=
  s.onStack stack (fun x => x.onBlock (slotOf page) (fun b => { b with live := b.live - 1 }))

/-- Pages in use of a stack, metadata slots left out. -/
def Stack.pagesUsed (x : Stack) : Nat := ((x.blocks.filter (fun p => !metaSlot p.1)).map (fun p => p.2.used)).sum

/-- The pages that current revisions use on a stack. -/
def State.currentPages (s : State) (n : Nat) : Nat :=
  (s.loam.volumes.map (fun v => match v.2.current.bind v.2.rev with
    | some r => (r.units.filter (fun p => stackOfUnit p.1 == n)).length
    | none => 0)).sum

/-- The headroom pages of a stack (R520). -/
def State.headroom (s : State) (n : Nat) : Nat := (s.stack n).pagesUsed - s.currentPages n

/-- Staging headroom in pages (Table 13-1). -/
def headroomMax : Nat := 1459200

/-! ### The journal (R534) -/

/-- Journal operations of Table 13-7. -/
def Jop.erase : Nat := 1
def Jop.program : Nat := 2
def Jop.relocate : Nat := 3
def Jop.commit : Nat := 4
def Jop.retire : Nat := 5
def Jop.compact : Nat := 6

/-- Word 0 of a record. -/
def journalWord (op state attempt page : Nat) : Nat := op + state * 2 ^ 4 + attempt * 2 ^ 8 + page * 2 ^ 16

/-- Word 0 of record `i` of the ring of stack `n`. -/
def State.journalAt (s : State) (n i : Nat) : Nat := leNat (Mem.block s.seed.ferric (0x1000 * n + 16 * i) 8)

/-- Writes record `i` of the ring of stack `n`: one Ferric unit. -/
def State.journalPut (s : State) (n i w0 w1 : Nat) : State :=
  { s with seed := { s.seed with ferric := Mem.splice s.seed.ferric (0x1000 * n + 16 * i) (leBytes 8 w0 ++ leBytes 8 w1) } }

/-- The record of an operation on a page that is STARTED. -/
def State.journalFind (s : State) (n op page : Nat) : Option Nat :=
  (List.range 256).find? (fun i =>
    let w := s.journalAt n i
    bitsOf w 3 0 == op && bitsOf w 7 4 == 1 && bitsOf w 41 16 == page)

/-- The next record of the ring that is not STARTED. -/
def State.journalNext (s : State) (n : Nat) : Nat :=
  let at_ := (s.stack n).journal
  (((List.range 256).map (fun i => (at_ + i) % 256)).find? (fun i => bitsOf (s.journalAt n i) 7 4 != 1)).getD at_

/-- The record rewritten with STATE = DONE. -/
def State.journalEnd (s : State) (n op page : Nat) : State :=
  match s.journalFind n op page with
  | some i =>
    let w := s.journalAt n i
    s.journalPut n i (setBits w 7 4 2) (leNat (Mem.block s.seed.ferric (0x1000 * n + 16 * i + 8) 8))
  | none => s

/-- The ring settled at power-up: every operation but an erase that was STARTED is over (R535). -/
def State.journalSettle (s : State) (n : Nat) : State :=
  (List.range 256).foldl (fun s i =>
    let w := s.journalAt n i
    if bitsOf w 7 4 = 1 ∧ bitsOf w 3 0 ≠ Jop.erase then
      s.journalPut n i (setBits w 7 4 2) (leNat (Mem.block s.seed.ferric (0x1000 * n + 16 * i + 8) 8))
    else s) s

/-- The slot whose physical block is `q` in plane `p`. -/
def Stack.slotOfPhysical (x : Stack) (p q : Nat) : Option Nat :=
  (upFrom (256 * p) (planeSlots p)).find? (fun k => x.physical k == q)

/-- The payload of block-table page `i` of a stack (R565): one byte per block of the plane order. -/
def Stack.tablePage (x : Stack) (i : Nat) : List Byte :=
  (upFrom (56 * i) 56).map (fun l => BitVec.ofNat 8 (x.physical (l / 190 * 256 + l % 190)))

/-- The payload of cycle-count page `i`: two bytes per physical block. -/
def Stack.cyclePage (x : Stack) (i : Nat) : List Byte :=
  (upFrom (28 * i) 28).flatMap (fun l =>
    leBytes 2 (match x.slotOfPhysical (l / 190) (l % 190) with | some k => (x.block k).cycles | none => 0))

/-- The fold of the block table and cycle counts into LOAMTAB (R534), the pages of the changed slots, each an A/B
record. -/
def State.fold (s : State) (n : Nat) : State :=
  let x := s.stack n
  let lin (k : Nat) : Nat := k / 256 * 190 + k % 256
  let phys (k : Nat) : Nat := k / 256 * 190 + x.physical k
  let base := Part.loamtab + 0x28C00 / 64 * n
  let pages := (x.changed.map (fun k => lin k / 56)).eraseDups
  let counts := (x.changed.map (fun k => phys k / 28)).eraseDups
  let b := pages.foldl (fun b i => b.write1 s.timeBase (base + 2 * i) (x.tablePage i)) s.seed
  let b := counts.foldl (fun b i => b.write1 s.timeBase (base + 2 * (435 + i)) (x.cyclePage i)) b
  { s with seed := b.commitNow }.onStack n (fun x => { x with changed := [] })

/-- A record with STATE = STARTED before its operation begins. When the ring wraps, what its records changed folds first, so that
no unfolded record is overwritten (R604). -/
def State.journalStart (s : State) (n op attempt page arg : Nat) : State :=
  let i := s.journalNext n
  let x := s.stack n
  let s := if (i < x.journal ∨ i = 255) ∧ x.changed ≠ [] then s.fold n else s
  let q := (s.stack n).jseq
  (s.journalPut n i (journalWord op 1 attempt page) (q + arg * 2 ^ 32)).onStack n (fun x =>
    { x with journal := (i + 1) % 256, jseq := (q + 1) % 2 ^ 32 })

/-- An operation journaled whole within one step. -/
def State.journalWhole (s : State) (n op page arg : Nat) : State := (s.journalStart n op 0 page arg).journalEnd n op page

/-- Slots whose block or cycle count changed: every 256 changes fold. -/
def State.noteChange (s : State) (n : Nat) (slots : List Nat) : State :=
  let s := s.onStack n (fun x => { x with changed := x.changed ++ slots })
  if 256 ≤ (s.stack n).changed.length then s.fold n else s

/-- A block-table change of two slots, journaled as RELOCATE. -/
def State.tableChange (s : State) (n slot : Nat) (others : List Nat) : State :=
  (s.journalWhole n Jop.relocate (slot * 2048) 0).noteChange n (slot :: others)

/-! ### Page programs (R532) -/

/-- The planes a stack may program at once: PGMPLANES, halved at 95 °C, none at 105 °C (Table 17-4). -/
def State.pgmLimit (s : State) (n : Nat) : Nat :=
  let t := (s.stack n).temp
  if 105 ≤ t then 0 else if 95 ≤ t then s.loam.pgmPlanes / 2 else s.loam.pgmPlanes

/-- Is a plane erasing? -/
def Stack.erasing (x : Stack) (p : Nat) : Bool := x.blocks.any (fun b => planeOf b.1 == p && b.2.st == .erasing)

/-- The order programs are served in: COMMIT map pages, refresh and compaction, then staging (R532, R556). -/
def ProgFor.rank (w : ProgFor) : Nat := match w with | .map _ => 0 | .compact _ => 1 | .stage _ _ => 2

/-- Do two page-read entries of one domain read the same map page (R493, R495)? -/
def PageRead.sameMap (e f : PageRead) : Bool := e.stage != 0 && f.stage != 0 && e.domain == f.domain && e.page == f.page

/-- Is the page of an entry read for this entry itself? One that merged with a map page's read in flight waits for that read. -/
def Stack.leads (x : Stack) (e : PageRead) : Bool :=
  e.stage == 0 || (x.reads.find? (fun f => f.sameMap e)).all (fun f => f.entry == e.entry)

/-- Does a read of a plane wait for a sense? No program starts before it, since a read waits at most for the rest of one (R512).
-/
def Stack.senses (x : Stack) (p : Nat) : Bool := x.reads.any (fun e => planeOf (slotOf e.page) == p && !e.sensed && x.leads e)

/-- May program `g` start beside those started? -/
def Stack.mayProgram (x : Stack) (limit : Nat) (g : Prog) : Bool :=
  let on := x.programs.filter (·.started)
  !g.started && decide (on.length < limit) && !on.any (fun h => planeOf (slotOf h.page) == planeOf (slotOf g.page)) &&
    !x.erasing (planeOf (slotOf g.page)) && !x.senses (planeOf (slotOf g.page))

/-- Starts the first program of a rank that may start, `fuel` times at most, journaling each as PROGRAM. -/
def State.startRank (s : State) (n rank fuel : Nat) : State :=
  match fuel with
  | 0 => s
  | k + 1 =>
    let x := s.stack n
    match x.programs.find? (fun g => g.what.rank == rank && x.mayProgram (s.pgmLimit n) g) with
    | none => s
    | some g =>
      ((s.onStack n (fun x =>
        { x with programs := x.programs.map (fun h => if h.page == g.page then { h with started := true } else h) })).journalStart
          n Jop.program 0 g.page 0).startRank n rank k

/-- Starts every program that may start, in the order of R532. -/
def State.startPrograms (s : State) (n : Nat) : State :=
  let s := s.startRank n 0 128
  let s := s.startRank n 1 128
  s.startRank n 2 128

/-- Queues page programs of a stack and starts those that may start. -/
def State.program (s : State) (n : Nat) (pages : List Nat) (what : ProgFor) : State :=
  (s.onStack n (fun x =>
    { x with programs := x.programs ++ pages.map (fun p => { page := p, what := what, started := false }) })).startPrograms n

/-! ### Data for readers (R494, R495, R501 to R503) -/

/-- A domain's slice of a stack. -/
def Stack.slice (x : Stack) (d : Nat) : LcSlice := FMap.get x.slices d LcSlice.reset

/-- Changes a slice of stack `n`. -/
def State.onSlice (s : State) (n d : Nat) (f : LcSlice → LcSlice) : State :=
  s.onStack n (fun x => { x with slices := FMap.put x.slices d (f (x.slice d)) })

/-- The stack that serves a request (R487). -/
def loamStack (r : LoamReq) : Nat := bitsOf r.offset 16 14

/-- The codewords of its unit that a request reads: those of a Stream engine's piece, else the one of its line (R495). -/
def loamCodewords (r : LoamReq) : List Nat :=
  let lo := r.offset % 16384
  let n := match r.dest with | .stream _ _ _ _ len => len | _ => 1
  upFrom (lo / 2048) ((lo + n - 1) / 2048 + 1 - lo / 2048)

/-- The cached line a request is for, with its revision tag (R465). -/
def loamLine (r : LoamReq) : Nat × Nat := ((0x100000000000 + r.offset) / 64, r.revision % 65536)

/-- A line of Loam enters the caches of a core: its L2, its L1D for a scalar load, and L3 when the revision is the volume's
current one (R463, R466). -/
def State.loamInstall (s : State) (c d : Nat) (l1 : Bool) (v rev : Nat) (k : Nat × Nat) : State :=
  let s := if (s.volume v).current = some rev then s.l3Fill d k.1 k.2 else s
  match s.install2 c k .shared with
  | some s => if l1 then s.onCore c (fun x => { x with l1d := l1Put x.l1d k }) else s
  | none => s

/-- The bytes of codeword `cw` of a request's unit that its piece takes: the first, and how many. -/
def loamPart (r : LoamReq) (cw len : Nat) : Nat × Nat :=
  let base := r.offset / 16384 * 16384 + cw * 2048
  let lo := max base r.offset
  (lo, min (base + 2048) (r.offset + len) - lo)

/-- A correct codeword is sent to a requester (R495). -/
def State.sendGood (s : State) (r : LoamReq) (cw : Nat) : State :=
  match r.dest with
  | .scalar g => s.loamInstall (g / 2) r.domain true r.volume r.revision (loamLine r)
  | .tile g => s.loamInstall (g / 2) r.domain false r.volume r.revision (loamLine r)
  | .stream c n row at_ len =>
    let p := loamPart r cw len
    let v := s.volume r.volume
    let bs := match v.rev r.revision with
      | some x => Mem.block x.bytes (p.1 - v.vbase) p.2
      | none => List.replicate p.2 0
    s.onCore c (fun x => (x.tsbWrite (at_ + (p.1 - r.offset)) bs).landed n row at_)
  | .other _ => s

/-- An uncorrectable codeword is sent to a requester: poisoned bytes, never installed (R501). -/
def State.sendBad (s : State) (r : LoamReq) (cw sub : Nat) : State :=
  let mark (g : Nat) (tile : Bool) : State :=
    let m : LoamMark := { tile := tile, line := (loamLine r).1, tag := (loamLine r).2, sub := sub }
    s.onThread g (fun t => if t.loamBad.contains m then t else { t with loamBad := t.loamBad ++ [m] })
  match r.dest with
  | .scalar g => mark g false
  | .tile g => mark g true
  | .stream c n row at_ len =>
    let p := loamPart r cw len
    let first := (at_ + (p.1 - r.offset)) / 64
    s.onCore c (fun x =>
      { x with poison := x.poison ++ (upFrom first (p.2 / 64)).filter (fun l => !x.poison.contains l) }.landed n row at_)
  | .other _ => s

/-- One uncorrectable codeword at Loam offset `off` is delivered to a domain: counted, recorded, logged, noticed (R503). -/
def State.uncorrectable (s : State) (n d v rev off sub : Nat) : State :=
  let s := s.onSlice n d (fun c =>
    { c with unc := c.unc + 1, unca := off / 2048 * 2048, uncVol := v, uncr := rev })
  let s := s.onStack n (fun x => { x with unc := x.unc + 1 })
  (s.log 0x0003 n (leBytes 8 (off / 2048 * 2048) ++ leBytes 2 v ++ leBytes 2 d ++ leBytes 4 rev ++ leBytes 1 sub)).raise d 0x003

/-- Codewords of one unit reach the requesters that read them as uncorrectable; one that no request reads is delivered to
nobody, and counts nothing.
DEDUCED (log 41). -/
def State.unitLost (s : State) (n : Nat) (reqs : List LoamReq) (cws : List Nat) (sub : Nat) : State :=
  cws.foldl (fun s cw =>
    match reqs.filter (fun r => (loamCodewords r).contains cw) with
    | [] => s
    | r :: rs =>
      (r :: rs).foldl (fun s q => s.sendBad q cw sub)
        (s.uncorrectable n r.domain r.volume r.revision (r.offset / 16384 * 16384 + cw * 2048) sub)) s

/-- A stack has failed: what its reads in flight and its waiting requests have not delivered is delivered uncorrectable with
subcode 0x03 (R502, R515). -/
def State.failReads (s : State) (n : Nat) : State :=
  let x := s.stack n
  let s := s.onStack n (fun x => { x with reads := [], waiting := [] })
  let s := x.reads.foldl (fun s e =>
    s.unitLost n e.reqs ((List.range 8).filter (fun c => e.stage != 0 || !e.good.contains c)) 0x03) s
  x.waiting.foldl (fun s r => s.unitLost n [r] (List.range 8) 0x03) s

/-! ### State of a stack, retirement and relocation (R540 to R548) -/

/-- Raises source 0x003 in every domain that holds a LOAM root grant (R550). -/
def State.loamNotice (s : State) : State := s.raiseAll (s.domsWithRoot 1) 0x003

/-- A stack changes state: logged and noticed (R547, R548, R550). The read-only state is never left but for failed. -/
def State.stackState (s : State) (n st : Nat) : State :=
  let x := s.stack n
  if x.state = st ∨ (x.state = 2) then s
  else
    let s := s.onStack n (fun x => { x with state := st })
    let s := if st = 2 then s.failReads n else s
    (s.log 0x0002 n (leBytes 1 x.state ++ leBytes 1 st ++ leBytes 2 0 ++ leBytes 4 x.spares)).loamNotice

/-- Drops the decoded-page buffer entries of a slot (R495, R516). -/
def Stack.dropBuffer (x : Stack) (slot : Nat) : Stack := { x with buffer := x.buffer.filter (fun e => slotOf e.1 != slot) }

/-- The attributes of the block filling `b` take the place of those of `a`, whose contents stay with its slot. -/
def Block.refill (a b : Block) : Block :=
  { a with cycles := b.cycles, senses := b.senses, saved := b.saved, ranking := b.ranking, learn := b.learn,
           attempt := b.attempt, refreshed := b.refreshed }

/-- Retires the block that fills a slot (R546): a spare of the plane takes the slot, or a free headroom block once none is
left (R547), or the stack fails when live pages have nowhere to go (R548). -/
def State.retire (s : State) (n slot reason : Nat) : State :=
  let x := s.stack n
  let b := x.block slot
  let p := planeOf slot
  let used := FMap.get x.spareUse p 0
  let s := s.journalWhole n Jop.retire (slot * 2048) 0
  let s :=
    if used < planeSpares p then
      (s.onStack n (fun x =>
        { (x.onBlock slot (fun b => b.refill Block.reset)).dropBuffer slot with
          spares := x.spares - 1, spareUse := FMap.put x.spareUse p (used + 1), grown := x.grown + 1,
          table := FMap.put x.table slot (planeSlots p + used) })).tableChange n slot []
    else match x.leastWorn ((x.freeSlots p (metaSlot slot)).filter (· != slot)) with
      | some f =>
        (s.onStack n (fun x =>
          { ((x.onBlock slot (fun b => b.refill (x.block f))).onBlock f (fun b => { b with st := .retired })).dropBuffer slot with
            grown := x.grown + 1, table := FMap.put (FMap.put x.table slot (x.physical f)) f (x.physical slot) })).tableChange
              n slot [f]
      | none =>
        let s := s.onStack n (fun x => { x.onBlock slot (fun b => { b with st := .retired }) with grown := x.grown + 1 })
        if 0 < b.live then s.stackState n 2 else s
  let y := s.stack n
  let s := s.log 0x0001 n (leBytes 4 (slot * 2048) ++ leBytes 4 reason ++ leBytes 4 b.cycles ++ leBytes 4 y.spares)
  let s := if 730 ≤ x.spares ∧ y.spares < 730 then s.loamNotice else s
  if y.spares ≤ 243 ∨ planeSpares p ≤ FMap.get y.spareUse p 0 + 1 then (if y.state = 0 then s.stackState n 1 else s) else s

/-- Relocates a slot's live pages to the block of free slot `f` of its plane (R521): the two slots exchange blocks, and the
old one, all stale, is erased through slot `f`. Each live page is sensed once. -/
def State.relocate (s : State) (n slot f : Nat) : State :=
  (s.onStack n (fun x =>
    let b := x.block slot
    let c := x.block f
    let x := x.dropBuffer slot
    let x := x.onBlock slot (fun b => b.refill c)
    let x := x.onBlock f (fun c =>
      { c.refill { b with senses := b.senses + b.live } with st := .inUse, used := b.used, live := 0 })
    { x with table := FMap.put (FMap.put x.table slot (x.physical f)) f (x.physical slot) })).tableChange n slot [f]

/-! ### Sessions -/

/-- Ends an update session with its staged pages freed (R200, R555): programs not started are withdrawn, and every LSTAGE
outstanding ends with ABANDONED, also when LABORT ends the session (R523).
DESIGN CHOICE (log 42). -/
def State.abandonSession (s : State) (ses : Session) : State :=
  let s := ses.staged.foldl (fun s p => match p.2 with
    | some page => s.pageDead (stackOfUnit p.1) page
    | none => s) s
  let mine (g : Prog) : Bool := match g.what with | .stage k _ => k == ses.number && !g.started | _ => false
  let s := (List.range 8).foldl (fun s n => s.onStack n (fun x => { x with programs := x.programs.filter (fun g => !mine g) })) s
  let s := ses.ops.foldl (fun s o => s.answer o.2 0x4B []) s
  { s with loam := { s.loam with sessions := s.loam.sessions.filter (fun x => !(x.number == ses.number)) } }

/-- Abandons every session that satisfies `p` and whose COMMIT has not begun. -/
def State.abandonWhere (s : State) (p : Session → Bool) : State :=
  (s.loam.sessions.filter (fun x => p x && !x.commit)).foldl (fun s x => s.abandonSession x) s

end Sys2Proof.Machine
end

