-- ==== Sys2Proof/Machine/LoamRead.lean ====
section
/-!
DEFINITION. Loam reading (chapter 12): credit shares (R264, R265), the page reads of a Loam controller with its map cache,
decoded-page buffer, read-retry and uncorrectable codewords, and the readers' registers of Table 12-6.
-/

namespace Sys2Proof.Machine

/-! ### Registers of the readers' slice -/

/-- The page-read entries a domain holds on a stack. -/
def Stack.inUse (x : Stack) (d : Nat) : Nat := (x.reads.filter (fun e => e.domain == d)).length

/-- Does a domain's Grant Store hold a LOAM grant of a volume (R505)? -/
def Domain.knowsVolume (x : Domain) (v : Nat) : Bool :=
  x.store.entries.any (fun e => e.2.inUse && e.2.kind == 1 && e.2.object == v)

/-- A load of the slice of domain `d` in LC `n` (Table 12-6). -/
def State.lcRead (s : State) (n d off : Nat) : Nat :=
  let x := s.stack n
  let c := x.slice d
  let v := s.volume c.vqsel
  let known := (s.domain d).knowsVolume c.vqsel
  match off with
  | 0x000 => natOf x.ready + x.state * 2 + x.temp % 256 * 2 ^ 8
  | 0x008 => c.rdpg % 2 ^ 48
  | 0x010 => c.retry % 2 ^ 48
  | 0x018 => c.unc % 2 ^ 48
  | 0x020 => c.unca + c.uncVol * 2 ^ 42
  | 0x028 => c.uncr
  | 0x030 =>
    x.inUse d + shareEntries (s.share d 2).1 2048 * 2 ^ 16 + shareEntries (s.share d 2).2 2048 * 2 ^ 32
  | 0x038 => c.mapm % 2 ^ 48
  | 0x100 => c.vqsel
  | 0x108 => if known then v.vbase else 0
  | 0x110 => if known then v.vlen else 0
  | 0x118 =>
    if known then v.current.getD 0 + natOf v.current.isSome * 2 ^ 32 +
      natOf (s.loam.sessions.any (fun z => z.volume == c.vqsel)) * 2 ^ 33
    else 0
  | _ => 0

/-- A store to the slice: LCLR and VQSEL. -/
def State.lcWrite (s : State) (n d off v : Nat) : State :=
  if off = 0x040 then
    if bitOf v 0 then s.onSlice n d (fun c => { c with rdpg := 0, retry := 0, unc := 0, mapm := 0 }) else s
  else if off = 0x100 then s.onSlice n d (fun c => { c with vqsel := v % 1024 })
  else s

/-! ### The map (R492, R493) -/

/-- Puts a tag first in an LRU list of `n`. -/
def lruPut {α : Type} [DecidableEq α] (n : Nat) (l : List α) (a : α) : List α := (a :: l.filter (· != a)).take n

/-- What a read of a unit needs next: nothing, for a unit never written; or the read of a page at a stage. -/
inductive NextRead where
  | zero
  | page (stage page : Nat)
  deriving DecidableEq, Repr

/-- The next page a read needs, the map cache consulted level by level. -/
def Stack.nextPage (x : Stack) (v : Nat) (r : Revision) (u : Nat) : NextRead :=
  match FMap.find r.tops (u % 8) with
  | none => .zero
  | some top =>
    if !x.mapTop.contains (v, r.number) then .page 2 top
    else match FMap.find r.leaves (4096 * (u % 8) + u / 32768) with
      | none => .zero
      | some leaf =>
        if !x.mapLeaf.contains leaf then .page 1 leaf
        else match FMap.find r.units u with | none => .zero | some p => .page 0 p

/-- The map cache after a lookup: the entries used become the most recent. -/
def Stack.touchMap (x : Stack) (v : Nat) (r : Revision) (u : Nat) : Stack :=
  if x.mapTop.contains (v, r.number) then
    let x := { x with mapTop := lruPut 64 x.mapTop (v, r.number) }
    match FMap.find r.leaves (4096 * (u % 8) + u / 32768) with
    | some leaf => if x.mapLeaf.contains leaf then { x with mapLeaf := lruPut 128 x.mapLeaf leaf } else x
    | none => x
  else x

/-! ### Page reads (R495) -/

/-- A sense of a page: it counts against its block (R542), and a plane that is erasing suspends its erase (R533). -/
def State.sense (s : State) (n page : Nat) : State :=
  s.onStack n (fun x =>
    let x := x.onBlock (slotOf page) (fun b => { b with senses := b.senses + 1 })
    { x with blocks := x.blocks.map (fun b =>
        if planeOf b.1 == planeOf (slotOf page) && b.2.st == .erasing then (b.1, { b.2 with st := .suspended }) else b) })

/-- Replaces page-read entry `e` of a stack. -/
def State.setRead (s : State) (n : Nat) (e : PageRead) : State :=
  s.onStack n (fun x => { x with reads := x.reads.map (fun y => if y.entry == e.entry then e else y) })

/-- Frees a page-read entry. -/
def State.dropRead (s : State) (n entry : Nat) : State :=
  s.onStack n (fun x => { x with reads := x.reads.filter (fun y => y.entry != entry) })

/-- The read of a page at a stage begins in entry `e`: it comes after every read of the plane that began before it (R509), and the
page is sensed at LEARN.
DESIGN CHOICE (log 41). -/
def State.beginRead (s : State) (n : Nat) (e : PageRead) (stage page : Nat) : State :=
  let learn := ((s.stack n).block (slotOf page)).learn
  let e := { e with stage := stage, page := page, sensed := false, tried := [learn], good := [], failing := [] }
  let s := s.onStack n (fun x => { x with reads := x.reads.filter (fun y => y.entry != e.entry) ++ [e] })
  (s.sense n page).onSlice n e.domain (fun c => { c with rdpg := c.rdpg + 1, mapm := c.mapm + (if stage = 0 then 0 else 1) })

/-- Codewords of one page are sent to the requests that read them. -/
def State.sendCodewords (s : State) (reqs : List LoamReq) (cws : List Nat) : State :=
  reqs.foldl (fun s r => ((loamCodewords r).filter (fun c => cws.contains c)).foldl (fun s c => s.sendGood r c) s) s

/-- Requests merge with a read in flight (R495, R508): they receive the codewords already sent, and wait for the rest. -/
def State.mergeRead (s : State) (n : Nat) (e : PageRead) (reqs : List LoamReq) : State :=
  (s.setRead n { e with reqs := e.reqs ++ reqs }).sendCodewords reqs (if e.stage = 0 then e.good else [])

/-- The read of data page `p` for a domain that is in flight. -/
def Stack.reading (x : Stack) (d p : Nat) : Option PageRead :=
  x.reads.find? (fun e => e.domain == d && e.stage == 0 && e.page == p)

/-- Entry `e` waits for the read in flight of the map page that it needs: a map cache miss, and no read (R495).
DEDUCED (log 66). -/
def State.joinMap (s : State) (n : Nat) (e : PageRead) : State :=
  let e := { e with sensed := false, tried := [((s.stack n).block (slotOf e.page)).learn], good := [], failing := [] }
  (s.onStack n (fun x => { x with reads := x.reads.filter (fun y => y.entry != e.entry) ++ [e] })).onSlice n e.domain
    (fun c => { c with mapm := c.mapm + 1 })

/-- The page-read entry goes on to the next page its unit needs: a page of zeros or of the buffer is sent, a data page whose read
is in flight is merged with, and the entry ends; a map page whose read is in flight is waited for; any other page is read.
DESIGN CHOICE (log 41). -/
def State.continueRead (s : State) (n : Nat) (e : PageRead) : State :=
  match (s.volume e.volume).rev e.rev with
  | none => s.dropRead n e.entry
  | some r =>
    let s := s.onStack n (fun x => x.touchMap e.volume r e.unit)
    match (s.stack n).nextPage e.volume r e.unit with
    | .zero => (s.sendCodewords e.reqs (List.range 8)).dropRead n e.entry
    | .page 0 p =>
      if (s.stack n).buffer.contains (p, e.domain) then
        ((s.onStack n (fun x => { x with buffer := lruPut 64 x.buffer (p, e.domain) })).sendCodewords e.reqs
          (List.range 8)).dropRead n e.entry
      else match (s.stack n).reading e.domain p with
        | some f => (s.mergeRead n f e.reqs).dropRead n e.entry
        | none => s.beginRead n e 0 p
    | .page st p =>
      let e := { e with stage := st, page := p }
      if (s.stack n).reads.any (fun f => f.entry != e.entry && f.sameMap e) then s.joinMap n e else s.beginRead n e st p

/-- The unit of a request, counted from VBASE. -/
def State.unitOf (s : State) (r : LoamReq) : Nat := (r.offset - (s.volume r.volume).vbase) / 16384

/-- A request takes a page-read entry. -/
def State.takeRead (s : State) (n : Nat) (r : LoamReq) : State :=
  let x := s.stack n
  let e : PageRead :=
    { entry := x.nextRead, domain := r.domain, page := 0, stage := 2, volume := r.volume, rev := r.revision,
      unit := s.unitOf r, reqs := [r], sensed := false, tried := [], good := [], failing := [] }
  (s.onStack n (fun x => { x with reads := x.reads ++ [e], nextRead := x.nextRead + 1 })).continueRead n e

/-- What a request comes to that takes no entry (R495, R502): a failed stack poisons it, zeros and a buffered page are sent, and
it merges with a read in flight of its page, or of its unit while the map is read. None when it needs an entry. -/
def State.loamAct (s : State) (n : Nat) (r : LoamReq) : Option State :=
  let x := s.stack n
  let u := s.unitOf r
  match (s.volume r.volume).rev r.revision with
  | none => some s
  | some rev =>
    if x.state = 2 then some (s.unitLost n [r] (List.range 8) 0x03)
    else
      let s' := s.onStack n (fun x => x.touchMap r.volume rev u)
      let next := x.nextPage r.volume rev u
      match next with
      | .zero => some (s'.sendCodewords [r] (List.range 8))
      | .page st p =>
        if st = 0 ∧ x.buffer.contains (p, r.domain) then
          some ((s'.onStack n (fun x => { x with buffer := lruPut 64 x.buffer (p, r.domain) })).sendCodewords [r] (List.range 8))
        else
          let same (e : PageRead) : Bool :=
            e.domain == r.domain && ((e.volume == r.volume && e.rev == r.revision && e.unit == u) ||
              (st == 0 && e.stage == 0 && e.page == p))
          (x.reads.find? same).map (fun e => s'.mergeRead n e [r])

/-- Does a request of domain `d` find a page-read entry of the stack (R264, R498)? Patrol and refresh reads, each
whole within its step, hold a reserve of 64 (R265). -/
def State.loamAdmits (s : State) (n d : Nat) : Bool :=
  let x := s.stack n
  s.admits 2 2048 x.inUse x.reads.length 64 d

/-- A request at its LC (R495, R517): it is served without an entry, takes one behind no earlier request that could have it, or
holds. -/
def State.loamRequest (s : State) (r : LoamReq) : State :=
  let n := loamStack r
  let x := s.stack n
  let hold := s.onStack n (fun x => { x with waiting := x.waiting ++ [r] })
  if !x.ready then hold
  else match s.loamAct n r with
    | some s' => s'
    | none =>
      if s.loamAdmits n r.domain && !x.waiting.any (fun w => s.loamAdmits n w.domain) then s.takeRead n r else hold

/-- Serves the waiting requests of a stack in the order they reached the bound (R261), `k` of them at most. -/
def State.serveLoam (s : State) (n k : Nat) : State :=
  match k with
  | 0 => s
  | k + 1 =>
    let x := s.stack n
    if !x.ready then s
    else match x.waiting.find? (fun r => (s.loamAct n r).isSome || s.loamAdmits n r.domain) with
      | some r =>
        let s := s.onStack n (fun x => { x with waiting := dropFirst (· == r) x.waiting })
        ((s.loamAct n r).getD (s.takeRead n r)).serveLoam n k
      | none => s

/-- Serves every waiting request of a stack that can be. -/
def State.serveStack (s : State) (n : Nat) : State := s.serveLoam n (s.stack n).waiting.length

/-- The entries that wait for the map page that `e` reads, `e` among them, in the order they came to it. -/
def Stack.mapMates (x : Stack) (e : PageRead) : List PageRead := x.reads.filter (fun f => f.sameMap e)

/-- The end of a page's read with every codeword correct: a map page enters the map cache and the entries that need it go on; a
data page enters the decoded-page buffer, and the entry is freed. -/
def State.pageGood (s : State) (n : Nat) (e : PageRead) : State :=
  if e.stage = 0 then (s.onStack n (fun x => { x with buffer := lruPut 64 x.buffer (e.page, e.domain) })).dropRead n e.entry
  else
    let s := s.onStack n (fun x =>
      if e.stage = 2 then { x with mapTop := lruPut 64 x.mapTop (e.volume, e.rev) }
      else { x with mapLeaf := lruPut 128 x.mapLeaf e.page })
    ((s.stack n).mapMates e).foldl (fun s f => s.continueRead n f) s

/-- The end of a page's read with codewords uncorrectable (R501, R502): nothing of it is kept, and every entry that needs it
ends. -/
def State.pageBad (s : State) (n : Nat) (e : PageRead) : State :=
  if e.stage = 0 then (s.unitLost n e.reqs e.failing 0x01).dropRead n e.entry
  else ((s.stack n).mapMates e).foldl (fun s f => (s.unitLost n f.reqs (List.range 8) 0x02).dropRead n f.entry) s

/-- Runs `f` on page-read entry `entry` of a stack, if it is there and reads its page, and serves what waits for an entry it
frees. -/
def State.readRow (s : State) (n entry : Nat) (f : PageRead → State) : State :=
  match (s.stack n).reads.find? (fun e => e.entry == entry) with
  | some e => if (s.stack n).leads e then (f e).serveStack n else s
  | none => s

/-! ### Loads of Loam and of the Boot ROM (R465, R490, R494, R501) -/

/-- The line of a passed reference to Loam or the Boot ROM, with its tag (R465), and the request that fetches a Loam line. -/
def State.tagged (s : State) (g : Nat) (tile : Bool) (r : ByteRef) : Option ((Nat × Nat) × Option LoamReq) :=
  match r.tgt with
  | .rom => some ((r.pa / 64, 0), none)
  | .loam =>
    match s.loamRev g r.wins r.pa with
    | some (v, x) =>
      let q : LoamReq :=
        { domain := (s.domOf g).getD 64, dest := if tile then .tile g else .scalar g,
          offset := r.pa / 64 * 64 - 0x100000000000, volume := v, revision := x.number }
      some (loamLine q, some q)
    | none => none
  | _ => none

/-- What a line of Loam comes to for the access that needs it: it is there, it was delivered poisoned, or it is on its way. -/
inductive LoamGot where
  | here (s : State)
  | bad (s : State) (sub line : Nat)
  | wait (s : State)
  deriving DecidableEq, Repr

/-- A core's own copy of a tagged line, or the L3's (R465, R494): a hit installs it in L2, and in L1D for a scalar access. -/
def State.loamHit (s : State) (c : Nat) (l1 : Bool) (k : Nat × Nat) : Option State :=
  let near (s : State) : State :=
    s.onCore c (fun x => let x := x.touch2 k; if l1 then { x with l1d := l1Put x.l1d k } else x)
  if (s.core c).l2use.contains k then some (near s)
  else if s.l3Has k.1 k.2 then ((s.l3Touch k.1 k.2).install2 c k .shared).map near
  else none

/-- Obtains one tagged line for an access: a cached copy, else a mark that it came poisoned, which is then met, else a request to
the LC unless one is open (R494, R501). -/
def State.loamLineGet (s : State) (g : Nat) (tile : Bool) (k : Nat × Nat) (q : Option LoamReq) : LoamGot :=
  let c := g / 2
  let d := (s.domOf g).getD 64
  match s.loamHit c (!tile) k, q with
  | some s', _ => .here s'
  | none, none =>
    let s' := (s.l3Fill d k.1 k.2).install2 c k .shared
    (match s' with
      | some s' => .here (if tile then s' else s'.onCore c (fun x => { x with l1d := l1Put x.l1d k }))
      | none => .wait s)
  | none, some q =>
    let met (s : State) : Option LoamMark :=
      (s.thread g).loamBad.find? (fun m => m.tile == tile && m.line == k.1 && m.tag == k.2)
    let after (s : State) : LoamGot :=
      match met s with
      | some m => .bad (s.onThread g (fun t => { t with loamBad := t.loamBad.filter (· != m) })) m.sub m.line
      | none => match s.loamHit c (!tile) k with | some s' => .here s' | none => .wait s
    if (met s).isSome then after s
    else
      let x := s.stack (loamStack q)
      let open_ := x.waiting.contains q || x.reads.any (fun e => e.reqs.contains q)
      after (if open_ then s else s.loamRequest q)

/-- Obtains the tagged lines of an access, one after the other in ascending address. -/
def State.loamLines (s : State) (g : Nat) (tile : Bool) (l : List ((Nat × Nat) × Option LoamReq)) : LoamGot :=
  match l with
  | [] => .here s
  | x :: r =>
    match s.loamLineGet g tile x.1 x.2 with
    | .here s => s.loamLines g tile r
    | o => o

/-! ### The end of a load -/

/-- Does a list of references touch PCIe space? -/
def hasPcie (rs : List ByteRef) : Bool := rs.any (fun r => match r.tgt with | .pcie _ => true | _ => false)

/-- Does a list of references touch Loam? -/
def hasLoam (rs : List ByteRef) : Bool := rs.any (fun r => r.tgt == .loam)

/-- What a load through passed references comes to: its bytes, a poisoned line of Loam with its subcode, or a hold. -/
inductive Got where
  | bytes (bs : List Byte) (s : State)
  | bad (s : State) (sub line : Nat)
  | stall (h : Hold) (s : State)
  deriving DecidableEq, Repr

/-- Why an access to DRAM holds: at the bounds of the misses toward memory (R264), or for its line. -/
def State.lineHold (s : State) (c : Nat) (rs : List ByteRef) : Hold :=
  if (dramLines rs).all (fun l => FMap.has (s.core c).l2 l || (s.lineIdle l && s.holdersHere l && !(s.core c).busy l)) then
    .bound
  else .line

/-- A load of bytes that passed the check (R456, R463, R465): the lines of DRAM are obtained, those of Loam and the Boot ROM hit
or come from the LC; accessed bits are set and translations install as it ends (R272). DESIGN CHOICE (log 4, 23). -/
def State.loadVia (s : State) (g : Nat) (u : LineUse) (rs : List ByteRef) : Got :=
  let c := g / 2
  let d := (s.domOf g).getD 64
  let tile := u == .tileRead
  match s.obtainRefs c d u rs with
  | none => .stall (s.lineHold c rs) s
  | some s' =>
    match s'.loamLines g tile (rs.filterMap (fun r => s.tagged g tile r)).eraseDups with
    | .wait s' => .stall .loam s'
    | .bad s' sub line => .bad s' sub line
    | .here s' =>
      let s' := s'.useRefs g false rs
      .bytes (s.refBytes g rs) (if hasPcie rs then { s' with free := s'.free + 1 } else s')

/-- The bytes of an access made for the part itself (a fill, a descriptor): the lines of DRAM it can have are obtained. -/
def State.loadSome (s : State) (g : Nat) (u : LineUse) (rs : List ByteRef) : Got :=
  let dram := rs.filter (fun r => r.tgt == .dram)
  let s := s.obtainSome (g / 2) ((s.domOf g).getD 64) u dram
  match s.loadVia g u (rs.filter (fun r => r.tgt != .dram)) with
  | .bytes _ s' => .bytes (s.refBytes g rs) (s'.useRefs g false rs)
  | o => o

/-- A store of bytes that passed the check, with its lines held in M: accessed and dirty bits, then the bytes (R456, R463). -/
def State.storeVia (s : State) (g : Nat) (u : LineUse) (rs : List ByteRef) (bs : List Byte) : Option State :=
  (s.obtainRefs (g / 2) ((s.domOf g).getD 64) u rs).map (fun s =>
    let s := s.useRefs g true rs
    { s with dram := storeRefs s.dram rs bs })

/-- A store made for the part itself (a spill, a frame). -/
def State.storeSome (s : State) (g : Nat) (rs : List ByteRef) (bs : List Byte) : State :=
  let s := (s.obtainSome (g / 2) ((s.domOf g).getD 64) .store rs).useRefs g true rs
  { s with dram := storeRefs s.dram rs bs }

/-! ### Commands -/

/-- Is a read request one of a requester that may make it: a scalar load that holds for its line, the oldest of its thread and so
non-speculative (R254, R281); a tile row or a Stream engine piece that is due; any other requester of the LC? -/
def State.loamDue (s : State) (r : LoamReq) : Bool :=
  match r.dest with
  | .scalar g => (s.thread g).hold == .loam
  | .tile g => !(s.thread g).tile.queue.isEmpty || (s.thread g).hold == .loam
  | .stream c n row at_ _ => ((s.core c).desc n).flight.any (fun f => f.row == row && f.at_ == at_)
  | .other _ => true

/-- LOAM_READ_REQUEST (R495). -/
def execLoamReadRequest (r : LoamReq) (s : State) : Host.Outcome State Fault Refusal :=
  .next (if s.loamDue r then s.loamRequest r else s)

/-- Is a page read the first of its plane, every earlier one ended (R509)? -/
def Stack.planeFirst (x : Stack) (e : PageRead) : Bool :=
  (x.reads.find? (fun y => planeOf (slotOf y.page) == planeOf (slotOf e.page))) == some e

/-- Does a program run in a plane? -/
def Stack.programming (x : Stack) (p : Nat) : Bool := x.programs.any (fun g => g.started && planeOf (slotOf g.page) == p)

/-- LOAM_PAGE_SENSE_DONE (R496): the codewords of the page transfer. The sense waits for the program that its plane is at (R512),
and programs that waited for it start. -/
def execLoamPageSenseDone (stack entry : Nat) (s : State) : Host.Outcome State Fault Refusal :=
  .next (s.readRow stack entry (fun e =>
    let x := s.stack stack
    if x.planeFirst e && !x.programming (planeOf (slotOf e.page)) then
      (s.setRead stack { e with sensed := true }).startPrograms stack
    else s))

/-- LOAM_CODEWORD_DECODED (R495, R499): the outcome of a codeword's hard decode; a correct one is sent at once. -/
def execLoamCodewordDecoded (stack entry codeword : Nat) (ok : Bool) (s : State) : Host.Outcome State Fault Refusal :=
  .next (s.readRow stack entry (fun e =>
    if !e.sensed ∨ 8 ≤ codeword ∨ e.good.contains codeword ∨ e.failing.contains codeword then s
    else if ok then
      let e := { e with good := codeword :: e.good }
      let s := (s.setRead stack e).sendCodewords (if e.stage = 0 then e.reqs else []) [codeword]
      if e.good.length = 8 then s.pageGood stack e else s
    else s.setRead stack { e with failing := codeword :: e.failing }))

/-- READ_RETRY_STEP (R500): the next setting of the ranking that is not tried; `fixed` names the codewords that the soft
decode makes correct. LEARN is set as the retry ends. -/
def execReadRetryStep (stack entry : Nat) (fixed : List Nat) (s : State) : Host.Outcome State Fault Refusal :=
  .next (s.readRow stack entry (fun e =>
    let b := (s.stack stack).block (slotOf e.page)
    if e.failing.isEmpty ∨ e.good.length + e.failing.length ≠ 8 then s
    else match b.ranking.find? (fun k => !e.tried.contains k) with
      | none => s.pageBad stack e
      | some k =>
        let won := e.failing.filter (fun c => fixed.contains c)
        let e := { e with tried := k :: e.tried, good := won ++ e.good, failing := e.failing.filter (fun c => !fixed.contains c) }
        let s := ((s.setRead stack e).sense stack e.page).onSlice stack e.domain (fun c => { c with retry := c.retry + 1 })
        let s := s.sendCodewords (if e.stage = 0 then e.reqs else []) won
        let learnt : State :=
          if won.isEmpty then s else s.onStack stack (fun x => x.onBlock (slotOf e.page) (fun b => { b with learn := k }))
        if e.failing.isEmpty then learnt.pageGood stack e
        else if 8 ≤ e.tried.length then learnt.pageBad stack e
        else s))

end Sys2Proof.Machine
end

