-- ==== Sys2Proof/Machine/Delivery.lean ====
section
/-!
DEFINITION. The sliding window, spill and fill (R77 to R95), and the one delivery of faults, traps, interrupts and
machine checks (R212 to R222) with its escalation, emergency delivery and the Wedged state.
-/

namespace Sys2Proof.Machine

/-! ### The window -/

/-- The registers lo–hi of a window map, moved down by `down`. -/
def windowPart (m : FMap Word) (lo hi down : Nat) : FMap Word :=
  (m.filter (fun p => decide (lo ≤ p.1) && decide (p.1 ≤ hi))).map (fun p => (p.1 - down, p.2))

/-- Slides the window by 24: w24–w31 become w0–w7 and the rest is zero (R77). -/
def Thread.slide (t : Thread) : Thread :=
  { t with older := windowPart t.cur 0 23 0 :: t.older, cur := windowPart t.cur 24 31 24 }

/-- The caller's window: w0–w23 as given, w24–w31 from the returning window's w0–w7 (R78). -/
def joinWindow (own returning : FMap Word) : FMap Word :=
  windowPart own 0 23 0 ++ (windowPart returning 0 7 0).map (fun p => (p.1 + 24, p.2))

/-- Slides back into the nearest resident caller (R78). -/
def Thread.slideBack (t : Thread) : Thread :=
  match t.older with
  | [] => t
  | w :: r => { t with cur := joinWindow w t.cur, older := r }

/-- The 192 bytes of w0–w23 of a window (R83). -/
def windowBytes (m : FMap Word) : List Byte :=
  ((List.range 24).map (fun i => leBytes 8 (FMap.get m i 0).toNat)).flatten

/-- w0–w23 of a window from 192 bytes. -/
def windowOfBytes (bs : List Byte) : FMap Word :=
  (List.range 24).foldl (fun m i => FMap.set m i (BitVec.ofNat 64 (leNat ((bs.drop (8 * i)).take 8))) 0) []

/-- WBSP as a number. -/
def Thread.wbsp (t : Thread) : Nat := t.sysNat Sys.wbsp

/-- A store of the part itself at ring `p`, checked whole before a byte of it is written. -/
def State.storeAt (s : State) (g p va : Nat) (bs : List Byte) : Except AccErr State :=
  match s.check g p Need.blockSt va bs.length with
  | .error e => .error e
  | .ok rs => .ok (s.storeSome g rs bs)

/-- Spills the oldest resident window (R83, R85, R86). -/
def State.spill (s : State) (g : Nat) : Except Flt State :=
  let t := s.thread g
  let wbsp := t.wbsp
  match t.older.getLast? with
  | none => .ok s
  | some w =>
    if t.sysNat Sys.wblim < wbsp + 192 then .error (Flt.mk' 0x08 0x03 (BitVec.ofNat 64 wbsp))
    else match s.storeAt g 0 wbsp (windowBytes w) with
      | .error e => .error (Flt.mk' 0x08 e.why.window (BitVec.ofNat 64 e.va))
      | .ok s =>
        .ok (s.onThread g (fun t =>
          ({ t with older := t.older.dropLast }.setSpilled (t.spilled + 1)).sysSet Sys.wbsp
            (BitVec.ofNat 64 ((wbsp + 192) % 2 ^ 48))))

/-- What a fill comes to: the window's w0–w23, a fault, or a wait for a line of Loam. -/
inductive Filled where
  | ok (w : FMap Word) (s : State)
  | flt (f : Flt) (s : State)
  | stall (h : Hold) (s : State)
  deriving DecidableEq, Repr

/-- Fills the window being returned to (R84, R85, R86), with WBSP and SPILLED changed. Its bytes are a load's: poisoned ones raise
fault 0x14 (R501). -/
def State.fill (s : State) (g : Nat) : Filled :=
  let t := s.thread g
  let at_ := (t.wbsp + (2 ^ 48 - 192)) % 2 ^ 48
  if t.spilled = 0 then .flt (Flt.mk' 0x09 0x03 (BitVec.ofNat 64 at_)) s
  else match s.check g 0 Need.blockLd at_ 192 with
    | .error e => .flt (Flt.mk' 0x09 e.why.window (BitVec.ofNat 64 e.va)) s
    | .ok rs =>
      match s.loadSome g .load rs with
      | .bad s sub _ => .flt (Flt.mk' 0x14 sub (BitVec.ofNat 64 at_)) s
      | .stall h s => .stall h s
      | .bytes bs s =>
        .ok (windowOfBytes bs) (s.onThread g (fun t =>
          (t.setSpilled (t.spilled - 1)).sysSet Sys.wbsp (BitVec.ofNat 64 at_)))

/-- What a slide back comes to. -/
inductive Slid where
  | ok (s : State)
  | flt (f : Flt) (s : State)
  | stall (h : Hold) (s : State)
  deriving DecidableEq, Repr

/-- Slides back as RET does, filling when no caller is resident (R78, R84). -/
def State.slideBack (s : State) (g : Nat) : Slid :=
  match (s.thread g).older with
  | _ :: _ => .ok (s.onThread g Thread.slideBack)
  | [] =>
    match s.fill g with
    | .flt f s => .flt f s
    | .stall h s => .stall h s
    | .ok w s => .ok (s.onThread g (fun t => { t with cur := joinWindow w t.cur }))

/-- Spills the oldest windows until a slide leaves RES at 7 or less (R82), `n` of them at most. A spill that completed
before the one that fails stays done (R89). -/
def State.makeRoom (s : State) (g n : Nat) : Except (Flt × State) State :=
  match n with
  | 0 => .ok s
  | k + 1 =>
    if (s.thread g).res ≤ 6 then .ok s
    else match s.spill g with
      | .error f => .error (f, s)
      | .ok s => s.makeRoom g k

/-! ### Waiting behind a TFENCE (R304) -/

/-- Is the tile stream stopped (TPROG.STOP)? -/
def Thread.stopped (t : Thread) : Bool := bitOf (t.sysNat Sys.tprog) 63

/-- Is a Tile Queue entry a TFENCE? -/
def TqEntry.isFence (e : TqEntry) : Bool := match e.op with | .tile t => t.op == 0x13 | _ => false

/-- Is a TFENCE queued that the tile stream has not passed (R304)? -/
def Thread.fenced (t : Thread) : Bool := t.tile.queue.any TqEntry.isFence

/-- Does a delivery of the thread wait, its frame being younger than a TFENCE (R304), or than a store to control space that is
not performed (R461)? Behind a stopped stream it does not wait: only a handler can start that stream again.
DESIGN CHOICE (log 64). -/
def Thread.deliveryWaits (t : Thread) : Bool := (t.fenced && !t.stopped) || t.stq.isSome

/-! ### Delivery -/

/-- The class level of a cause code (Table 5-1); interrupts carry their source's level instead. -/
def classLevel (code : Nat) : Nat :=
  if code = 0x15 ∨ code = 0x16 ∨ code = 0x30 then 15
  else if code = 0x04 ∨ code = 0x05 ∨ code = 0x08 ∨ code = 0x09 ∨ code = 0x10 ∨ code = 0x13 then 13
  else 14

/-- An event to deliver (R203): cause, FADDR, FIP, FPROG, return IP, and the level of an interrupt. -/
structure Event where
  code  : Nat
  sub   : Nat
  faddr : Word
  fip   : Word
  fprog : Word
  retIp : Word
  level : Option Nat
  gate  : Bool
  deriving DecidableEq, Repr

/-- A gate descriptor's first quadword fields (Table 4-5). -/
structure GateDesc where
  hip   : Nat
  tpl   : Nat
  minpl : Nat
  ml    : Nat
  ssel  : Nat
  kind  : Nat
  args  : List Nat
  deriving DecidableEq, Repr

/-- The physical address of gate descriptor `n` (R161). -/
def Thread.descAddr (t : Thread) (n : Nat) : Nat := bitsOf (t.sysNat Sys.gtb) 51 12 * 4096 + 32 * n

/-- Reads gate descriptor `n` (R162, R163), none when its read has no target. -/
def State.gateDesc (s : State) (g n : Nat) : Option GateDesc :=
  match s.tableRead ((s.domOf g).getD 64) ((s.thread g).descAddr n) 16 with
  | none => none
  | some bs =>
    let q := leNat (bs.take 8)
    let a := leNat (bs.drop 8)
    some { hip := bitsOf q 47 0, tpl := bitsOf q 49 48, minpl := bitsOf q 51 50, ml := bitsOf q 55 52,
           ssel := bitsOf q 57 56, kind := bitsOf q 59 58,
           args := [bitsOf a 15 0, bitsOf a 31 16, bitsOf a 47 32, bitsOf a 63 48] }

/-- GTL.COUNT (Table 4-4). -/
def Thread.gtlCount (t : Thread) : Nat := bitsOf (t.sysNat Sys.gtl) 10 0

/-- The descriptor of a code when it is usable for delivery at ring `p` (R213). -/
def State.usableDesc (s : State) (g code p : Nat) : Option GateDesc :=
  if code < (s.thread g).gtlCount then
    match s.gateDesc g code with
    | some d =>
      if (d.kind = 1 ∨ d.kind = 2) ∧ d.tpl ≤ p ∧ (d.ssel = 0 ∨ (d.ssel = 1 ∧ d.tpl = p)) then some d else none
    | none => none
  else none

/-- The 64-byte frame (Table 5-7): return IP, FKIND, WIN and the eight quadwords. -/
def frameBytes (t : Thread) (retIp : Word) (kind : Nat) (win : Bool) : List Byte :=
  leBytes 8 (retIp.toNat % 2 ^ 48 + kind * 2 ^ 48 + t.fl.toNat * 2 ^ 52 + natOf win * 2 ^ 56) ++
  leBytes 8 t.psw.toWord.toNat ++ leBytes 8 t.sp.toNat ++ leBytes 8 (t.sysNat Sys.cause) ++
  leBytes 8 (t.sysNat Sys.faddr) ++ leBytes 8 (t.sysNat Sys.fprog) ++ leBytes 8 (t.sysNat Sys.ecause) ++
  leBytes 8 (t.sysNat Sys.fip % 2 ^ 48)

/-- The fault-report registers as a delivery writes them (Table 5-3). -/
def Thread.report (t : Thread) (code sub dring : Nat) (faddr fip fprog : Word) : Thread :=
  (((t.sysSet Sys.cause (BitVec.ofNat 64 (code + sub * 2 ^ 8 + dring * 2 ^ 16))).sysSet Sys.faddr faddr).sysSet
    Sys.fip (BitVec.ofNat 64 (fip.toNat % 2 ^ 48))).sysSet Sys.fprog fprog

/-- The Wedged state (R222): the thread stops, its registers stay, the SMC logs and raises source 0x004. -/
def State.wedge (s : State) (g : Nat) (cause ecause : Nat) : State :=
  let psw := (s.thread g).psw.toWord.toNat
  let s := s.onThread g (fun t => { t with run := .wedged })
  let s := s.log 0x0004 g (leBytes 8 psw ++ leBytes 8 cause ++ leBytes 8 ecause)
  match s.domOf g with
  | some d => s.raise d 0x004
  | none => s

/-- Emergency delivery of `e` with subcode `sub` (R221, R222). `spillSub` and `spillAt` are those of the failed spill
for subcode 0x02. -/
def State.emergency (s : State) (g : Nat) (e : Event) (sub spillSub : Nat) (spillAt : Word) : State :=
  let t := s.thread g
  let ec := if e.gate then 0 else if sub = 2 then 0x08 + spillSub * 2 ^ 8 + 2 ^ 16
    else e.code + e.sub * 2 ^ 8 + 2 ^ 16
  let efa := if sub = 2 then spillAt else e.faddr
  let win := t.res == 8
  let size := if win then 256 else 64
  let top := if t.psw.ems then t.sp.toNat else t.sysNat Sys.esp
  let bottom := t.sysNat Sys.esp - 0x4000
  let cause := 0x15 + sub * 2 ^ 8
  let at_ := (top - size) / 64 * 64
  if top < size ∨ at_ < bottom then s.wedge g cause ec
  else
    let image := match t.older.getLast? with | some w => if win then windowBytes w else [] | none => []
    match s.storeAt g 0 at_ (frameBytes t e.retIp 4 win ++ image) with
    | .error _ => s.wedge g cause ec
    | .ok s =>
      s.onThread g (fun t =>
        let t := if win then { t with older := t.older.dropLast } else t
        let t := t.slide.report 0x15 sub 0 e.faddr e.fip e.fprog
        let t := (t.sysSet Sys.ecause (BitVec.ofNat 64 ec)).sysSet Sys.efaddr efa
        let t := { t with psw := { t.psw with pl := 0, ml := 15, ems := true, ss := false } }
        (t.setReg 39 (BitVec.ofNat 64 at_)).setIp (t.sysGet Sys.ehip))

/-- What `enter` came to: entered, an emergency, or a push byte that could not be written. -/
inductive Entry where
  | entered (s : State)
  | noSpill (s : State) (sub : Nat) (at_ : Word)
  | noRoom (s : State) (at_ : Word)
  | noPush (s : State) (at_ : Word)
  deriving DecidableEq, Repr

/-- The `enter` of R214: spill at RES 8, frame push, slide, report, PSW, sp and IP. -/
def State.enter (s : State) (g : Nat) (e : Event) (ring stack limit ml : Nat) (ip : Nat) (kind : Nat)
    (ec : Option Nat) : Entry :=
  match (if (s.thread g).res = 8 then s.spill g else .ok s) with
  | .error f => .noSpill s f.sub f.faddr
  | .ok s =>
    let t := s.thread g
    let at_ := (stack - 64) / 64 * 64
    if stack < 64 ∨ at_ < limit then .noRoom s (BitVec.ofNat 64 at_)
    else match s.storeAt g ring at_ (frameBytes t e.retIp kind false) with
      | .error x => .noPush s (BitVec.ofNat 64 x.va)
      | .ok s =>
        .entered (s.onThread g (fun t =>
          let t := t.slide.report e.code e.sub ring e.faddr e.fip e.fprog
          let t := match ec with
            | some v => t.sysSet Sys.ecause (BitVec.ofNat 64 v)
            | none => t.sysSet Sys.ecause (BitVec.ofNat 64 (setBits (t.sysNat Sys.ecause) 16 16 0))
          let t := { t with psw := { t.psw with pl := BitVec.ofNat 2 ring, ml := BitVec.ofNat 4 ml, ss := false,
                                                brs := false } }
          (t.setReg 39 (BitVec.ofNat 64 at_)).setIp (BitVec.ofNat 64 ip)))

/-- An event escalated with subcode `s` (R212): 0x16, and FADDR the push byte for subcode 0x03. -/
def Event.escalated (e : Event) (sub : Nat) (push : Option Word) : Event :=
  { e with code := 0x16, sub := sub, faddr := push.getD e.faddr, level := none }

/-- ECAUSE as an escalation of `e` writes it. -/
def Event.ecause (e : Event) : Nat := e.code + e.sub * 2 ^ 8 + 2 ^ 16

/-- The `retry` loop of R214 for an event at ring `p`. `ec` is the ECAUSE and EFADDR of an escalation so far. An event
escalates at most once more, so two rounds beyond the first reach an outcome. -/
def State.deliverLoop (s : State) (g : Nat) (e : Event) (ec : Option (Nat × Word)) (fuel : Nat) : State :=
  match fuel with
  | 0 => s
  | k + 1 =>
    let t := s.thread g
    let p := t.ring
    let note (s : State) : State := match ec with
      | some (_, a) => s.onThread g (fun t => t.sysSet Sys.efaddr a)
      | none => s
    match s.usableDesc g e.code p with
    | none =>
      if e.code = 0x16 then s.emergency g e 0x03 0 0
      else s.deliverLoop g (e.escalated 0x02 none) (some (e.ecause, e.faddr)) k
    | some d =>
      let stack := if d.tpl < p ∧ !t.psw.ems then t.sysNat (Sys.sp d.tpl) else t.sp.toNat
      let limit := if t.psw.ems then t.sysNat Sys.esp - 0x4000 else t.sysNat (Sys.slim d.tpl)
      let ml := max (max t.psw.ml.toNat d.ml) (e.level.getD 0)
      match s.enter g e d.tpl stack limit ml d.hip (if e.level.isSome then 2 else 1) (ec.map (·.1)) with
      | .entered s => note s
      | .noSpill s sub a => s.emergency g e 0x02 sub a
      | .noRoom s _ => s.emergency g e 0x01 0 0
      | .noPush s a =>
        if e.code = 0x16 then s.emergency g e 0x03 0 0
        else s.deliverLoop g (e.escalated 0x03 (some a)) (some (e.ecause, e.faddr)) k

/-- Delivers an event to thread `g` (R212 to R214): escalation by level, single-entry mode, then descriptors. What its
instructions behind the boundary had in flight is discarded (R230, R255). -/
def State.deliver (s : State) (g : Nat) (e : Event) : State :=
  let s := s.squash g
  let t := s.thread g
  let p := t.ring
  if e.level.isNone ∧ classLevel e.code < 15 ∧ classLevel e.code ≤ t.psw.ml.toNat then
    s.deliverLoop g (e.escalated 0x01 none) (some (e.ecause, e.faddr)) 3
  else if e.level.isNone ∧ classLevel e.code < 15 ∧ bitOf (t.sysNat Sys.ringctl) p ∧
      ((s.usableDesc g e.code p).map (·.tpl)) = some p then
    let seml := bitsOf (t.sysNat Sys.ringctl) (4 * p + 11) (4 * p + 8)
    let limit := t.sysNat (Sys.slim p)
    match s.enter g e p t.sp.toNat limit (max t.psw.ml.toNat seml) (t.sysNat (Sys.seip p)) 1 none with
    | .entered s => s
    | .noSpill s sub a => s.emergency g e 0x02 sub a
    | .noRoom s _ => s.emergency g e 0x01 0 0
    | .noPush s a => s.deliverLoop g (e.escalated 0x03 (some a)) (some (e.ecause, e.faddr)) 3
  else s.deliverLoop g e none 3

/-- A synchronous fault of the instruction at IP: FIP and the return IP are its address. -/
def State.fault (s : State) (g : Nat) (f : Flt) : State :=
  let ip := (s.thread g).pc
  s.deliver g { code := f.code, sub := f.sub, faddr := f.faddr, fip := ip, fprog := f.fprog, retIp := ip,
                level := none, gate := false }

/-! ### Interrupts at a boundary -/

/-- Is an interrupt of level `l` and cause `c` takeable by thread `g` (R229)? -/
def State.takeable (s : State) (g c l : Nat) : Bool :=
  let t := s.thread g
  decide (t.psw.ml.toNat < l) &&
    (match (if c < t.gtlCount then s.gateDesc g c else none) with
     | none => true
     | some d => decide (d.tpl ≤ t.ring) ||
        !((d.kind == 1 || d.kind == 2) && (d.ssel == 0 || d.ssel == 1)))

/-- The interrupt thread `g` takes at a boundary (R229, R232): the presented source when takeable.
DEDUCED (log 59). -/
def State.nextIrq (s : State) (g : Nat) : Option (Nat × Nat) :=
  match s.presented g with
  | some (n, l) => if s.takeable g (sourceCause n) l then some (n, l) else none
  | none => none

/-- Is a held tile-stream fault deliverable (R205)? -/
def Thread.tileFaultDue (t : Thread) : Option (Nat × Nat) :=
  match t.tile.held with
  | some (c, u) => if t.psw.ml.toNat < classLevel c then some (c, u) else none
  | none => none

/-- Delivers the held tile-stream fault at the boundary where IP stands (R205, R208). -/
def State.deliverTile (s : State) (g : Nat) (c u : Nat) : State :=
  let t := s.thread g
  let s := s.setThread g { t with tile := { t.tile with held := none } }
  s.deliver g { code := c, sub := u, faddr := t.tile.faddr, fip := t.pc, fprog := 0, retIp := t.pc, level := none,
                gate := false }

/-- Delivers interrupt source `n` of level `l` with the return IP at IP and the given FPROG (R214, R227). The source
stays pending when the delivery ends in an emergency or wedges the thread (R221).
DEDUCED (log 59). -/
def State.deliverIrq (s : State) (g n l : Nat) (fprog : Word) : State :=
  let t := s.thread g
  let s' := s.deliver g { code := sourceCause n, sub := 0, faddr := BitVec.ofNat 64 (n + l * 2 ^ 16), fip := t.pc,
                          fprog := fprog, retIp := t.pc, level := some l, gate := false }
  if (s'.thread g).run == .wedged || ((s'.thread g).psw.ems && !t.psw.ems) ||
      bitsOf ((s'.thread g).sysNat Sys.cause) 7 0 == 0x15 then s'
  else match s.domOf g with
    | some d =>
      let own (p : Nat × RootPort) : Bool := decide (0x300 ≤ n) && (s'.domain d).ports.getLsbD p.1
      ({ s' with ports := s'.ports.map (fun p => if own p then (p.1, { p.2 with msi := p.2.msi.filter (· != n - 0x300) }) else p)
         } : State).onDomain d (fun x => x.setSrc n { x.src n with pend := false })
    | none => s'

/-- Delivers a trap: FIP the instruction it belongs to, return IP the instruction at IP (R203). -/
def State.deliverTrap (s : State) (g : Nat) (code sub : Nat) (fip faddr : Word) : State :=
  s.deliver g { code := code, sub := sub, faddr := faddr, fip := fip, fprog := 0, retIp := (s.thread g).pc,
                level := none, gate := false }

/-- Keeps a trap for the boundary at IP and sp, until it is delivered there (R232).
DESIGN CHOICE (log 10). -/
def Thread.keepTrap (t : Thread) (code sub : Nat) (fip faddr : Word) : Thread :=
  { t with traps := t.traps ++ [{ code := code, sub := sub, fip := fip, faddr := faddr, atIp := t.ip, atSp := t.sp }] }

/-- Is a kept trap one of the boundary at IP and sp? -/
def Trap.here (x : Trap) (t : Thread) : Bool := x.atIp == t.ip && x.atSp == t.sp

/-- The first kept trap of the boundary at which a thread stands (R232).
DESIGN CHOICE (log 10, 18). -/
def Thread.trapHere (t : Thread) : Option Trap := t.traps.find? (fun x => x.here t)

/-- Delivers a kept trap, which is then no longer kept. -/
def State.deliverKept (s : State) (g : Nat) (x : Trap) : State :=
  (s.onThread g (fun t => { t with traps := dropFirst (fun y => decide (y = x)) t.traps })).deliverTrap g x.code x.sub
    x.fip x.faddr

/-- The event that goes before the instruction at a boundary, when that raises no synchronous fault (R232): a deliverable
tile-stream fault, else the trap of the instruction before. -/
def State.boundaryEvent (s : State) (g : Nat) : Option State :=
  match (s.thread g).tileFaultDue with
  | some (c, u) => some (s.deliverTile g c u)
  | none => ((s.thread g).trapHere).map (fun x => s.deliverKept g x)

/-! ### Hardware errors (R238 to R240) -/

/-- The unit field of a hardware-error log record. -/
def HwErrorUnit (e : HwError) : Nat := e.unit % 256 * 256 + e.unitIdx % 256

/-- ESTAT with RESUMABLE, PRECISE and INHANDLER as a machine check leaves them. -/
def Thread.machineCheckStat (t : Thread) (clean : Bool) : Thread :=
  let e := t.sysNat Sys.estat
  t.sysSet Sys.estat (BitVec.ofNat 64 (setBits (setBits (setBits e 8 8 (natOf clean)) 9 9 (natOf clean)) 10 10 1))

/-- A machine check of a thread at a boundary (R239). One that arrives while ESTAT.INHANDLER is 1 wedges the thread, and the
record of that holds the CAUSE and ECAUSE which its delivery would have written (R222, R240, Table 14-11). -/
def State.machineCheck (s : State) (e : HwError) : State :=
  let g := e.thread
  let t := s.thread g
  let s := s.setThread g (t.addError s.timeBase e.unit e.unitIdx e.kind true e.corrupt e.paddr)
  let s := s.log 0x0006 (HwErrorUnit e)
    (leBytes 1 e.kind ++ leBytes 1 (natOf e.corrupt) ++ leBytes 1 g ++ leBytes 5 0 ++ leBytes 8 (e.paddr.getD 0))
  let made := (s.onThread g (fun t => t.machineCheckStat (!e.corrupt))).deliver g
      { code := 0x30, sub := if e.corrupt then 2 else 1, faddr := 0, fip := t.pc, fprog := 0, retIp := t.pc, level := none,
        gate := false }
  if bitOf (t.sysNat Sys.estat) 10 && (made.thread g).run != .wedged then
    s.wedge g ((made.thread g).sysNat Sys.cause) ((made.thread g).sysNat Sys.ecause)
  else made

/-- Delivers the oldest machine check that waited for a boundary of thread `g` (R232, R239). -/
def State.checkDue (s : State) (g : Nat) : Option State :=
  match (s.thread g).checks with
  | e :: r => some ((s.onThread g (fun t => { t with checks := r })).machineCheck { e with thread := g })
  | [] => none

/-- The Tussock member across whose failed link a passed access lies, if one does (R652).
DEDUCED (log 26). -/
def State.severed (s : State) (rs : List ByteRef) : Option Nat :=
  s.fabric.badPkgs.find? (fun m =>
    let b := FMap.get s.fabric.memberBase m 0 * 2 ^ 30
    rs.any (fun r => r.tgt == .dram && decide (b ≤ r.pa) && decide (r.pa < b + FMap.get s.fabric.members m 0 * 2 ^ 30)))

/-- The hardware error of a thread that reaches member `m` across a failed link (R652).
DEDUCED (log 26). -/
def severedError (g m : Nat) : HwError := { thread := g, unit := 7, unitIdx := m, kind := 4, corrupt := true, paddr := none }

end Sys2Proof.Machine
end

