-- ==== Sys2Proof/Machine/Operands.lean ====
section
/-!
DEFINITION. Framing and operand forms (R55 to R73): the fields of each form, the decoding checks in the order of R70
with the bytes read before each, fetch checks of those bytes, and the one frame in which every scalar instruction
issues and retires.
-/

namespace Sys2Proof

/-! ### Fields -/

/-- Operand forms of Table 2-5. -/
inductive Form where
  | n
  | b
  | r2
  | r3
  | ri
  | m
  | s
  deriving DecidableEq, Repr

/-- Operand bytes of a form. -/
def Form.bytes (f : Form) : Nat := match f with | .n => 0 | .b => 1 | .r2 => 2 | .r3 => 3 | .ri => 2 | .m => 3 | .s => 3

/-- Field [hi:lo] of the operand field. -/
def Insn.fld (x : Insn) (hi lo : Nat) : Nat := bitsOf x.opnd.toNat hi lo

/-- R3: destination, sources and function. M: data register, base, index. -/
def Insn.rd (x : Insn) : Nat := x.fld 23 18
def Insn.ra (x : Insn) : Nat := x.fld 17 12
def Insn.rb (x : Insn) : Nat := x.fld 11 6
def Insn.fn (x : Insn) : Nat := x.fld 5 0
/-- R2 and RI: destination and source. -/
def Insn.rd2 (x : Insn) : Nat := x.fld 15 10
def Insn.rs2 (x : Insn) : Nat := x.fld 9 4

/-- Is a prefix byte present? -/
def Insn.has (x : Insn) (b : Nat) : Bool := x.prefixes.any (fun p => p.toNat == b)

/-- The operand width in bits (R59). -/
def Insn.width (x : Insn) : Nat := if x.has 0xE0 then 32 else if x.has 0xE1 then 16 else if x.has 0xE2 then 8 else 64

/-- The flag-setting form (Table 2-1). -/
def Insn.sf (x : Insn) : Bool := x.has 0xE3

/-- The bytes a size code names (R64), none when reserved. -/
def sizeCode (c : Nat) : Option Nat :=
  match c with | 0 => some 0 | 1 => some 1 | 2 => some 2 | 3 => some 4 | 4 => some 8 | _ => none

/-- The bytes of the immediate or displacement of an instruction of a form, none when its size code is reserved.
DEDUCED (log 14). -/
def Insn.immBytes (x : Insn) (f : Form) : Option Nat :=
  match f with
  | .ri => sizeCode (x.fld 2 0)
  | .m => sizeCode (x.fld 2 0)
  | .b => some (match x.fld 7 6 with | 0 => 0 | 1 => 1 | 2 => 2 | _ => 4)
  | _ => some 0

/-- The low `8 n` bits of the immediate bytes, sign-extended or zero-extended to 64 bits. -/
def extendImm (v : Word) (n : Nat) (signed : Bool) : Word :=
  if n = 0 then 0
  else
    let lo := v.toNat % 2 ^ (8 * n)
    if signed && bitOf lo (8 * n - 1) then BitVec.ofNat 64 (lo + (2 ^ 64 - 2 ^ (8 * n))) else BitVec.ofNat 64 lo

/-- The immediate of form RI, extended as its S bit says (Table 2-5).
DEDUCED (log 14). -/
def Insn.immRI (x : Insn) : Word := extendImm x.imm ((x.immBytes .ri).getD 0) (bitOf x.opnd.toNat 3)

/-- The displacement of forms M and B, always sign-extended (R64). -/
def Insn.disp (x : Insn) (f : Form) : Word := extendImm x.imm ((x.immBytes f).getD 0) true

end Sys2Proof

namespace Sys2Proof.Machine

/-- Is a specifier an integer position's (R66)? -/
def isInt (r : Nat) : Bool := decide (r < 40)

/-- Is a specifier a floating-point position's (R66)? -/
def isFp (r : Nat) : Bool := decide (r < 32)

/-! ### What a row's opcode asks -/

/-- The framing facts of an opcode: two-byte opcode, form, size prefixes and SF permitted (Table 3-1), branch hints
permitted (Table 2-1), a size prefix required (R112), the subcode of an opcode that is illegal or unassigned (R61, R62),
whether the function of opcodes 0x90–0x9F is assigned (R117), and whether the operand fields are valid. -/
structure Op where
  two    : Bool
  form   : Form
  size   : Bool
  sf     : Bool
  hint   : Bool
  need   : Bool
  bad    : Option Nat
  fnOk   : Insn → Bool
  valid  : Insn → Bool

/-! ### The opcode maps (R61, R62, R111) -/

/-- The form of a one-byte opcode that a chapter assigns (Tables 2-2, 2-4 and 3-1), none for the others. -/
def form1 (op : Nat) : Option Form :=
  if 0x01 ≤ op ∧ op ≤ 0x05 then some .n
  else if 0x10 ≤ op ∧ op ≤ 0x1B then some .r3
  else if 0x30 ≤ op ∧ op ≤ 0x3F then some .b
  else if 0x40 ≤ op ∧ op ≤ 0x4A then some .ri
  else if (0x60 ≤ op ∧ op ≤ 0x62) ∨ (0x68 ≤ op ∧ op ≤ 0x71) then some .m
  else if op = 0x80 ∨ op = 0x84 ∨ (0x88 ≤ op ∧ op ≤ 0x8A) then some .b
  else if 0x90 ≤ op ∧ op ≤ 0x9F then some .r2
  else if (0xA0 ≤ op ∧ op ≤ 0xA6) ∨ (0xA8 ≤ op ∧ op ≤ 0xAA) ∨ (0xAC ≤ op ∧ op ≤ 0xAF) ∨ (0xC0 ≤ op ∧ op ≤ 0xC9) then some .r3
  else none

/-- The form of a second byte of the system map (0xF0) that a chapter assigns (Tables 2-3, 2-4, 4-7, 4-9). -/
def formF0 (op : Nat) : Option Form :=
  if 0x01 ≤ op ∧ op ≤ 0x05 then some .n
  else if op = 0x10 ∨ op = 0x11 then some .s
  else if 0x20 ≤ op ∧ op ≤ 0x27 then some .ri
  else if op = 0x40 ∨ op = 0x41 then some .m
  else none

/-- The form of a second byte of the extended map (0xF1) that a chapter assigns (Tables 3-1 and 3-9). -/
def formF1 (op : Nat) : Option Form := if op ≤ 0x0B then some .r3 else none

/-- The fault subcode of an opcode that no instruction has, and whether its second byte was read: 0x00 is illegal, 0xF2–0xFF
are reserved escapes, the rest unassigned. A prefix byte is no opcode. -/
def opcodeFault (op op2 : Byte) : Option (Nat × Bool) :=
  let n := op.toNat
  if n = 0 then some (0x01, false)
  else if 0xE0 ≤ n ∧ n < 0xF0 then none
  else if 0xF2 ≤ n then some (0x02, false)
  else if n = 0xF0 then (if (formF0 op2.toNat).isNone then some (0x02, true) else none)
  else if n = 0xF1 then (if (formF1 op2.toNat).isNone then some (0x02, true) else none)
  else if (form1 n).isNone then some (0x02, false) else none

/-- The first fault of the prefix loop of R70: subcode and bytes read. A byte outside 0xE0–0xEF ends the loop. -/
def prefixFault (ps seen : List Byte) (n : Nat) : Option (Nat × Nat) :=
  match ps with
  | [] => none
  | b :: r =>
    if b.toNat < 0xE0 ∨ 0xF0 ≤ b.toNat then none
    else if n = 4 then some (0x04, n + 1)
    else if seen.contains b then some (0x03, n + 1)
    else if b = 0xE7 ∨ 0xEA ≤ b.toNat then some (0x06, n + 1)
    else if (b = 0xE8 ∨ b = 0xE9) ∧ !seen.isEmpty then some (0x07, n + 1)
    else prefixFault r (b :: seen) (n + 1)

/-- Are the prefixes permitted with the opcode and with each other (R60, R112)? -/
def Op.prefixesOk (o : Op) (x : Insn) : Bool :=
  let size := x.has 0xE0 || x.has 0xE1 || x.has 0xE2
  let two := (x.has 0xE0 && x.has 0xE1) || (x.has 0xE0 && x.has 0xE2) || (x.has 0xE1 && x.has 0xE2)
  !two && !(x.has 0xE5 && x.has 0xE6) && (!size || o.size) && (!x.sf || o.sf) && (!x.has 0xE4 || o.form == .m) &&
    (!(x.has 0xE5 || x.has 0xE6) || o.hint) && (!o.need || size) && !(x.has 0xE8 || x.has 0xE9)

/-- Prefix and opcode bytes. -/
def Op.head (o : Op) (x : Insn) : Nat := x.prefixes.length + (if o.two then 2 else 1)

/-- The length of the instruction (R56); a reserved size code counts no immediate. -/
def Op.length (o : Op) (x : Insn) : Nat := o.head x + o.form.bytes + (x.immBytes o.form).getD 0

/-- The first decoding fault of the procedure of R70: its subcode and the bytes read when it is reached.
DEDUCED (log 12). -/
def Op.decodeFault (o : Op) (x : Insn) : Option (Nat × Nat) :=
  match prefixFault x.prefixes [] 0 with
  | some f => some f
  | none =>
    let first := o.head x + (if o.form.bytes = 0 then 0 else 1)
    match o.bad with
    | some c => some (c, o.head x)
    | none =>
    if !o.fnOk x then some (0x02, first)
    else match x.immBytes o.form with
    | none => some (0x08, first)
    | some k =>
      if 16 < o.head x + o.form.bytes + k then some (0x05, first)
      else if !o.prefixesOk x then some (0x07, first)
      else if !o.valid x then some (0x08, o.head x + o.form.bytes)
      else none

/-- The first byte of `[ip, ip + n)` that cannot be fetched (R73, R237): its fault. -/
def State.fetchFault (s : State) (g n : Nat) : Option Flt :=
  let t := s.thread g
  match s.check g t.ring Need.ifetch t.pc.toNat n with
  | .ok _ => none
  | .error e => some (Flt.mk' e.why.fetch.1 e.why.fetch.2 (BitVec.ofNat 64 e.va))

/-- The fetch or decoding fault of the instruction at IP (R70, R73): the first that the procedure reaches.
DEDUCED (log 5, 12). -/
def State.frontFault (s : State) (o : Op) (x : Insn) : Option Flt :=
  match o.decodeFault x with
  | some (sub, read) =>
    match s.fetchFault x.thread read with
    | some f => some f
    | none => some (Flt.mk' 0x01 sub 0)
  | none => s.fetchFault x.thread (o.length x)

/-! ### Breakpoints (R234, R235) -/

/-- The execute breakpoints that match the instruction at IP. -/
def Thread.execHits (t : Thread) : List Nat :=
  if t.psw.brs then []
  else (List.range 4).filter (fun n =>
    let c := t.sysNat (Sys.bpc n)
    bitOf c 0 && bitsOf c 2 1 == 0 && bitOf c (8 + t.ring) && t.sysNat (Sys.bpa n) == t.pc.toNat)

/-- The data breakpoints that match an access to `[va, va + n)`. -/
def Thread.dataHits (t : Thread) (store : Bool) (va n : Nat) : List Nat :=
  (List.range 4).filter (fun k =>
    let c := t.sysNat (Sys.bpc k)
    let len := 2 ^ bitsOf c 4 3
    let lo := t.sysNat (Sys.bpa k) / len * len
    bitOf c 0 && (bitsOf c 2 1 == 2 || (store && bitsOf c 2 1 == 1)) && bitOf c (8 + t.ring) &&
      decide (va < lo + len) && decide (lo < va + n))

/-- Sets DBGSTAT.HIT bits. -/
def Thread.noteHits (t : Thread) (l : List Nat) : Thread :=
  if l.isEmpty then t
  else t.sysSet Sys.dbgstat (l.foldl (fun w n => w ||| BitVec.ofNat 64 (2 ^ n)) (t.sysGet Sys.dbgstat))

/-! ### Issue and retirement -/

/-- What the effect of an instruction came to. -/
inductive Fin where
  /-- It completed: the state, the address of the next instruction (none: the one after it), the performance events
  beyond INST_RETIRED, whether a data breakpoint matched, and whether the instruction itself set PSW. -/
  | done (s : State) (next : Option Word) (evs : List Nat) (db psw : Bool)
  /-- It completed as a WRSR of register `n`, whose write wins over the counting of its own retirement (R29). -/
  | wrote (s : State) (n : Nat)
  /-- It completed with control and PSW set by itself; a single-step trap follows with the FIP given (R236). -/
  | turn (s : State) (next : Word) (evs : List Nat) (step : Option Word)
  /-- It completed and raises breakpoint trap 0x17 with subcode 0x01 (R233). -/
  | brk (s : State)
  /-- It raised a fault; the state holds what stays done. -/
  | flt (f : Flt) (s : State)
  /-- It holds at retirement. -/
  | hold (h : Hold)
  /-- It holds, and what it asked for stays asked: a line of Loam, a cached line. -/
  | stall (h : Hold) (s : State)
  /-- A takeable interrupt ended or abandoned it; the state holds what stays done, and FPROG. -/
  | irq (s : State) (fprog : Word)
  /-- It stays the oldest instruction of its thread until another command ends its wait (TINV, GREVOKE). -/
  | wait (s : State)
  /-- The frame push of a GATE would pass SLIM (R167): the lowest byte of the frame, and what stays done. -/
  | gateLimit (at_ : Word) (s : State)
  /-- A data breakpoint stopped it at a progress point (R235); the state holds what stays done. -/
  | part (s : State)
  deriving DecidableEq, Repr

/-- An opcode without prefixes of its own, function codes or hints, in form `f`. -/
def Op.plain (two : Bool) (f : Form) (valid : Insn → Bool) : Op :=
  { two := two, form := f, size := false, sf := false, hint := false, need := false, bad := none, fnOk := fun _ => true,
    valid := valid }

/-- Is an end a synchronous fault of its instruction, raised before any other event of its boundary (R232)?
DESIGN CHOICE (log 10). -/
def Fin.faults (r : Fin) : Bool := match r with | .flt _ _ => true | .gateLimit _ _ => true | _ => false

/-- Does an end retire the instruction? -/
def Fin.retires (r : Fin) : Bool :=
  match r with | .done _ _ _ _ _ => true | .wrote _ _ => true | .turn _ _ _ _ => true | .brk _ => true | _ => false

/-- Completion with nothing beyond the next instruction. -/
def Fin.ok (s : State) : Fin := .done s none [] false false

/-- Records why a thread's oldest command holds. -/
def State.holdAt (s : State) (g : Nat) (h : Hold) : State := s.onThread g (fun t => { t with hold := h })

/-- Does some counter of the thread select micro-ops? -/
def Thread.countsUops (t : Thread) : Bool :=
  bitOf (t.sysNat Sys.pmctl) 0 && (List.range 8).any (fun n =>
    bitOf (t.sysNat (Sys.pmsel n)) 12 && bitsOf (t.sysNat (Sys.pmsel n)) 7 0 == 2)

/-- Counts a retired instruction and its events at the ring it retired at (R277).
DESIGN CHOICE (log 25). -/
def State.countRetired (s : State) (g ring : Nat) (evs : List Nat) : State :=
  let s := s.onThread g (fun t => evs.foldl (fun t e => t.countEvent ring e 1) (t.countEvent ring 0x01 1))
  if (s.thread g).countsUops then
    let n := Config.microOps s.free
    { s with free := s.free + 1 }.onThread g (fun t => t.countEvent ring 0x02 n)
  else s

/-- A retired branch trains the predictors of its core for its domain (R258).
DESIGN CHOICE (log 61). -/
def State.trainPredictor (s : State) (g : Nat) : State :=
  match s.domOf g with
  | some d => s.onCore (g / 2) (fun c => if c.bpTags.contains d then c else { c with bpTags := c.bpTags ++ [d] })
  | none => s

/-- A retired load trains the prefetchers of its core for its domain (R254, R258).
DESIGN CHOICE (log 61). -/
def State.trainPrefetcher (s : State) (g : Nat) : State :=
  match s.domOf g with
  | some d => s.onCore (g / 2) (fun c => if c.pfTags.contains d then c else { c with pfTags := c.pfTags ++ [d] })
  | none => s

/-- The bookkeeping of a retired instruction that was at `ip` and is `len` bytes long: IP, BRS, hold, predictors, counters. A
branch that was found mispredicted counts so as it retires (R277). -/
def State.retired (s : State) (g : Nat) (ring : Nat) (nextIp : Word) (evs : List Nat) (psw : Bool) : State :=
  let branch := evs.contains 0x03
  let missed := branch && (s.thread g).misp
  let s := s.onThread g (fun t =>
    { t.setIp nextIp with
      hold := if t.stq.isSome then t.hold else .none, prog := 0, misp := t.misp && !branch,
      psw := if psw then t.psw else { t.psw with brs := false } })
  let s := if branch then s.trainPredictor g else s
  (if evs.contains 0x05 then s.trainPrefetcher g else s).countRetired g ring (if missed then 0x04 :: evs else evs)

/-- The trap an instruction raised at its end (R235, R236), due at the boundary after it: a data breakpoint, else single step
when SS was 1. -/
def State.endTraps (s : State) (g : Nat) (ip : Word) (ss db : Bool) : State :=
  if db then
    s.onThread g (fun t =>
      (if ss then t.sysSet Sys.dbgstat (t.sysGet Sys.dbgstat ||| 0x10) else t).keepTrap 0x17 3 ip 0)
  else if ss then
    s.onThread g (fun t => (t.sysSet Sys.dbgstat (t.sysGet Sys.dbgstat ||| 0x10)).keepTrap 0x18 1 ip 0)
  else s

/-- The counter, or the counters' control, that a WRSR wrote holds what it wrote: the counting of that cycle is lost, its
wrap included (R29). `v` is the thread before the counting. -/
def Thread.keepWritten (t v : Thread) (n : Nat) : Thread :=
  if n = Sys.pmctl then t.sysSet n (v.sysGet n)
  else if 0x710 ≤ n ∧ n < 0x718 then
    (t.sysSet n (v.sysGet n)).sysSet Sys.pmctl
      (BitVec.ofNat 64 (setBits (t.sysNat Sys.pmctl) (n - 0x708) (n - 0x708) (bitsOf (v.sysNat Sys.pmctl) (n - 0x708) (n - 0x708))))
  else t

/-- What an instruction's effect leaves (its end): retirement, a fault, a hold or an interrupt. `s` is the state it
started in; `ss` says whether a single-step trap follows. -/
def State.conclude (s : State) (g len : Nat) (ss : Bool) (r : Fin) : State :=
  let t := s.thread g
  match r with
  | .done s' next evs db psw =>
    (s'.retired g t.ring (next.getD (t.pc + BitVec.ofNat 64 len)) evs psw).endTraps g t.pc ss db
  | .wrote s' n =>
    let v := s'.thread g
    ((s'.retired g t.ring (t.pc + BitVec.ofNat 64 len) [] (n == 0x100)).onThread g (fun u => u.keepWritten v n)).endTraps g
      t.pc ss false
  | .turn s' next evs step =>
    let s' := s'.retired g t.ring next evs true
    match step with
    | some fip => s'.endTraps g fip true false
    | none => s'
  | .brk s' =>
    let s' := s'.retired g t.ring (t.pc + BitVec.ofNat 64 len) [] false
    (s'.onThread g (fun u => u.keepTrap 0x17 1 t.pc 0)).endTraps g t.pc ss false
  | .flt f s' => s'.fault g f
  | .hold h => s.holdAt g h
  | .stall h s' => s'.holdAt g h
  | .irq s' fprog =>
    match s'.nextIrq g with
    | some (n, l) => s'.deliverIrq g n l fprog
    | none => s'
  | .part s' => s'.onThread g (fun u => u.keepTrap 0x17 3 t.pc 0)
  | .wait s' => s'
  | .gateLimit a s' =>
    (s'.squash g).emergency g
      { code := 0, sub := 0, faddr := a, fip := t.pc, fprog := 0, retIp := t.pc, level := none, gate := true } 0x01 0 0

/-- What the fetch of `n` bytes at IP leaves once its instruction retires: its lines in L1I and L2, accessed bits and translations
(R158, R272, R442). -/
def State.fetched (s : State) (g n : Nat) : State :=
  let t := s.thread g
  match s.check g t.ring Need.ifetch t.pc.toNat n with
  | .ok rs =>
    let s := s.obtainSome (g / 2) ((s.domOf g).getD 64) .fetch rs
    let rom := ((rs.filter (fun r => r.tgt == .rom)).map (fun r => (r.pa / 64, 0))).eraseDups
    let s := rom.foldl (fun s k => ((s.l3Fill ((s.domOf g).getD 64) k.1 k.2).install2 (g / 2) k .shared).getD s) s
    (s.onCore (g / 2) (fun c => { c with l1i := rom.foldl l1Put c.l1i })).useRefs g false rs
  | .error _ => s

/-- The instruction at the boundary of a thread (R232): a waiting machine check first, then the synchronous fault of the
instruction (of its fetch and decoding, given as `front`, of an execute breakpoint, or of its effect `body`), then a
deliverable tile-stream fault, then the trap of the instruction before, else what its effect comes to. It holds at decode while
the reorder buffer keeps its entries for the other thread (R263, R285).
The fetch or decoding fault comes before the execute breakpoint.
DESIGN CHOICE (log 10, 65). -/
def State.runAt (s : State) (g len : Nat) (front : Option Flt) (body : State → Fin) : State :=
  let t := s.thread g
  if !s.decodes g then s.holdAt g .coreBound
  else
  let fault : Option State := match front with
    | some f => some (s.fault g f)
    | none =>
      if !t.execHits.isEmpty then some ((s.onThread g (fun t => t.noteHits t.execHits)).fault g (Flt.mk' 0x17 2 0))
      else if (body s).faults then some (s.conclude g len t.psw.ss (body s)) else none
  match (s.checkDue g).orElse (fun _ => fault.orElse (fun _ => s.boundaryEvent g)) with
  | some s' => if t.deliveryWaits then s.holdAt g .fence else s'
  | none =>
    if (body s).retires then s.conclude g len t.psw.ss (body (s.fetched g len)) else s.conclude g len t.psw.ss (body s)

/-- Issues a scalar instruction: nothing while the thread does not issue.
DEDUCED (log 11). -/
def State.issue (s : State) (o : Op) (x : Insn) (body : State → Fin) : State :=
  let g := x.thread
  if decide (g < 256) && (s.thread g).issues then s.runAt g (o.length x) (s.frontFault o x) body else s

/-- The address of the instruction after `x`. -/
def State.after (s : State) (o : Op) (x : Insn) : Word := (s.thread x.thread).pc + BitVec.ofNat 64 (o.length x)

/-! ### Effective addresses (R66, R67) -/

/-! ### Joining the tile stream -/

/-- The fault a joining instruction raises on a stopped stream: the held fault, which is then no longer held, else the
one TPROG records (R205, R309). -/
def State.joinFault (s : State) (g : Nat) : Option (Flt × State) :=
  let t := s.thread g
  if t.stopped then
    match t.tile.held with
    | some (c, u) =>
      some (Flt.mk' c u t.tile.faddr, s.setThread g { t with tile := { t.tile with held := none } })
    | none => some (Flt.mk' (bitsOf (t.sysNat Sys.tprog) 39 32) (bitsOf (t.sysNat Sys.tprog) 47 40) t.tile.faddr, s)
  else none

/-- What a scalar access comes to behind a store to control space that holds in the store queue (R461), or behind a TFENCE (R304,
R309); none when it waits for neither. -/
def State.fenceWait (s : State) (g : Nat) : Option Fin :=
  if (s.thread g).stq.isSome then some (.hold (s.thread g).hold)
  else if (s.thread g).fenced then
    match s.joinFault g with
    | some (f, s') => some (.flt f s')
    | none => some (.hold .fence)
  else none

/-- The same for an instruction that makes an access only when `access` holds: a spill, a fill or a frame. -/
def State.fenceFor (s : State) (g : Nat) (access : Bool) : Option Fin := if access then s.fenceWait g else none

end Sys2Proof.Machine

namespace Sys2Proof

open Sys2Proof.Machine in
/-- Are the fields of form M valid (R66): base a register or 63, index 0 without X? -/
def Insn.memValid (x : Insn) : Bool :=
  isInt x.rd && (isInt x.ra || x.ra == 63) && isInt x.rb && (bitOf x.opnd.toNat 3 || x.rb == 0)

end Sys2Proof

namespace Sys2Proof.Machine

/-- The effective address of form M, modulo 2^64; base 63 names the address of the next instruction. -/
def State.ea (s : State) (o : Op) (x : Insn) : Word :=
  let t := s.thread x.thread
  let base := if x.ra = 63 then s.after o x else t.reg x.ra
  let idx := if bitOf x.opnd.toNat 3 then t.reg x.rb * BitVec.ofNat 64 (2 ^ x.fld 5 4) else 0
  base + idx + x.disp .m

/-- Writes an integer result at width `w`: the low `w` bits, the rest zero (R59). -/
def State.setInt (s : State) (g r w : Nat) (v : Nat) : State :=
  s.onThread g (fun t => t.setReg r (BitVec.ofNat 64 (v % 2 ^ w)))

end Sys2Proof.Machine
end

