-- ==== Sys2Proof/Machine/SysRegs.lean ====
section
/-!
DEFINITION. System registers by number (Table 1-8): which are allocated, the rings that read and write them (R45, R46,
R207, R276, R292), what each reads as, and what a write of each sets (access codes of Table 0-2).
-/

namespace Sys2Proof.Machine

/-- Is a system register number allocated (R46, R185, R238, R291)? -/
def sysAllocated (n : Nat) : Bool :=
  decide (n ≤ 0x007) || n == 0x100 || n == 0x101 || (decide (0x104 ≤ n) && decide (n ≤ 0x112)) ||
  (decide (0x200 ≤ n) && decide (n ≤ 0x205)) || (decide (0x300 ≤ n) && decide (n ≤ 0x303)) ||
  (decide (0x310 ≤ n) && decide (n ≤ 0x32F) && n % 4 != 3) || (decide (0x400 ≤ n) && decide (n ≤ 0x403)) ||
  (decide (0x500 ≤ n) && decide (n ≤ 0x50E)) || (decide (0x510 ≤ n) && decide (n ≤ 0x517)) ||
  (decide (0x600 ≤ n) && decide (n ≤ 0x603)) || n == 0x700 || (decide (0x708 ≤ n) && decide (n ≤ 0x717)) ||
  (decide (0x800 ≤ n) && decide (n ≤ 0x808)) || (decide (0xF00 ≤ n) && decide (n ≤ 0xF10)) ||
  (decide (0xF20 ≤ n) && decide (n ≤ 0xF28))

/-- The least privileged ring that reads a register outside Table 5-3 (Tables 1-8, 7-2, 17-2, R276). -/
def Thread.sysReadRing (t : Thread) (n : Nat) : Nat :=
  if n < 0x100 ∨ n = 0x302 ∨ n = 0x303 ∨ (0x310 ≤ n ∧ n < 0x330) ∨ n = 0x600 ∨ n = 0x603 then 3
  else if 0x500 ≤ n ∧ n < 0x518 then (if n = 0x50B ∨ n = 0x50E then 0 else 3)
  else if 0x710 ≤ n ∧ n < 0x718 then (if bitOf (t.sysNat Sys.pmctl) 1 then 3 else 0)
  else 0

/-- Is a register without any field that WRSR sets? Its write is ignored at every ring (R46). -/
def sysReadOnly (n : Nat) : Bool :=
  decide (n < 0x100) || n == 0x302 || n == 0x303 || (decide (0x310 ≤ n) && decide (n < 0x330)) ||
  (decide (0x508 ≤ n) && decide (n ≤ 0x50A)) || (decide (0x510 ≤ n) && decide (n < 0x518)) || n == 0x600 ||
  n == 0x603 || (decide (0xF00 ≤ n) && decide (n < 0xF10) && n % 2 == 1) || decide (0xF20 ≤ n)

/-- The least privileged ring that writes a register with a writable field. -/
def sysWriteRing (n : Nat) : Nat := if 0x501 ≤ n ∧ n ≤ 0x507 then 3 else 0

/-- Registers that PL1–PL3 reach only with NTXEN = 1 (R292). -/
def sysNeedsNtx (n : Nat) : Bool :=
  (decide (0x501 ≤ n) && decide (n ≤ 0x50A)) || (decide (0x510 ≤ n) && decide (n ≤ 0x517))

/-- The fault of an RDSR or WRSR by its register number and ring (R46, R207, R292), if any. -/
def Thread.sysFault (t : Thread) (n : Nat) (write : Bool) : Option Flt :=
  if !sysAllocated n then some (Flt.mk' 0x01 0x09 0)
  else if t.ring ≠ 0 ∧ sysNeedsNtx n ∧ t.sysNat Sys.ntxen = 0 then some (Flt.mk' 0x10 0x00 0)
  else if write then
    if sysReadOnly n then none
    else if sysWriteRing n < t.ring then some (Flt.mk' 0x02 0x02 0) else none
  else if 0x200 ≤ n ∧ n < 0x300 then
    if bitsOf (t.sysNat Sys.cause) 17 16 < t.ring then some (Flt.mk' 0x02 0x03 0) else none
  else if t.sysReadRing n < t.ring then some (Flt.mk' 0x02 0x02 0)
  else none

/-! ### Reads -/

/-- FEAT0–FEAT3, Tables 2-13 to 2-16. -/
def featWord (n : Nat) : Nat :=
  match n with
  | 0 => 1 + 0xFF * 2 ^ 4 + 8 * 2 ^ 12 + 0x10 * 2 ^ 16 + 4 * 2 ^ 21
  | 1 => 0xFF + 0x7F * 2 ^ 8 + 0x20 * 2 ^ 16 + 0x08 * 2 ^ 24 + 0x10 * 2 ^ 32 + 0x10 * 2 ^ 40
  | 2 => 0x30 + 0x34 * 2 ^ 8 + 7 * 2 ^ 16 + 0x10 * 2 ^ 20 + 2 ^ 28 + 0x40 * 2 ^ 32
  | _ => 0x40 + 8 * 2 ^ 8 + 0x1000 * 2 ^ 16 + 0x400 * 2 ^ 32 + 4 * 2 ^ 44 + 0x10 * 2 ^ 48

/-- IDENT, Table 2-17. -/
def State.identWord (s : State) (g : Nat) : Nat :=
  g / 2 % 128 + g % 2 * 2 ^ 7 + g / 4 % 64 * 2 ^ 8 + s.pins.tussockId.toNat * 2 ^ 14

/-- The free entries of a Grant Store: 4,095 less those in use (Table 4-9). -/
def GrantStore.free (st : GrantStore) : Nat := 4095 - (st.entries.filter (fun p => p.2.inUse)).length

/-- GSTAT, Table 4-9. -/
def State.gstatWord (s : State) (g : Nat) : Nat :=
  natOf (s.thread g).draining +
    (match s.domOf g with | some d => (s.domain d).store.free * 2 ^ 16 | none => 0)

/-- GWnH, GWnB and GWnL, Table 4-11. -/
def Thread.gwWord (t : Thread) (n : Nat) : Nat :=
  match FMap.find t.gw ((n - 0x310) / 4) with
  | none => 0
  | some w =>
    match n % 4 with
    | 0 => w.index + w.gen * 2 ^ 12 + w.kind * 2 ^ 32 + w.rights.toNat * 2 ^ 36 + 2 ^ 44
    | 1 => if w.kind ≤ 3 then w.base else 0
    | _ => if w.kind ≤ 3 then w.limit else 0

/-- The Sward duty in force: the lower of the throttles', 2/16 while its rail is faulted or above 105 °C (R709, R715,
R727). -/
def TileClk.duty (c : TileClk) : Nat := if c.vreg || decide (1680 < c.temp) then 2 else min c.dutyPwr c.dutyTh

/-- Does the tile carry a thermal step (R709)? -/
def TileClk.thermal (c : TileClk) : Bool := decide (c.dutyTh < 16) || decide (0 < c.divTh)

/-- CCLKSTAT, Table 17-2.
DESIGN CHOICE (log 53). -/
def State.cclkstatWord (s : State) (g : Nat) : Nat :=
  let c := s.clk (g / 4)
  c.req + c.eff * 4 + c.duty * 2 ^ 4 + natOf (decide (c.dutyPwr < 16) || decide (0 < c.divPwr)) * 2 ^ 9 +
    natOf (c.thermal || decide (1680 < c.temp)) * 2 ^ 10 + natOf s.smc.prochotIn * 2 ^ 11 +
    natOf (c.vreg || c.held) * 2 ^ 12

/-- What a register reads as. -/
def State.sysRead (s : State) (g n : Nat) : Word :=
  let t := s.thread g
  if n ≤ 3 then BitVec.ofNat 64 (featWord n)
  else if n = 4 then BitVec.ofNat 64 (s.identWord g)
  else if n = 5 then BitVec.ofNat 64 ((s.domOf g).getD 0)
  else if n = 6 then 0xB07128
  else if n = 7 then BitVec.ofNat 64 s.fabric.node
  else if n = 0x100 then t.psw.toWord
  else if n = 0x302 then BitVec.ofNat 64 (s.gstatWord g)
  else if 0x310 ≤ n ∧ n < 0x330 then BitVec.ofNat 64 (t.gwWord n)
  else if n = Sys.wstat then t.sysGet n + BitVec.ofNat 64 t.res
  else if n = Sys.tctl then
    BitVec.ofNat 64 (setBits (t.sysNat n) 9 8 (s.core (g / 2)).mode)
  else if n = 0x508 then t.tile.inuse.zeroExtend 64
  else if n = 0x600 then BitVec.ofNat 64 s.timeBase
  else if n = 0x603 then BitVec.ofNat 64 (s.cclkstatWord g)
  else t.sysGet n

/-! ### Writes -/

/-- The bits of a register that a write sets: its RW fields, and its LK fields while unlocked. -/
def sysMask (n : Nat) : Nat :=
  if n = 0x101 then 0xFFFFFFF0F
  else if (0x104 ≤ n ∧ n ≤ 0x10B) ∨ n = 0x111 then 0xFFFFFFFFFFFF
  else if 0x10C ≤ n ∧ n ≤ 0x10F then 0xFFFFFFFFFFC0
  else if n = 0x110 then 0xFFFFFFFFC000
  else if n = 0x112 then 0xFFFFFFFFFF001
  else if n = 0x200 then 0x3FFFF
  else if n = 0x201 ∨ n = 0x203 ∨ n = 0x205 ∨ n = 0x601 then 0xFFFFFFFFFFFFFFFF
  else if n = 0x202 then 0xFFFFFFFFFFFF
  else if n = 0x204 then 0x1FFFF
  else if n = 0x300 then 0xFFFFFFFFFF000
  else if n = 0x400 ∨ n = 0x401 then 0xFFFFFFFFFFC0
  else if n = 0x402 then 0xFFFFFFFF00
  else if n = 0x403 ∨ n = 0x500 ∨ n = 0x602 then 1
  else if n = 0x501 then 0x37F
  else if n = 0x502 then 0xFFFFFFFF00000007
  else if n = 0x503 then 0x3FFFF0003FFFF
  else if 0x504 ≤ n ∧ n ≤ 0x507 then 0xFFFFFFFF
  else if n = 0x50B then 0xFFFFFFFFF000
  else if n = 0x50C then 0x7F000
  else if n = 0x50D then 0xFF000
  else if n = 0x50E then 0x7FFFFFFFFFFF003
  else if n = 0x700 then 3
  else if 0x708 ≤ n ∧ n ≤ 0x70F then 0x1FFF
  else if 0x710 ≤ n ∧ n ≤ 0x717 then 0xFFFFFFFFFFFF
  else if 0x800 ≤ n ∧ n ≤ 0x803 then 0xFFFFFFFFFFFF
  else if 0x804 ≤ n ∧ n ≤ 0x807 then 0xF1F
  else if n = 0xF10 then 0x400
  else 0

/-- The value of a register after its masked bits take `v`. -/
def maskWrite (old v : Word) (mask : Nat) : Word :=
  (old &&& ~~~ BitVec.ofNat 64 mask) ||| (v &&& BitVec.ofNat 64 mask)

/-- Event codes that are not reserved (Table 6-7).
DESIGN CHOICE (log 25). -/
def eventKnown (e : Nat) : Bool := (decide (1 ≤ e) && decide (e ≤ 0x0B)) || (decide (0x40 ≤ e) && decide (e ≤ 0x48))

/-- The bits of a write that a reserved encoding leaves unset (R19). -/
def sysKeep (n : Nat) (v : Word) : Nat :=
  if n = Sys.tsblim then (if 0x80 < bitsOf v.toNat 19 12 then 0xFF000 else 0)
  else if 0x708 ≤ n ∧ n ≤ 0x70F then (if eventKnown (bitsOf v.toNat 7 0) then 0 else 0xFF)
  else if 0x804 ≤ n ∧ n ≤ 0x807 then (if bitsOf v.toNat 2 1 = 3 then 6 else 0)
  else 0

/-- The position of the next full error record after `i`, looking at `n` more, none when there is none.
DESIGN CHOICE (log 60). -/
def Thread.nextFull (t : Thread) (i n : Nat) : Option Nat :=
  match n with
  | 0 => none
  | k + 1 => let j := (i + 1) % 8; if bitOf (t.sysNat (Sys.erra j)) 0 then some j else t.nextFull j k

/-- Frees error record `i` (Table 5-13): FULL and COUNT, and OLDEST when it was the oldest.
DESIGN CHOICE (log 60). -/
def Thread.freeRecord (t : Thread) (i : Nat) : Thread :=
  if bitOf (t.sysNat (Sys.erra i)) 0 then
    let t := t.sysSet (Sys.erra i) (t.sysGet (Sys.erra i) &&& ~~~ (1 : Word))
    let e := t.sysNat Sys.estat
    let e' := setBits e 6 3 (bitsOf e 6 3 - 1)
    let e'' := if bitsOf e 2 0 = i then setBits e' 2 0 ((t.nextFull i 7).getD i) else e'
    t.sysSet Sys.estat (BitVec.ofNat 64 e'')
  else t

/-- GTL as a write leaves it (Table 4-4): COUNT unless locked or above 1,024, then LOCK set by a 1 (R31, R32). -/
def gtlWrite (old v : Nat) : Nat :=
  let c := if bitOf old 63 || decide (1024 < bitsOf v 10 0) then bitsOf old 10 0 else bitsOf v 10 0
  c + natOf (bitOf old 63 || bitOf v 63) * 2 ^ 63

/-- A WRSR of a register that takes effect under R98.
DESIGN CHOICE (log 19). -/
def State.sysWrite (s : State) (g n : Nat) (v : Word) : State :=
  let t := s.thread g
  if sysReadOnly n then s
  else if n = 0x100 then s.setThread g { t with psw := Psw.ofWord v }
  else if n = Sys.gtb then
    if bitOf (t.sysNat Sys.gtl) 63 then s else s.setThread g (t.sysSet n (maskWrite 0 v (sysMask n)))
  else if n = Sys.gtl then s.setThread g (t.sysSet n (BitVec.ofNat 64 (gtlWrite (t.sysNat n) v.toNat)))
  else if n = Sys.xlate then
    (s.setThread g (t.sysSet n (maskWrite 0 v (sysMask n)))).onCore (g / 2) (fun c =>
      { c with tlb := c.tlb.filter (fun e => !(s.domOf g == some e.dom)) })
  else if n = Sys.pmctl then
    s.setThread g (t.sysSet n (maskWrite (t.sysGet n) v 3 &&& ~~~ (v &&& 0xFF00)))
  else if n = Sys.dbgstat then s.setThread g (t.sysSet n (t.sysGet n &&& ~~~ (v &&& 0x1F)))
  else if 0xF00 ≤ n ∧ n < 0xF10 then
    if bitOf v.toNat 0 then s else s.setThread g (t.freeRecord ((n - 0xF00) / 2))
  else s.setThread g (t.sysSet n (maskWrite (t.sysGet n) v (sysMask n &&& (2 ^ 64 - 1 - sysKeep n v))))

/-- The tile registers whose WRSR enters the Tile Queue (R293). -/
def sysQueued (n : Nat) : Bool := decide (0x501 ≤ n) && decide (n ≤ 0x507) 

/-- Puts an entry into the thread's Tile Queue (R302). -/
def Thread.enqueue (t : Thread) (e : TqEntry) : Thread := { t with tile := { t.tile with queue := t.tile.queue ++ [e] } }

/-- Is the thread's Tile Queue full (R302)? -/
def Thread.tqFull (t : Thread) : Bool := decide (32 ≤ t.tile.queue.length)

end Sys2Proof.Machine
end

