-- ==== Sys2Proof/Machine/Access.lean ====
section
/-!
DEFINITION. Scalar accesses to normal and PCIe memory: the wait behind a TFENCE (R304, R309), the load and the store,
atomics (R134 to R137) and MOVS (R124 to R128).
-/

namespace Sys2Proof.Machine

/-- The events of a load whose data come from beyond L1D, and from beyond L2 (Table 6-7); a load that held for a line of Loam got
it through a fill buffer. -/
def State.missEvents (s : State) (g : Nat) (rs : List ByteRef) : List Nat :=
  let c := s.core (g / 2)
  let ks := (dramLines rs).map (fun l => (l, dramTag)) ++ (rs.filterMap (fun r => s.tagged g false r)).map (·.1)
  if (s.thread g).hold = .loam then [0x06, 0x07]
  else (if ks.any (fun k => !c.l1d.contains k) then [0x06] else []) ++
    (if ks.any (fun k => !c.l2use.contains k) then [0x07] else [])

/-! ### Atomics -/

/-- The framing of the atomics (Table 3-1, form M). -/
def opAtomic (valid : Insn → Bool) : Op :=
  { Op.plain false .m (fun x => x.memValid && valid x) with size := true }

/-- Marks data-breakpoint hits of an access and says whether any matched (R235). -/
def State.noteAccess (s : State) (g : Nat) (store : Bool) (va n : Nat) : State × Bool :=
  let h := (s.thread g).dataHits store va n
  (s.onThread g (fun t => t.noteHits h), !h.isEmpty)

/-- An atomic: `f` takes the old value, the data register and the next one and gives the new value, all at the width
(R134), its line held in M (R456, R477). A misaligned one raises 0x07/0x01 (R136) before it would wait behind a TFENCE.
DEDUCED (log 15, 26). -/
def State.atomic (s : State) (x : Insn) (valid : Insn → Bool) (f : Nat → Nat → Nat → Nat → Nat) : State :=
  s.issue (opAtomic valid) x (fun s =>
    let g := x.thread
    let t := s.thread g
    let va := s.ea (opAtomic valid) x
    let n := x.width / 8
    if va.toNat % n ≠ 0 then .flt (Flt.mk' 0x07 0x01 va) s
    else match s.fenceWait g with
    | some r => r
    | none =>
      match s.check g t.ring Need.rmw va.toNat n with
      | .error e => .flt e.flt s
      | .ok rs =>
        match s.severed rs with
        | some m => .wait (s.machineCheck (severedError g m))
        | none =>
        let old := leNat (s.refBytes g rs)
        let new := f x.width old ((t.reg x.rd).toNat % 2 ^ x.width) ((t.reg (x.rd + 1)).toNat % 2 ^ x.width)
        let evs := s.missEvents g rs
        match s.storeVia g .store rs (leBytes n new) with
        | none => .stall (s.lineHold (g / 2) rs) s
        | some s =>
        let s := (s.setInt g x.rd x.width old).storeOverlap g va.toNat n
        let (s, hit) := s.noteAccess g true va.toNat n
        .done s none ([0x05, 0x09] ++ evs) hit false)

/-- SWAP, 0x68. -/
def execSwap (x : Insn) (s : State) : Host.Outcome State Fault Refusal :=
  .next (s.atomic x (fun _ => true) (fun _ _ d _ => d))

/-- CAS, 0x69: the data register is one of w0–w30 (R135). -/
def execCas (x : Insn) (s : State) : Host.Outcome State Fault Refusal :=
  .next (s.atomic x (fun x => decide (x.rd ≤ 30)) (fun _ old d e => if old = d then e else old))

/-- AADD, 0x6A. -/
def execAadd (x : Insn) (s : State) : Host.Outcome State Fault Refusal :=
  .next (s.atomic x (fun _ => true) (fun w old d _ => (old + d) % 2 ^ w))

/-- AAND, 0x6B. -/
def execAand (x : Insn) (s : State) : Host.Outcome State Fault Refusal :=
  .next (s.atomic x (fun _ => true) (fun _ old d _ => old &&& d))

/-- AOR, 0x6C. -/
def execAor (x : Insn) (s : State) : Host.Outcome State Fault Refusal :=
  .next (s.atomic x (fun _ => true) (fun _ old d _ => old ||| d))

/-- AXOR, 0x6D. -/
def execAxor (x : Insn) (s : State) : Host.Outcome State Fault Refusal :=
  .next (s.atomic x (fun _ => true) (fun _ old d _ => old ^^^ d))

/-- AMAX, 0x6E: signed. -/
def execAmax (x : Insn) (s : State) : Host.Outcome State Fault Refusal :=
  .next (s.atomic x (fun _ => true) (fun w old d _ => if signedOf w old < signedOf w d then d else old))

/-- AMAXU, 0x6F. -/
def execAmaxu (x : Insn) (s : State) : Host.Outcome State Fault Refusal :=
  .next (s.atomic x (fun _ => true) (fun _ old d _ => max old d))

/-- AMIN, 0x70: signed. -/
def execAmin (x : Insn) (s : State) : Host.Outcome State Fault Refusal :=
  .next (s.atomic x (fun _ => true) (fun w old d _ => if signedOf w d < signedOf w old then d else old))

/-- AMINU, 0x71. -/
def execAminu (x : Insn) (s : State) : Host.Outcome State Fault Refusal :=
  .next (s.atomic x (fun _ => true) (fun _ old d _ => min old d))

/-! ### MOVS -/

/-- The framing of MOVS: three distinct integer registers, none k0 (R124). -/
def opMovs : Op :=
  Op.plain false .r3 (fun x => validR3Regs x && x.fn == 0)
where
  validR3Regs (x : Insn) : Bool :=
    isInt x.rd && isInt x.ra && isInt x.rb && x.rd != x.ra && x.rd != x.rb && x.ra != x.rb && x.rd != 32 &&
      x.ra != 32 && x.rb != 32

/-- What the copy of one byte comes to: a fault, the state with the breakpoints it matched, or a hold. -/
inductive Copied where
  | ok (s : State) (hit : Bool)
  | flt (f : Flt) (s : State)
  | stall (h : Hold) (s : State)
  deriving DecidableEq, Repr

/-- Copies one byte, the load checked before the store (R125). -/
def State.copyByte (s : State) (g : Nat) (src dst : Word) : Copied :=
  let p := (s.thread g).ring
  match s.check g p Need.ld src.toNat 1 with
  | .error e => .flt e.flt s
  | .ok rl =>
    match s.loadVia g .load rl with
    | .bad s sub _ => .flt (Flt.mk' 0x14 sub src) s
    | .stall h s => .stall h s
    | .bytes bs s' =>
      match s.check g p Need.st dst.toNat 1 with
      | .error e => .flt e.flt s
      | .ok rs =>
        match s'.storeVia g .store rs bs with
        | none => .stall (s.lineHold (g / 2) rs) s
        | some s =>
          let s := s.storeOverlap g dst.toNat 1
          let (s, h1) := s.noteAccess g false src.toNat 1
          let (s, h2) := s.noteAccess g true dst.toNat 1
          .ok s (h1 || h2)

/-- Writes the progress of a MOVS to its registers. -/
def State.movsRegs (s : State) (x : Insn) (d a c : Word) : State :=
  s.onThread x.thread (fun t => ((t.setReg x.rd d).setReg x.ra a).setReg x.rb c)

/-- Where a MOVS stands that holds: at its last progress point, with the bytes copied up to it. -/
def State.movsAt (s : State) (x : Insn) (d a : Word) (left done : Nat) : State :=
  (s.movsRegs x d a (BitVec.ofNat 64 left)).onThread x.thread (fun t => { t with prog := done })

/-- The copy loop of MOVS (R124 to R128): `left` bytes remain, `done` are copied, `hit` says that a breakpoint matched
since the last progress point, `p` is the state there, from which a MOVS that holds goes on.
DEDUCED (log 16).
DESIGN CHOICE (log 18). -/
def State.movsLoop (s : State) (x : Insn) (d a : Word) (left done : Nat) (hit : Bool) (p : State) : Fin :=
  match left with
  | 0 => .done (s.movsRegs x d a 0) none [0x05, 0x09] hit false
  | k + 1 =>
    match s.copyByte x.thread a d with
    | .flt f s =>
      .flt { f with fprog := BitVec.ofNat 64 done } (s.movsRegs x d a (BitVec.ofNat 64 left))
    | .stall h _ => .stall h (match p.copyByte x.thread a d with | .stall _ q => q | _ => p)
    | .ok s h =>
      let hit := hit || h
      if (d + 1).toNat % 64 = 0 ∧ k ≠ 0 ∧ hit then .part (s.movsRegs x (d + 1) (a + 1) (BitVec.ofNat 64 k))
      else if (d + 1).toNat % 64 = 0 ∧ k ≠ 0 ∧ (s.nextIrq x.thread).isSome then
        .irq (s.movsRegs x (d + 1) (a + 1) (BitVec.ofNat 64 k)) (BitVec.ofNat 64 (done + 1))
      else if (d + 1).toNat % 64 = 0 then
        s.movsLoop x (d + 1) (a + 1) k (done + 1) hit (s.movsAt x (d + 1) (a + 1) k (done + 1))
      else s.movsLoop x (d + 1) (a + 1) k (done + 1) hit p

/-- MOVS, 0xA6. -/
def execMovs (x : Insn) (s : State) : Host.Outcome State Fault Refusal :=
  .next (s.issue opMovs x (fun s =>
    let t := s.thread x.thread
    let c := (t.reg x.rb).toNat
    if c = 0 then .ok s
    else match s.fenceWait x.thread with
      | some r => r
      | none => s.movsLoop x (t.reg x.rd) (t.reg x.ra) c t.prog false s))

end Sys2Proof.Machine
end

