-- ==== Sys2Proof/Machine/Branches.lean ====
section
/-!
DEFINITION. Control transfers, the window instructions and their engine, and RDSR and WRSR (R65, R75 to R98, R115 to
R119).
-/

namespace Sys2Proof.Machine

/-- DS of form B (R65). -/
def ds (x : Insn) : Nat := x.fld 7 6

/-- The specifier of form B. -/
def bSpec (x : Insn) : Nat := x.fld 5 0

/-- The framing of JMP and CALL: a displacement with specifier 0, or a register. -/
def opJump : Op := Op.plain false .b (fun x => if ds x = 0 then isInt (bSpec x) else bSpec x == 0)

/-- The framing of a conditional branch, which needs a displacement. -/
def opBranch (valid : Insn → Bool) : Op :=
  { Op.plain false .b (fun x => ds x != 0 && valid x) with hint := true }

/-- A target of form B: the displacement from the next instruction, or the register. -/
def State.bTarget (s : State) (o : Op) (x : Insn) : Word :=
  if ds x = 0 then (s.thread x.thread).reg (bSpec x) else s.after o x + x.disp .b

/-- Is an address canonical (R67, R75)? -/
def canonical (a : Word) : Bool := decide (a.toNat < 2 ^ 48)

/-- A control transfer to `a` that leaves `s'`: fault 0x04 with subcode 0x30 and no effect when not canonical (R75). -/
def jumpTo (s s' : State) (a : Word) : Fin :=
  if canonical a then .done s' (some a) [0x03] false false else .flt (Flt.mk' 0x04 0x30 a) s

/-- The framing of the NOP row at an opcode: NOP itself, or an opcode that no instruction has (R61, R62). -/
def opNop (op op2 : Byte) : Op :=
  match opcodeFault op op2 with
  | some (c, two) => { Op.plain two .n (fun _ => true) with bad := some c }
  | none => Op.plain false .n (fun _ => true)

/-- NOP, 0x01, and every opcode that no instruction has, which comes to its fault (R61, R62, R71, R111). An opcode of
another row is not this row's, so nothing happens. -/
def execNop (x : NopInsn) (s : State) : Host.Outcome State Fault Refusal :=
  .next (if x.op == 0x01 || (opcodeFault x.op x.op2).isSome then s.issue (opNop x.op x.op2) x.insn (fun s => .ok s) else s)

/-- JMP, 0x80. -/
def execJmp (x : Insn) (s : State) : Host.Outcome State Fault Refusal :=
  .next (s.issue opJump x (fun s => jumpTo s s (s.bTarget opJump x)))

/-- CALL, 0x84 (R77, R82, R89): target, spills, slide, return address in w7.
DESIGN CHOICE (log 13). -/
def execCall (x : Insn) (s : State) : Host.Outcome State Fault Refusal :=
  .next (s.issue opJump x (fun s =>
    let a := s.bTarget opJump x
    if !canonical a then .flt (Flt.mk' 0x04 0x30 a) s
    else match s.fenceFor x.thread (decide (7 ≤ (s.thread x.thread).res)) with
    | some r => r
    | none =>
      match s.makeRoom x.thread 2 with
      | .error (f, s') => .flt f s'
      | .ok s' =>
        let s'' := s'.onThread x.thread (fun t => { t.slide.setReg 7 (s.after opJump x) with ras := s.after opJump x :: t.ras })
        jumpTo s'' s'' a))

/-- RET, 0x02 (R78, R84, R89).
DESIGN CHOICE (log 13). -/
def execRet (x : Insn) (s : State) : Host.Outcome State Fault Refusal :=
  .next (s.issue (Op.plain false .n (fun _ => true)) x (fun s =>
    let a := (s.thread x.thread).reg 7
    if !canonical a then .flt (Flt.mk' 0x04 0x30 a) s
    else match s.fenceFor x.thread (s.thread x.thread).older.isEmpty with
    | some r => r
    | none =>
      match s.slideBack x.thread with
      | .flt f s' => .flt f s'
      | .stall h s' => .stall h s'
      | .ok s' => jumpTo s (s'.onThread x.thread (fun t => { t with ras := t.ras.tail })) a))

/-- A conditional branch whose test came out `taken`, leaving `s'`. -/
def branchOn (s s' : State) (taken : Bool) (a : Word) : Fin :=
  if taken then jumpTo s s' a else .done s' none [0x03] false false

/-- Bcc, 0x30–0x3F (R115, R116). -/
def execBcc (x : Insn) (cond : BitVec 4) (s : State) : Host.Outcome State Fault Refusal :=
  let o := opBranch (fun x => bSpec x == 0)
  .next (s.issue o x (fun s => branchOn s s (condTrue cond (s.thread x.thread).fl) (s.bTarget o x)))

/-- BZ, 0x88 (R118). -/
def execBz (x : Insn) (s : State) : Host.Outcome State Fault Refusal :=
  let o := opBranch (fun x => isInt (bSpec x))
  .next (s.issue o x (fun s => branchOn s s ((s.thread x.thread).reg (bSpec x) == 0) (s.bTarget o x)))

/-- BNZ, 0x89 (R118). -/
def execBnz (x : Insn) (s : State) : Host.Outcome State Fault Refusal :=
  let o := opBranch (fun x => isInt (bSpec x))
  .next (s.issue o x (fun s => branchOn s s ((s.thread x.thread).reg (bSpec x) != 0) (s.bTarget o x)))

/-- DBNZ, 0x8A (R119): k0 is refused. -/
def execDbnz (x : Insn) (s : State) : Host.Outcome State Fault Refusal :=
  let o := opBranch (fun x => isInt (bSpec x) && bSpec x != 32)
  .next (s.issue o x (fun s =>
    let v := (s.thread x.thread).reg (bSpec x) - 1
    branchOn s (s.onThread x.thread (fun t => t.setReg (bSpec x) v)) (v != 0) (s.bTarget o x)))

/-- The spills of a WFLUSH, `n` at most (R92): all of them, the fault met after some, or an interrupt after one. -/
def State.flushAll (s : State) (g n : Nat) : Fin :=
  match n with
  | 0 => .ok s
  | k + 1 =>
    if (s.thread g).older.isEmpty then .ok s
    else match s.spill g with
      | .error f => .flt f s
      | .ok s =>
        if !(s.thread g).older.isEmpty && (s.nextIrq g).isSome then .irq s 0 else s.flushAll g k

/-- WFLUSH, 0xF0 0x01 (R92). -/
def execWflush (x : Insn) (s : State) : Host.Outcome State Fault Refusal :=
  .next (s.issue (Op.plain true .n (fun _ => true)) x (fun s =>
    (s.fenceFor x.thread (!(s.thread x.thread).older.isEmpty)).getD (s.flushAll x.thread 8)))

/-- WCTL.PRE of a running thread, behind no TFENCE (R304) and no store that holds (R461). -/
def Thread.background (t : Thread) : Bool := t.run == .running && bitOf (t.sysNat Sys.wctl) 0 && !t.fenced && t.stq.isNone

/-- The background spill of R95; one that cannot complete is discarded. -/
def execBackgroundSpill (thread : Nat) (s : State) : Host.Outcome State Fault Refusal :=
  let t := s.thread thread
  .next (if t.background && decide (6 ≤ t.res) then
      (match s.spill thread with | .ok s' => s' | .error _ => s)
    else s)

/-- The background fill of R95: the filled window is resident and not yet current. -/
def execBackgroundFill (thread : Nat) (s : State) : Host.Outcome State Fault Refusal :=
  let t := s.thread thread
  .next (if t.background && t.older.isEmpty && decide (0 < t.spilled) then
      (match s.fill thread with
       | .ok w s' => s'.onThread thread (fun t => { t with older := [w] })
       | .flt _ _ => s
       | .stall _ s' => s')
    else s)

/-- The framing of RDSR and WRSR: form S. -/
def opSys : Op := Op.plain true .s (fun x => x.fld 11 6 == 0 && isInt (x.fld 5 0))

/-- RDSR, 0xF0 0x10 (R98). -/
def execRdsr (x : Insn) (s : State) : Host.Outcome State Fault Refusal :=
  .next (s.issue opSys x (fun s =>
    let t := s.thread x.thread
    let n := x.fld 23 12
    match t.sysFault n false with
    | some f => .flt f s
    | none => .ok (s.setThread x.thread (t.setReg (x.fld 5 0) (s.sysRead x.thread n)))))

/-- WRSR, 0xF0 0x11 (R98); a tile control register's write enters the Tile Queue (R293). -/
def execWrsr (x : Insn) (s : State) : Host.Outcome State Fault Refusal :=
  .next (s.issue opSys x (fun s =>
    let t := s.thread x.thread
    let n := x.fld 23 12
    let v := t.reg (x.fld 5 0)
    match t.sysFault n true with
    | some f => .flt f s
    | none =>
      if sysQueued n then
        if t.tqFull then .hold .tileQueue
        else .ok (s.setThread x.thread (t.enqueue { op := .wrsr n (x.fld 5 0), ring := t.ring, value := v, ip := some t.pc }))
      else .wrote (s.sysWrite x.thread n v) n))

end Sys2Proof.Machine
end

