-- ==== Sys2Proof/Machine/Synry.lean ====
section
/-!
DEFINITION. The frame of every Synry command (R716 to R722): who may send it, its LEN, its tag, the block it needs, the
audit record of a change (R588), and its response. What each command does stands with its chapter.
-/

namespace Sys2Proof

/-- The interface quadword of an audit record (Table 14-6). -/
def Iface.audit (i : Iface) : Nat :=
  match i with
  | .mgmt => 1
  | .mailbox d _ _ _ => 2 + d * 2 ^ 8
  | .vc3 node => 3 + node % 65536 * 2 ^ 16

/-- The submitting domain of an interface, 64 for management. -/
def Iface.domain (i : Iface) : Nat := match i with | .mailbox d _ _ _ => d | _ => 64

/-- The parameter of `n` bytes at offset `i`. -/
def SynryReq.p (c : SynryReq) (i n : Nat) : Nat := Machine.leAt c.params i n

/-- Parameter byte `i`. -/
def SynryReq.b (c : SynryReq) (i : Nat) : Nat := c.p i 1

/-- Value `i` of a reading. -/
def Reading.val (r : Reading) (i : Nat) : Int := (r.values.drop i).headD 0

end Sys2Proof

namespace Sys2Proof.Machine

/-- General statuses (Table 17-8) and those shared between chapters. -/
def St.ok : Nat := 0x00
def St.pending : Nat := 0x01
def St.badFrame : Nat := 0x02
def St.badCode : Nat := 0x03
def St.badLen : Nat := 0x04
def St.badParam : Nat := 0x05
def St.notPermitted : Nat := 0x06
def St.tagInUse : Nat := 0x07
def St.notStopped : Nat := 0x08
def St.closed : Nat := 0x52
def St.wprot : Nat := 0x55
def St.auditFull : Nat := 0x56
def St.worn : Nat := 0x57

/-- How a command ends: a final status with results; accepted and running, its response kept by the operation; or held
until its block can take it (R38, R571). -/
inductive CmdEnd where
  | done (status : Nat) (results : List Byte) (s : State)
  | run (s : State)
  | hold
  deriving DecidableEq, Repr

/-- The mailbox class that carries a command (Tables 17-7 and 17-9), if any. -/
def cmdClass (code : Nat) : Option Nat :=
  if 1 ≤ code ∧ code ≤ 6 then some 0
  else if 0x201 ≤ code ∧ code ≤ 0x205 then some 1
  else if 0x401 ≤ code ∧ code ≤ 0x407 then some 2
  else if code = 0x102 then some 3
  else none

/-- May an interface send a command (Tables 17-7 and 17-9, R722)?
DEDUCED (log 37). -/
def State.permitted (s : State) (code : Nat) (i : Iface) : Bool :=
  match i with
  | .mgmt => code != 0x406 && code != 0x407
  | .vc3 node => code == 1 || code == 3 || (s.isManager node && code != 0x406 && code != 0x407)
  | .mailbox _ cls _ _ => cmdClass code == some cls

/-- The LENs a command takes: the least and the most. The fields of the Loam commands (Tables 13-2 and 13-3) have no sizes there:
a volume or session takes 2 bytes, a unit or count 4, an address or extent 8, any other 1. DESIGN CHOICE (log 42). -/
def cmdLen (code : Nat) : Nat × Nat :=
  match code with
  | 0x004 => (8, 8) | 0x005 => (8, 8) | 0x006 => (8, 8)
  | 0x101 => (8, 8) | 0x102 => (16, 16) | 0x103 => (8, 8)
  | 0x201 => (3, 3) | 0x202 => (18, 18) | 0x203 => (10, 10) | 0x204 => (2, 2) | 0x205 => (2, 2)
  | 0x206 => (18, 18) | 0x207 => (10, 10) | 0x208 => (2, 2) | 0x209 => (3, 3) | 0x20A => (1, 1)
  | 0x301 => (7, 7) | 0x302 => (5, 261) | 0x304 => (10, 10) | 0x305 => (10, 10) | 0x306 => (1, 1)
  | 0x307 => (5, 5) | 0x308 => (5, 5) | 0x30A => (1, 1)
  | 0x402 => (4, 480) | 0x403 => (2, 2) | 0x404 => (2, 2) | 0x405 => (2, 2) | 0x406 => (8, 8) | 0x407 => (16, 16)
  | _ => (0, 0)

/-- May a command start (R718, R742)? Those of codes 0x0001 to 0x0006 at once, every other once step 10 has ended.
DESIGN CHOICE (log 36).
DEDUCED (log 54). -/
def State.blockReady (s : State) (code : Nat) : Bool := decide (code < 0x100) || (decide (10 < s.smc.step) && !s.smc.refLost)

/-- Is a code that of a command sent on its own (Table 17-7)? -/
def cmdDefined (code : Nat) : Bool :=
  (decide (1 ≤ code) && decide (code ≤ 6)) || (decide (0x101 ≤ code) && decide (code ≤ 0x103)) ||
    (decide (0x201 ≤ code) && decide (code ≤ 0x20A)) || (decide (0x301 ≤ code) && decide (code ≤ 0x30B)) ||
    (decide (0x401 ≤ code) && decide (code ≤ 0x408)) || code == 0x501

/-- The writes of Seedbank, which keep their order of arrival (R569, R718). -/
def seedWrite (code : Nat) : Bool := code == 0x302 || code == 0x305

/-- The commands that are changes (R588).
DEDUCED (log 38). -/
def cmdChange (code : Nat) : Bool :=
  [0x101, 0x102, 0x204, 0x206, 0x207, 0x208, 0x209, 0x302, 0x305, 0x309, 0x406, 0x407, 0x408, 0x501].contains code

/-- Appends an audit record (Table 14-6). -/
def State.audit (s : State) (iface code set item status cls : Nat) (params : List Byte) : State :=
  let body := leBytes 8 iface ++ leBytes 2 code ++ leBytes 2 set ++ leBytes 1 item ++ leBytes 1 status ++ leBytes 2 cls ++
    padTo 24 params
  { s with seed := s.seed.appendAudit s.timeBase body }

/-- Does the audit ring refuse records: WP_N low, every record live (R588)? -/
def State.auditFull (s : State) : Bool := !s.pins.wpN && decide (12288 ≤ s.seed.auditLive)

/-- The password record of a partition in PARAM: read password, then write password. -/
def pwPage (p : Nat) : Nat := Part.param + 2 * p

/-- The password of a partition for reading or writing (R583); zero is none. -/
def Seedbank.password (b : Seedbank) (p : Nat) (write : Bool) : Nat :=
  match b.rec1 (pwPage p) with | some x => leAt x (if write then 8 else 0) 8 | none => 0

/-- Partition state. -/
def Seedbank.part (b : Seedbank) (p : Nat) : SbPart := FMap.get b.parts p SbPart.reset

/-- Is a partition open for reading or for writing (R583)? -/
def Seedbank.isOpen (b : Seedbank) (p : Nat) (write : Bool) : Bool :=
  b.password p write == 0 || (if write then (b.part p).wrOpen else (b.part p).rdOpen)

/-- Is a change-set command refused while PARAM is not write-open (R630)?
DEDUCED (log 38). -/
def State.setsClosed (s : State) (code : Nat) (i : Iface) : Bool :=
  decide (0x401 ≤ code) && decide (code ≤ 0x405) && (match i with | .mailbox _ _ _ _ => false | _ => true) &&
    !s.seed.isOpen 0x43 true

/-- The TAGs pending on an interface. -/
def pendingTags (m : FMap Resp) : Nat := (m.filter (fun p => p.2.pend)).length

/-- The responses an interface keeps. -/
def State.tagsOf (s : State) (i : Iface) : FMap Resp :=
  match i with | .mgmt => s.smc.mgmt | .vc3 n => FMap.get s.smc.vc3 n [] | .mailbox _ _ _ _ => []

/-- Does the SMC run? -/
def State.smcRuns (s : State) : Bool := s.smc.up && s.pins.vaux && !s.smc.tripped

/-- Has the SMC power? A command that reaches it before step 1 completes holds until then (R38, R54). -/
def State.smcPowered (s : State) : Bool := s.pins.vaux && !s.smc.tripped

/-- A command that ends with a final status: a change appends its audit record first (R588).
DEDUCED (log 38). -/
def State.finishCommand (s : State) (r : Reply) (params : List Byte) (status : Nat) (results : List Byte) : State :=
  let s := if cmdChange r.code && s.seed.recovered && !s.auditFull then
      s.audit r.iface.audit r.code 0 0 status 0 params else s
  s.answer r status results

/-- Runs a command whose TAG has been taken: its checks in order, then what it does.
DESIGN CHOICE (log 36). -/
def State.runCommand (s : State) (r : Reply) (body : State → SynryReq → CmdEnd) (c : SynryReq) : State :=
  let len := cmdLen r.code
  let fail (status : Nat) : State := s.finishCommand r c.params status []
  let hold : State :=
    ({ s with smc := { s.smc with waiting := s.smc.waiting ++ [(r.code, c)] } }).answerAs r true St.pending []
  if !s.smc.up then hold
  else if !cmdDefined r.code then
    fail (match c.iface with | .vc3 n => if s.isManager n then St.badCode else St.notPermitted | _ => St.badCode)
  else if !s.permitted r.code c.iface then fail St.notPermitted
  else if !s.blockReady r.code then hold
  else if c.params.length < len.1 ∨ len.2 < c.params.length then fail St.badLen
  else if seedWrite r.code && s.smc.waiting.any (fun w => seedWrite w.1) then hold
  else if s.setsClosed r.code c.iface then fail St.closed
  else if cmdChange r.code && s.auditFull then s.answer r St.auditFull []
  else match body s c with
    | .done status results s => s.finishCommand r c.params status results
    | .run s => s.answerAs r true St.pending []
    | .hold => hold

/-- A command as it arrives (R718, R719, R721): a mailbox slot that is busy holds it; a TAG still pending ends it with
TAGINUSE; an interface with 16 TAGs pending does not take it.
DESIGN CHOICE (log 36). -/
def State.command (s : State) (code : Nat) (body : State → SynryReq → CmdEnd) (c : SynryReq) : State :=
  let r : Reply := { iface := c.iface, tag := c.tag, code := code }
  if !s.smcPowered then s
  else match c.iface with
    | .mailbox d cls slot _ =>
      let k := slotKey d cls slot
      if (s.slot k).state = 1 ∨ !(s.domain d).valid then s
      else (s.onSlot k (fun m => { m with state := 1, tag := c.tag })).runCommand r body c
    | _ =>
      let m := s.tagsOf c.iface
      if (FMap.find m c.tag.toNat).any (fun p => p.pend) then s.answerAs r true St.tagInUse []
      else if 16 ≤ pendingTags m then s
      else s.runCommand r body c

/-- Answers every command whose commit has reached its commit point (R574). Once a page is marked failed they end with
WORN (R581). -/
def State.answerWaiters (s : State) : State :=
  let due (w : SbWait) : Bool := !seqLarger w.cseq s.seed.done
  let st := if s.seed.failed.isEmpty then St.ok else St.worn
  let l := s.seed.waiters.filter due
  let s := { s with seed := { s.seed with waiters := s.seed.waiters.filter (fun w => !due w) } }
  l.foldl (fun s w => s.answer w.reply st w.results) s

end Sys2Proof.Machine
end

