-- ==== Sys2Proof/Machine/Clocks.lean ====
section
/-!
DEFINITION. Clocks, throttling, sensors and regulators (R697 to R715): divider changes, timers, power and thermal steps,
the package budget, PMBus faults.
-/

namespace Sys2Proof.Machine

/-! ### Dividers (R699 to R702) -/

/-- The divider a tile's requested one allows: no faster than /4 where CLOCKS forbids /3 (R699). -/
def TileClk.base (c : TileClk) : Nat := if c.allow3 then c.req else max 1 c.req

/-- The divider a tile should run at: the slowest that its request, power steps, thermal steps, PROCHOT_N, its rail and
its temperature allow (R702, R709, R711, R715, R727). -/
def State.wanted (s : State) (t : Nat) : Nat :=
  let c := s.clk t
  if c.vreg || s.smc.prochotIn || decide (1680 < c.temp) then 3
  else max (min 3 (c.base + c.divPwr)) (min 3 (c.base + c.divTh))

/-- The divider whose voltage a tile needs: the faster of the one it runs at and the one it is being raised to. -/
def TileClk.needs (c : TileClk) : Nat := min c.eff (c.target.getD c.eff)

/-- Sets a regulator page to the highest voltage its tiles need, 0.600 to 0.950 V (R714, Table 17-5). -/
def State.setRail (s : State) (rail : Nat × Nat) : State :=
  let l := s.railTiles rail.1 rail.2
  let mv := (l.map (fun t => min 950 (Config.fusedVcore t (s.clk t).needs))).foldl max 600
  l.foldl (fun s t => s.onClk t (fun c => { c with vcore := mv })) s

/-- Starts what a tile's effective divider needs to reach the one it should run at: step 1 of R700 when faster, the
next divider boundary when slower. A raise in progress to another divider is turned to it (R726, R733). -/
def State.retarget (s : State) (t : Nat) : State :=
  let c := s.clk t
  let w := s.wanted t
  if w = c.eff then
    if c.target.isSome then (s.onClk t (fun c => { c with target := none, wait := 0 })).setRail (s.tileRail t) else s
  else if c.target = some w then s
  else if c.eff < w then s.onClk t (fun c => { c with target := some w, wait := 0, held := false })
  else if c.held then s
  else (s.onClk t (fun c => { c with target := some w, wait := 1 })).setRail (s.tileRail t)

/-- Retargets a list of tiles. -/
def State.retargetAll (s : State) (l : List Nat) : State := l.foldl State.retarget s

/-- The set voltage a raise waits for. -/
def State.raised (s : State) (t mv : Nat) : Bool := decide ((s.clk t).vcore ≤ mv + 10)

/-- VOLTAGE_SETTLE_CHECK: the first reading after the slew and 20 µs (R715). -/
def execVoltageSettleCheck (tile mv : Nat) (s : State) : Host.Outcome State Fault Refusal :=
  let c := s.clk tile
  .next (if c.target.isSome && c.wait == 1 then s.onClk tile (fun c => { c with wait := if s.raised tile mv then 0 else 2 })
    else s)

/-- VOLTAGE_RECHECK: the second reading; still low, the tile keeps its slower divider with VREG shown (R702, R715). -/
def execVoltageRecheck (tile mv : Nat) (s : State) : Host.Outcome State Fault Refusal :=
  let c := s.clk tile
  .next (if c.target.isSome && c.wait == 2 then
      if s.raised tile mv then s.onClk tile (fun c => { c with wait := 0 })
      else (s.onClk tile (fun c => { c with target := none, wait := 0, held := true })).setRail (s.tileRail tile)
    else s)

/-- DIVIDER_SWITCH: at the divider boundary the tile runs at the new divider; a slower one then lowers VCORE (R700). -/
def execDividerSwitch (tile : Nat) (s : State) : Host.Outcome State Fault Refusal :=
  let c := s.clk tile
  .next (match c.target with
    | none => s
    | some w =>
      if c.wait ≠ 0 then s
      else ((s.onClk tile (fun c => { c with eff := w, target := none })).setRail (s.tileRail tile)).retarget tile)

/-- DIVSET's step: the request recorded and the change begun (R702, R724). -/
def State.divset (s : State) (t d : Nat) : State := (s.onClk t (fun c => { c with req := d, held := false })).retarget t

/-- TIMER_FIRE (R704). -/
def execTimerFire (thread : Nat) (s : State) : Host.Outcome State Fault Refusal :=
  let t := s.thread thread
  .next (match s.domOf thread with
    | some d =>
      if bitOf (t.sysNat Sys.tmrctl) 0 && decide (t.sysNat Sys.tmrcmp ≤ s.timeBase) then
        (s.setThread thread (t.sysSet Sys.tmrctl 0)).raise d (0x100 + thread)
      else s
    | none => s)

/-! ### Pins the SMC drives -/

/-- ALERT_N: low while a regulator fault stands, start-up has failed, REFCLK is lost, or a rail was found low (R715, R741, R802,
R812). -/
def State.setAlert (s : State) : State :=
  { s with pins := { s.pins with alertN := s.smc.vrFault.isEmpty && s.smc.fail == 0 && !s.smc.refLost &&
    s.smc.railBad.isEmpty } }

/-- The domain that owns a tile. -/
def State.tileOwner (s : State) (t : Nat) : Option Nat := FMap.find s.tileDom t

/-- Raises source 0x002 in the domains that own the tiles of a list. -/
def State.powerNotice (s : State) (l : List Nat) : State :=
  s.raiseAll (s.domList.filter (fun d => l.any (fun t => s.tileOwner t == some d))) 0x002

/-- PROCHOT_N as the part drives it: low while any tile carries a thermal step (R711). -/
def State.setProchot (s : State) : State :=
  { s with pins := { s.pins with prochotN := (List.range 64).all (fun t => !(s.clk t).thermal) } }

/-! ### Sensors (R705, R706) -/

/-- SENSOR_SAMPLE: the SMC keeps the latest value; a sensor at 115 °C twice running is ready to trip (Table 17-4). A tile
above 105 °C goes to /12. -/
def execSensorSample (r : Reading) (s : State) : Host.Outcome State Fault Refusal :=
  let v := r.val 0
  .next (if !s.smcRuns then s else match r.sensor with
    | .tileTemp t =>
      (s.onClk t (fun c =>
        { c with temp := v, tempAt := s.timeBase, tempHot := decide (1840 ≤ v) && decide (1840 ≤ c.temp) })).retarget t
    | .ioTemp n =>
      let hot := decide (1840 ≤ v) && decide (1840 ≤ FMap.get s.smc.ioTemp n 0)
      { s with smc := { s.smc with ioTemp := FMap.put s.smc.ioTemp n v, ioAt := FMap.put s.smc.ioAt n s.timeBase,
                                   ioHot := if hot then n :: s.smc.ioHot.filter (· != n) else s.smc.ioHot.filter (· != n) } }
    | .loamTemp n =>
      { s with smc := { s.smc with loamTemp := FMap.put s.smc.loamTemp n v, loamAt := FMap.put s.smc.loamAt n s.timeBase }
               }.onStack n (fun x => { x with temp := (v / 16).toNat })
    | .tilePower t => s.onClk t (fun c => { c with power := v.toNat, power1s := (r.val 1).toNat })
    | .domainPower10ms d => s.onDomain d (fun x => { x with power10 := v.toNat })
    | .packagePower10ms => { s with smc := { s.smc with pkg10 := v.toNat } }
    | .packagePower1s => { s with smc := { s.smc with pkg1s := v.toNat } }
    | .uncorePower => { s with smc := { s.smc with uncore := v.toNat } }
    | .rail a p => { s with smc := { s.smc with vr := FMap.put s.smc.vr (a % 128 * 256 + p % 256) r.values } })

/-- DROOP_TRIP: CCLK edges are skipped, at most 8, and the tile's droop count rises by 1 (R706). -/
def execDroopTrip (tile _edges : Nat) (s : State) : Host.Outcome State Fault Refusal :=
  .next (s.onClk tile (fun c => { c with droop := c.droop + 1 }))

/-! ### Power (R708, R712, R713) -/

/-- A tile one power divider step slower, when it is not at /12 by its power steps. -/
def TileClk.slower (c : TileClk) : TileClk := if c.base + c.divPwr < 3 then { c with divPwr := c.divPwr + 1 } else c

/-- The effective budget of a domain in mW (R712), f in 1/1,024ths.
DESIGN CHOICE (log 53). -/
def State.budget (s : State) (d : Nat) : Nat := (s.domain d).power * 1000 * s.smc.factor / 1024

/-- The tiles of a domain. -/
def State.tilesOf (s : State) (d : Nat) : List Nat := (List.range 64).filter (fun t => (s.domain d).tiles.getLsbD t)

/-- Changes the clock state of some tiles and follows their dividers. -/
def State.clkAll (s : State) (l : List Nat) (f : TileClk → TileClk) : State :=
  (l.foldl (fun s t => s.onClk t f) s).retargetAll l

/-- POWER_THROTTLE_STEP: over its budget, every tile of the domain takes the next step of R708: duty down to 8/16,
the divider down to /12, duty down to 2/16.
DESIGN CHOICE (log 53). -/
def execPowerThrottleStep (domain : Nat) (s : State) : Host.Outcome State Fault Refusal :=
  let l := s.tilesOf domain
  .next (if !(s.smcRuns && (s.domain domain).valid && decide (s.budget domain < (s.domain domain).power10)) then s
    else if l.any (fun t => decide (8 < (s.clk t).dutyPwr)) then
      s.clkAll l (fun c => { c with dutyPwr := max 8 (c.dutyPwr - 1) })
    else if l.any (fun t => decide ((s.clk t).base + (s.clk t).divPwr < 3)) then s.clkAll l TileClk.slower
    else s.clkAll l (fun c => { c with dutyPwr := max 2 (c.dutyPwr - 1) }))

/-- POWER_THROTTLE_RELEASE: below 95 % of its budget, the last step is undone (R708). -/
def execPowerThrottleRelease (domain : Nat) (s : State) : Host.Outcome State Fault Refusal :=
  let l := s.tilesOf domain
  let most := (l.map (fun t => (s.clk t).divPwr)).foldl max 0
  .next (if !(s.smcRuns && (s.domain domain).valid && decide ((s.domain domain).power10 * 100 < s.budget domain * 95)) then s
    else if l.any (fun t => decide ((s.clk t).dutyPwr < 8)) then
      s.clkAll l (fun c => { c with dutyPwr := if c.dutyPwr < 8 then c.dutyPwr + 1 else c.dutyPwr })
    else if 0 < most then s.clkAll l (fun c => { c with divPwr := if c.divPwr = most then most - 1 else c.divPwr })
    else s.clkAll l (fun c => { c with dutyPwr := min 16 (c.dutyPwr + 1) }))

/-- BUDGET_RECOMPUTE: PPT takes its new value, f is computed, source 0x002 tells a change above 0.05, and the fast limit
slows every tile one divider step (R712, R713, R717).
DESIGN CHOICE (log 53). -/
def execBudgetRecompute (s : State) : Host.Outcome State Fault Refusal :=
  let total := (s.domList.map (fun d => (s.domain d).power)).sum * 1000
  let room := s.smc.pptNext * 1000 - s.smc.uncore
  let f := if total = 0 then 1024 else min 1024 (room * 1024 / total)
  let diff := if f < s.smc.factor then s.smc.factor - f else f - s.smc.factor
  .next (if !s.smcRuns then s else
    let s := { s with smc := { s.smc with ppt := s.smc.pptNext, factor := f } }
    let s := if 1024 < diff * 20 then s.raiseAll s.domList 0x002 else s
    if s.smc.ppt * 1250 < s.smc.pkg10 then s.clkAll (List.range 64) TileClk.slower else s)

/-! ### Temperature (R709 to R711) -/

/-- THERMAL_STEP: a tile at 100 °C or above takes duty 8/16 and one divider step, then a further step (R709).
DESIGN CHOICE (log 53). -/
def execThermalStep (tile : Nat) (s : State) : Host.Outcome State Fault Refusal :=
  let step (c : TileClk) : TileClk :=
    if !c.thermal then { c with dutyTh := 8, divTh := 1 }
    else if c.base + c.divTh < 3 then { c with divTh := c.divTh + 1 }
    else { c with dutyTh := max 2 (c.dutyTh - 1) }
  .next (if s.smcRuns && decide (1600 ≤ (s.clk tile).temp) then
      (((s.onClk tile step).retarget tile).powerNotice [tile]).setProchot
    else s)

/-- THERMAL_RELEASE: a tile below 98 °C undoes one thermal step (R709). -/
def execThermalRelease (tile : Nat) (s : State) : Host.Outcome State Fault Refusal :=
  let undo (c : TileClk) : TileClk :=
    if c.dutyTh < 8 then { c with dutyTh := c.dutyTh + 1 }
    else if 1 < c.divTh then { c with divTh := c.divTh - 1 }
    else { c with dutyTh := 16, divTh := 0 }
  .next (if s.smcRuns && decide ((s.clk tile).temp < 1568) && (s.clk tile).thermal then
      ((s.onClk tile undo).retarget tile).setProchot
    else s)

/-- PROCHOT_INPUT: the platform holds PROCHOT_N low for 1 µs; every tile goes to /12 (R711, R810). -/
def execProchotInput (s : State) : Host.Outcome State Fault Refusal :=
  .next (if s.smcRuns && s.pins.prochotN then
      { s with smc := { s.smc with prochotIn := true } }.retargetAll (List.range 64)
    else s)

/-- PROCHOT_RELEASE: the platform releases PROCHOT_N; the tiles come back from /12 by the releases of R708 (R711).
DESIGN CHOICE (log 53). -/
def execProchotRelease (s : State) : Host.Outcome State Fault Refusal :=
  .next (if s.smc.prochotIn then
      { s with smc := { s.smc with prochotIn := false } }.clkAll (List.range 64)
        (fun c => { c with divPwr := max c.divPwr (3 - c.base) })
    else s)

/-! ### Regulators (R715, R811) -/

/-- Does a STATUS_WORD show a VOUT, IOUT or temperature fault (PMBus 1.3 Part II)?
PRESUMED (log 52). -/
def railFault (w : BitVec 16) : Bool := w.getLsbD 15 || w.getLsbD 14 || w.getLsbD 5 || w.getLsbD 4 || w.getLsbD 2

/-- A faulted page: its tiles go to /12, duty 2/16 and VREG, the fault is logged, the owners hear of it, ALERT_N.
PRESUMED (log 52). -/
def State.faultRail (s : State) (addr page : Nat) (w : BitVec 16) (bus : Bool) : State :=
  let l := s.railTiles addr page
  let k := addr * 256 + page
  if s.smc.vrFault.contains k then s
  else
    let s := { s with smc := { s.smc with vrFault := k :: s.smc.vrFault } }
    let s := s.clkAll l (fun c => { c with vreg := true })
    ((s.log 0x000C k (leBytes 2 w.toNat ++ leBytes 1 (natOf bus))).powerNotice l).setAlert

/-- One STATUS_WORD read: a fault, or a page whose CLEAR_FAULTS has succeeded.
PRESUMED (log 52). -/
def State.statusWord (s : State) (addr page : Nat) (w : BitVec 16) : State :=
  let k := addr % 128 * 256 + page % 256
  let s := { s with smc := { s.smc with vrStatus := FMap.put s.smc.vrStatus k w } }
  if railFault w then s.faultRail (addr % 128) (page % 256) w false
  else if s.smc.vrFault.contains k then
    ({ s with smc := { s.smc with vrFault := s.smc.vrFault.filter (· != k) } }.clkAll
      (s.railTiles (addr % 128) (page % 256)) (fun c => { c with vreg := false })).setAlert
  else s

/-- STATUS_WORD_POLL (R715). -/
def execStatusWordPoll (address page : Nat) (word : BitVec 16) (s : State) : Host.Outcome State Fault Refusal :=
  .next (if s.smcRuns then s.statusWord address page word else s)

/-- PMB_ALERT: STATUS_WORD of every page read at once (R795). -/
def execPmbAlert (words : List (Nat × Nat × BitVec 16)) (s : State) : Host.Outcome State Fault Refusal :=
  .next (if s.smcRuns then words.foldl (fun s w => s.statusWord w.1 w.2.1 w.2.2) s else s)

/-- PMBUS_TIMEOUT: every page on the bus is treated as faulted (R811). -/
def execPmbusTimeout (s : State) : Host.Outcome State Fault Refusal :=
  let pages := (List.range 64).map (fun t => s.tileRail t)
  .next (if s.smcRuns then pages.foldl (fun s p =>
      s.faultRail p.1 p.2 (FMap.get s.smc.vrStatus (p.1 * 256 + p.2) 0) true) s
    else s)

/-! ### General commands (Table 17-11) -/

/-- A signed 16-bit field. -/
def le16 (v : Int) : List Byte := leBytes 2 (BitVec.ofInt 16 v).toNat

/-- The domain a mailbox command comes from. -/
def fromDomain (i : Iface) : Option Nat := match i with | .mailbox d _ _ _ => some d | _ => none

/-- Is a tile named from outside its domain (R717)? -/
def State.foreignTile (s : State) (i : Iface) (t : Nat) : Bool :=
  match fromDomain i with | some d => s.tileOwner t != some d | none => false

/-- IDENT. -/
def cmdIdent (s : State) (_ : SynryReq) : CmdEnd :=
  .done St.ok (leBytes 2 0x7128 ++ leBytes 1 0xB0 ++ leBytes 1 s.pins.tussockId.toNat ++ leBytes 2 s.fabric.node ++
    leBytes 2 (natOf s.fabric.disc) ++ leBytes 8 Config.serial.toNat ++ leBytes 4 Config.smcFirmware.toNat ++ leBytes 4 0) s

/-- STATUS (R742). -/
def cmdStatus (s : State) (_ : SynryReq) : CmdEnd :=
  .done St.ok (leBytes 1 s.smc.step ++ leBytes 1 s.smc.fail ++
    leBytes 2 (natOf s.smc.warm + 2 * natOf s.smc.ovlUsed + 4 * natOf s.smc.sigChk + 8 * natOf s.smc.fromCs1) ++
    leBytes 4 s.smc.imgGen) s

/-- TIME. -/
def cmdTime (s : State) (_ : SynryReq) : CmdEnd := .done St.ok (leBytes 8 s.timeBase) s

/-- SENSE. -/
def cmdSense (s : State) (c : SynryReq) : CmdEnd :=
  let i := c.b 1
  let out (v : Int) (n t : Nat) : CmdEnd := .done St.ok (le16 v ++ leBytes 2 0 ++ leBytes 4 n ++ leBytes 8 t) s
  match c.b 0 with
  | 0 =>
    if 64 ≤ i then .done St.badParam [] s
    else if s.foreignTile c.iface i then .done St.notPermitted [] s
    else out (s.clk i).temp (s.clk i).droop (s.clk i).tempAt
  | 1 => if 8 ≤ i then .done St.badParam [] s else out (FMap.get s.smc.ioTemp i 0) 0 (FMap.get s.smc.ioAt i 0)
  | 2 => if 8 ≤ i then .done St.badParam [] s else out (FMap.get s.smc.loamTemp i 0) 0 (FMap.get s.smc.loamAt i 0)
  | _ => .done St.badParam [] s

/-- POWERREAD. -/
def cmdPowerread (s : State) (c : SynryReq) : CmdEnd :=
  let i := c.b 1
  let out (p10 p1 w : Nat) : CmdEnd :=
    .done St.ok (leBytes 4 p10 ++ leBytes 4 p1 ++ leBytes 2 w ++ leBytes 2 s.smc.factor ++ leBytes 4 s.smc.uncore) s
  match c.b 0 with
  | 0 => if (fromDomain c.iface).isSome then .done St.notPermitted [] s else out s.smc.pkg10 s.smc.pkg1s s.smc.ppt
  | 1 =>
    if 64 ≤ i then .done St.badParam [] s
    else if (fromDomain c.iface).any (· != i) then .done St.notPermitted [] s
    else out (s.domain i).power10 ((s.tilesOf i).map (fun t => (s.clk t).power1s)).sum (s.budget i / 1000)
  | 2 =>
    if 64 ≤ i then .done St.badParam [] s
    else if s.foreignTile c.iface i then .done St.notPermitted [] s
    else out (s.clk i).power (s.clk i).power1s 0
  | _ => .done St.badParam [] s

/-- CLKREAD. -/
def cmdClkread (s : State) (c : SynryReq) : CmdEnd :=
  let t := c.b 0
  if 64 ≤ t then .done St.badParam [] s
  else if s.foreignTile c.iface t then .done St.notPermitted [] s
  else .done St.ok (leBytes 8 (s.cclkstatWord (4 * t)) ++ leBytes 2 (s.clk t).vcore ++ leBytes 6 0) s

/-- PKGLIMIT: taken at the next recomputation of R712. -/
def cmdPkglimit (s : State) (c : SynryReq) : CmdEnd :=
  let w := leAt c.params 0 2
  if w < 320 ∨ 520 < w then .done St.badParam [] s
  else .done St.ok [] { s with smc := { s.smc with pptNext := w } }

/-- VRREAD: the latest sample of a page that POWER names. -/
def cmdVrread (s : State) (c : SynryReq) : CmdEnd :=
  let k := c.b 0 * 256 + c.b 1
  let v := FMap.get s.smc.vr k []
  let at_ (i : Nat) : Nat := ((v.drop i).headD 0).toNat
  if !(List.range 64).any (fun t => s.tileRail t == (c.b 0, c.b 1)) then .done St.badParam [] s
  else .done St.ok (leBytes 2 (at_ 0) ++ le16 ((v.drop 1).headD 0) ++ leBytes 4 (at_ 2) ++ leBytes 4 (at_ 3) ++
    leBytes 2 (FMap.get s.smc.vrStatus k 0).toNat ++ leBytes 2 0) s

def execIdent (c : SynryReq) (s : State) : Host.Outcome State Fault Refusal := .next (s.command 0x001 cmdIdent c)
def execStatus (c : SynryReq) (s : State) : Host.Outcome State Fault Refusal := .next (s.command 0x002 cmdStatus c)
def execTime (c : SynryReq) (s : State) : Host.Outcome State Fault Refusal := .next (s.command 0x003 cmdTime c)
def execSense (c : SynryReq) (s : State) : Host.Outcome State Fault Refusal := .next (s.command 0x004 cmdSense c)
def execPowerread (c : SynryReq) (s : State) : Host.Outcome State Fault Refusal := .next (s.command 0x005 cmdPowerread c)
def execClkread (c : SynryReq) (s : State) : Host.Outcome State Fault Refusal := .next (s.command 0x006 cmdClkread c)
def execPkglimit (c : SynryReq) (s : State) : Host.Outcome State Fault Refusal := .next (s.command 0x101 cmdPkglimit c)
def execVrread (c : SynryReq) (s : State) : Host.Outcome State Fault Refusal := .next (s.command 0x103 cmdVrread c)

end Sys2Proof.Machine
end

