-- ==== Sys2Proof/Machine/Grants.lean ====
section
/-!
DEFINITION. Grants: handles, deriving, revoking with its drain, querying, transfer, and grant windows (R173 to R192).
-/

namespace Sys2Proof.Machine

/-! ### Handles -/

/-- Replaces entry `i` of a Grant Store. -/
def GrantStore.setEntry (st : GrantStore) (i : Nat) (e : Grant) : GrantStore :=
  { st with entries := FMap.put st.entries i e }

/-- Entry `i`. -/
def GrantStore.entry (st : GrantStore) (i : Nat) : Grant := FMap.get st.entries i Grant.reset

/-- INDEX and GEN of a handle (R174). -/
def hIndex (h : Word) : Nat := bitsOf h.toNat 11 0
def hGen (h : Word) : Nat := bitsOf h.toNat 31 12

/-- The handle of entry `i`. -/
def GrantStore.handle (st : GrantStore) (i : Nat) : Word := BitVec.ofNat 64 ((st.entry i).gen * 2 ^ 12 + i)

/-- What a handle is for a thread: 0 valid, 1 stale, 2 held elsewhere (R174). -/
def GrantStore.check (st : GrantStore) (g : Nat) (h : Word) : Nat :=
  let e := st.entry (hIndex h)
  if !e.inUse || e.gen != hGen h then 1 else if e.holder = some g then 0 else 2

/-- The store of the thread's domain. -/
def State.storeOf (s : State) (g : Nat) : GrantStore := (s.domain ((s.domOf g).getD 64)).store

/-- Replaces the store of the thread's domain. -/
def State.setStore (s : State) (g : Nat) (st : GrantStore) : State :=
  match s.domOf g with
  | some d => s.onDomain d (fun x => { x with store := st })
  | none => s

/-- Fault 0x0C with a subcode. -/
def grantFlt (sub : Nat) : Flt := Flt.mk' 0x0C sub 0

/-- The bits of a right field that a kind defines (Table 4-8), D and T included. -/
def kindRights (kind : Nat) : Nat :=
  match kind with
  | 1 => 0xC3
  | 2 => 0xC7
  | 3 => 0xC3
  | 4 => 0xC3
  | _ => 0xDF

/-- The range granule of a kind (Table 4-8). -/
def kindGranule (kind : Nat) : Nat := match kind with | 1 => 16384 | 2 => 4096 | 3 => 64 | _ => 1

/-- The generation after `n` (R177): 0xF_FFFF is followed by 0x0_0001. -/
def nextGen (n : Nat) : Nat := if 0xFFFFF ≤ n then 1 else n + 1

/-- The entry that has been free longest (R177), none when the store is full. -/
def GrantStore.freeEntry (st : GrantStore) : Option Nat :=
  if st.fresh < 4096 then some st.fresh else st.freed.head?

/-- Takes entry `i` off the free list. -/
def GrantStore.takeEntry (st : GrantStore) (i : Nat) : GrantStore :=
  if st.fresh = i then { st with fresh := st.fresh + 1 } else { st with freed := dropFirst (· == i) st.freed }

/-- A new entry in index `i` (R177, R191): the generation counts on. -/
def GrantStore.mint (st : GrantStore) (i : Nat) (e : Grant) : GrantStore :=
  (st.takeEntry i).setEntry i { e with inUse := true, gen := nextGen (st.entry i).gen }

/-! ### Derivation trees -/

/-- The descendants of entry `i`: each parent before its children, children in ascending index.
DESIGN CHOICE (log 20). -/
def GrantStore.below (st : GrantStore) (i fuel : Nat) : List Nat :=
  match fuel with
  | 0 => []
  | k + 1 =>
    ((st.entries.filter (fun p => p.2.inUse && p.2.parent == i && decide (0 < p.2.depth))).map
      (fun p => p.1 :: st.below p.1 k)).flatten

/-- Does thread `g` hold entry `i` or an ancestor of it (R180)? -/
def GrantStore.holdsAbove (st : GrantStore) (g i fuel : Nat) : Bool :=
  match fuel with
  | 0 => false
  | k + 1 =>
    let e := st.entry i
    e.holder == some g || (decide (0 < e.depth) && st.holdsAbove g e.parent k)

/-! ### Windows -/

/-- Empties window `n` of thread `g`, releasing its Loam pin (R187). -/
def State.detach (s : State) (g n : Nat) : State :=
  match FMap.find (s.thread g).gw n with
  | none => s
  | some w =>
    let s := s.onThread g (fun t => { t with gw := FMap.erase t.gw n })
    match w.revision with
    | some r => s.unpin w.object r
    | none => s

/-- Empties window `n`, moving its pin into the grant's entry when that holds none (R187). -/
def State.detachPark (s : State) (g n : Nat) : State :=
  match FMap.find (s.thread g).gw n with
  | none => s
  | some w =>
    match w.revision with
    | none => s.detach g n
    | some r =>
      let st := s.storeOf g
      let e := st.entry w.index
      if e.inUse && e.gen == w.gen && e.parked.isNone then
        (s.onThread g (fun t => { t with gw := FMap.erase t.gw n })).setStore g
          (st.setEntry w.index { e with parked := some r })
      else s.detach g n

/-- The numbers of the windows of thread `g` attached to entry `i`. -/
def Thread.windowsOf (t : Thread) (i gen : Nat) : List Nat :=
  (t.gw.filter (fun p => p.2.index == i && p.2.gen == gen)).map (·.1)

/-- The threads of a domain that have any state: those of its tiles, in ascending number. -/
def State.threadsOf (s : State) (d : Nat) : List Nat :=
  ((List.range 64).filter (fun t => (s.domain d).tiles.getLsbD t)).flatMap (fun t => upFrom (4 * t) 4)

/-- Invalidates every window of domain `d` whose entry is revoked (R181). -/
def State.dropDeadWindows (s : State) (d : Nat) : State :=
  (s.threadsOf d).foldl (fun s g =>
    ((s.thread g).gw.filter (fun p => !s.winLive d p.2)).foldl (fun s p => s.detach g p.1) s) s

/-! ### Revocation (R180, R181) -/

/-- Revokes one entry of domain `d`: generation up, free, out of every mailbox, its parked pin released, its sessions
abandoned (R200). -/
def State.revokeEntry (s : State) (d i : Nat) : State :=
  let st := (s.domain d).store
  let e := st.entry i
  let s := s.onDomain d (fun x =>
    { x with store := { (st.setEntry i { Grant.reset with gen := nextGen e.gen }) with freed := st.freed ++ [i] } })
  let s := (s.threadsOf d).foldl (fun s g =>
    if (s.thread g).gmail.contains i then s.onThread g (fun t => { t with gmail := t.gmail.filter (· != i) }) else s) s
  let s := match e.parked with
    | some r => s.unpin e.object r
    | none => s
  s.abandonWhere (fun x => x.domain == d && x.grant == i)

/-- Marks the accesses of a domain that are in flight past their checks (R181): fabric operations, Stream engine requests, and
stores that hold in store queues. Every other access is checked again as it completes. -/
def State.markOps (s : State) (d : Nat) : State :=
  { s with
    fabric := { s.fabric with
      ops := s.fabric.ops.map (fun o => if o.dom = d then { o with marked := true } else o)
      colls := s.fabric.colls.map (fun o => if o.dom = d then { o with marked := true } else o) }
    cores := s.cores.map (fun c => (c.1, { c.2 with descs := c.2.descs.map (fun e =>
      if s.inDomain e.2.thr d then (e.1, { e.2 with flight := e.2.flight.map (fun r => { r with marked := true }) }) else e) }))
    threads := s.threads.map (fun t =>
      if s.inDomain t.1 d then (t.1, { t.2 with stq := t.2.stq.map (fun h => { h with marked := true }) }) else t) }

/-- Marking of a list of entries, and the start of drain.
DESIGN CHOICE (log 20). -/
def State.revokeList (s : State) (d : Nat) (l : List Nat) : State :=
  ((l.foldl (fun s i => s.revokeEntry d i) s).dropDeadWindows d).markOps d

/-- Has every operation of domain `d` that was in flight at a marking ended? -/
def State.drained (s : State) (d : Nat) : Bool :=
  s.fabric.ops.all (fun o => !(o.marked && o.dom == d)) && s.fabric.colls.all (fun o => !(o.marked && o.dom == d)) &&
    s.cores.all (fun c => c.2.descs.all (fun e => !s.inDomain e.2.thr d || e.2.flight.all (fun r => !r.marked))) &&
    s.threads.all (fun t => !s.inDomain t.1 d || t.2.stq.all (fun h => !h.marked))

/-! ### The instructions -/

/-- The framing of an authority opcode: two-byte, form RI, an immediate of `n` bytes, S = 0 (R160). -/
def opAuth (n : Nat) (valid : Insn → Bool) : Op :=
  Op.plain true .ri (fun x => x.immBytes .ri == some n && !bitOf x.opnd.toNat 3 && valid x)

/-- GDERIVE, 0xF0 0x21 (R177). -/
def execGderive (x : Insn) (s : State) : Host.Outcome State Fault Refusal :=
  .next (s.issue (opAuth 1 (fun x => decide (x.rd2 ≤ 30) && isInt x.rs2)) x (fun s =>
    let g := x.thread
    let t := s.thread g
    let st := s.storeOf g
    let h := t.reg x.rs2
    let p := st.entry (hIndex h)
    let off := (t.reg x.rd2).toNat
    let len := (t.reg (x.rd2 + 1)).toNat
    let rights := x.immRI.toNat % 256
    let gran := kindGranule p.kind
    if st.check g h = 1 then .flt (grantFlt 0x01) s
    else if st.check g h = 2 then .flt (grantFlt 0x02) s
    else if !p.rights.getLsbD 7 then .flt (grantFlt 0x03) s
    else if rights &&& p.rights.toNat ≠ rights ∨ rights &&& kindRights p.kind ≠ rights ∨ len = 0 ∨ off % gran ≠ 0 ∨
        len % gran ≠ 0 ∨ p.len < off + len then .flt (grantFlt 0x05) s
    else if 15 ≤ p.depth then .flt (grantFlt 0x07) s
    else match st.freeEntry with
      | none => .flt (grantFlt 0x06) s
      | some i =>
        let st' := st.mint i { Grant.reset with
          kind := p.kind, object := p.object, rights := BitVec.ofNat 8 rights, base := p.base + off, len := len,
          parent := hIndex h, depth := p.depth + 1, holder := some g }
        .ok ((s.setStore g st').onThread g (fun t => t.setReg x.rd2 (st'.handle i)))))

/-- GREVOKE, 0xF0 0x22 (R180, R181): marks, and waits for drain.
DESIGN CHOICE (log 20). -/
def execGrevoke (x : Insn) (s : State) : Host.Outcome State Fault Refusal :=
  .next (s.issue (opAuth 1 (fun x => x.rd2 == 0 && isInt x.rs2 && decide (x.immRI.toNat ≤ 1))) x (fun s =>
    let g := x.thread
    let d := (s.domOf g).getD 64
    let st := s.storeOf g
    let h := (s.thread g).reg x.rs2
    let i := hIndex h
    if st.check g h = 1 then .flt (grantFlt 0x01) s
    else if !st.holdsAbove g i 16 then .flt (grantFlt 0x02) s
    else if x.immRI.toNat = 0 ∧ (st.entry i).depth = 0 then .flt (grantFlt 0x08) s
    else
      let l := (if x.immRI.toNat = 0 then [i] else []) ++ st.below i 16
      .wait ((s.revokeList d l).onThread g (fun t => { t with revoke := some x, draining := true }))))

/-- Ends the drain of thread `g`; a GREVOKE that waits for it retires (R181).
DESIGN CHOICE (log 20). -/
def execRevocationDrainEnd (thread : Nat) (s : State) : Host.Outcome State Fault Refusal :=
  let t := s.thread thread
  .next (if t.draining && s.drained ((s.domOf thread).getD 64) then
      let s := s.onThread thread (fun t => { t with draining := false, revoke := none })
      match t.revoke with
      | some x =>
        let n := (opAuth 1 (fun _ => true)).length x
        s.conclude thread n t.psw.ss (.ok (s.fetched thread n))
      | none => s
    else s)

/-- A value GQUERY returns of a valid grant (Table 4-10). -/
def Grant.query (e : Grant) (sel : Nat) : Nat :=
  match sel with
  | 0 => e.kind + e.rights.toNat * 2 ^ 4 + e.depth * 2 ^ 12 + natOf (e.depth == 0) * 2 ^ 16 +
      natOf e.parked.isSome * 2 ^ 17
  | 1 => e.object
  | 2 => e.base
  | _ => e.len

/-- GQUERY, 0xF0 0x23 (R182). -/
def execGquery (x : Insn) (s : State) : Host.Outcome State Fault Refusal :=
  .next (s.issue (opAuth 1 (fun x => isInt x.rd2 && isInt x.rs2 && decide (x.immRI.toNat ≤ 3))) x (fun s =>
    let t := s.thread x.thread
    let st := s.storeOf x.thread
    let h := t.reg x.rs2
    let v := if st.check x.thread h = 0 then (st.entry (hIndex h)).query x.immRI.toNat else 0
    .ok (s.setThread x.thread (t.setReg x.rd2 (BitVec.ofNat 64 v)))))

/-- GXFER.S, 0xF0 0x24 with immediate 0 (R183). -/
def execGxferS (x : Insn) (s : State) : Host.Outcome State Fault Refusal :=
  .next (s.issue (opAuth 1 (fun x => isInt x.rd2 && isInt x.rs2 && x.immRI.toNat == 0)) x (fun s =>
    let g := x.thread
    let t := s.thread g
    let st := s.storeOf g
    let h := t.reg x.rs2
    let i := hIndex h
    let e := st.entry i
    let dst := (t.reg x.rd2).toNat
    if st.check g h ≠ 0 then .flt (grantFlt (st.check g h)) s
    else if !e.rights.getLsbD 6 then .flt (grantFlt 0x03) s
    else if (s.domOf g).isNone ∨ s.domOf dst ≠ s.domOf g ∨ 256 ≤ dst then .flt (grantFlt 0x0A) s
    else if 8 ≤ (s.thread dst).gmail.length then .ok (s.onThread g (fun t => t.setReg x.rd2 1))
    else
      let s := (t.windowsOf i e.gen).foldl (fun s n => s.detachPark g n) s
      let st := s.storeOf g
      let s := s.setStore g (st.setEntry i { st.entry i with holder := none })
      .ok ((s.onThread dst (fun t => { t with gmail := t.gmail ++ [i] })).onThread g (fun t => t.setReg x.rd2 0))))

/-- GXFER.R, 0xF0 0x24 with immediate 1 (R184). -/
def execGxferR (x : Insn) (s : State) : Host.Outcome State Fault Refusal :=
  .next (s.issue (opAuth 1 (fun x => isInt x.rd2 && x.rs2 == 0 && x.immRI.toNat == 1)) x (fun s =>
    let g := x.thread
    match (s.thread g).gmail with
    | [] => .ok (s.onThread g (fun t => t.setReg x.rd2 0))
    | i :: rest =>
      let st := s.storeOf g
      let s := s.setStore g (st.setEntry i { st.entry i with holder := some g })
      .ok (s.onThread g (fun t => { t with gmail := rest }.setReg x.rd2 (st.handle i)))))

/-- The window a grant covers when attached (R186, R489, R591, R668), and its pin; none when the attach is refused. -/
def State.windowFor (s : State) (e : Grant) (i : Nat) : Option GrantWin :=
  let w (base : Nat) (r : Option Nat) : GrantWin :=
    { index := i, gen := e.gen, kind := e.kind, object := e.object, rights := e.rights, base := base,
      limit := base + e.len, revision := r }
  match e.kind with
  | 1 =>
    let v := s.volume e.object
    if v.deleting then none
    else match v.current with
      | none => none
      | some r => some (w (0x100000000000 + v.vbase + e.base) (some (e.parked.getD r)))
  | 2 =>
    let o := s.domain (bitsOf e.object 5 0)
    match FMap.find o.windows (bitsOf e.object 11 8) with
    | some b =>
      if o.valid && !o.cutWin.contains (bitsOf e.object 11 8) then some (w (b.base + e.base) none) else none
    | none => none
  | 3 => some (w (0xFE0002004000 + e.object * 0x10000 + e.base) none)
  | _ => some (w e.base none)

/-- GATTACH, 0xF0 0x25 (R186): a parked pin is taken over, else the current revision is pinned.
DESIGN CHOICE (log 21). -/
def execGattach (x : Insn) (s : State) : Host.Outcome State Fault Refusal :=
  .next (s.issue (opAuth 1 (fun x => x.rd2 == 0 && isInt x.rs2 && decide (x.immRI.toNat ≤ 7))) x (fun s =>
    let g := x.thread
    let h := (s.thread g).reg x.rs2
    let n := x.immRI.toNat
    let c := (s.storeOf g).check g h
    if c ≠ 0 then .flt (grantFlt c) s
    else
      let s := s.detach g n
      let st := s.storeOf g
      let e := st.entry (hIndex h)
      match s.windowFor e (hIndex h) with
      | none => .flt (grantFlt 0x0C) s
      | some w =>
        let s := match w.revision, e.parked with
          | some _, some _ => s.setStore g (st.setEntry (hIndex h) { e with parked := none })
          | some r, none => s.pin e.object r
          | none, _ => s
        .ok (s.onThread g (fun t => { t with gw := FMap.put t.gw n w }))))

/-- GDETACH, 0xF0 0x26 without park (R187). -/
def execGdetach (x : Insn) (s : State) : Host.Outcome State Fault Refusal :=
  .next (s.issue (opAuth 1 (fun x => x.rd2 == 0 && x.rs2 == 0 && decide (x.immRI.toNat ≤ 7))) x (fun s =>
    .ok (s.detach x.thread (x.immRI.toNat % 8))))

/-- GDETACH.P, 0xF0 0x26 with park (R187). -/
def execGdetachP (x : Insn) (s : State) : Host.Outcome State Fault Refusal :=
  .next (s.issue (opAuth 1 (fun x => x.rd2 == 0 && x.rs2 == 0 && decide (8 ≤ x.immRI.toNat) &&
    decide (x.immRI.toNat ≤ 15))) x (fun s =>
    .ok (s.detachPark x.thread (x.immRI.toNat % 8))))

/-! ### TINV (R159) -/

/-- The framing of TINV. -/
def opTinv : Op :=
  opAuth 1 (fun x => x.rd2 == 0 && decide (x.immRI.toNat ≤ 2) && (if x.immRI.toNat = 0 then isInt x.rs2 else x.rs2 == 0))

/-- TINV, 0xF0 0x27: once every older store is performed, it sends the invalidation to every core of the domain. -/
def execTinv (x : Insn) (s : State) : Host.Outcome State Fault Refusal :=
  .next (s.issue opTinv x (fun s =>
    let g := x.thread
    let t := s.thread g
    if t.ring ≠ 0 then .flt (Flt.mk' 0x02 0x01 0) s
    else if t.stq.isSome then .hold t.hold
    else
      let cores := ((s.threadsOf ((s.domOf g).getD 64)).filter (fun h => h % 2 == 0)).map (· / 2)
      .wait (s.setThread g { t with tinv := some {
        insn := x, mode := x.immRI.toNat, va := (t.reg x.rs2).toNat % 2 ^ 48,
        root := bitsOf (t.sysNat Sys.xlate) 51 12, wait := cores } })))

/-- Does a translation fall under a TINV of domain `d`? -/
def TinvOp.covers (o : TinvOp) (d : Nat) (e : TlbEntry) : Bool :=
  e.dom == d && (match o.mode with
    | 0 => (e.root == o.root || e.g) && e.va == o.va / 2 ^ e.bits * 2 ^ e.bits
    | 1 => e.root == o.root && !e.g
    | _ => true)

/-- Does a walker-cache entry fall under it? The table it names leads to no leaf alone, so mode 1 takes every table of the root.
-/
def TinvOp.coversWalk (o : TinvOp) (d : Nat) (w : WalkEntry) : Bool :=
  w.dom == d && (match o.mode with
    | 0 => w.root == o.root && w.at_ == o.va / 2 ^ (12 + 9 * w.level)
    | 1 => w.root == o.root
    | _ => true)

/-- A core receives the invalidation of `thread`'s TINV, drops the named translations and walker-cache entries and the speculative
walk results that used them (R272, R287), and acknowledges: between two commands every tile stream stands between two rows. -/
def execTinvInvalidate (thread core : Nat) (s : State) : Host.Outcome State Fault Refusal :=
  match (s.thread thread).tinv with
  | some o =>
    let d := (s.domOf thread).getD 64
    .next (if o.wait.contains core then
      ((s.onCore core (fun c =>
        { c with tlb := c.tlb.filter (fun e => !o.covers d e),
                 walker := c.walker.filter (fun w => !o.coversWalk d w) })).dropWalks core
          (o.covers d)).onThread thread (fun t => { t with tinv := some { o with wait := o.wait.filter (· != core) } })
      else s)
  | none => .next s

/-- TINV retires once every core has acknowledged. -/
def execTinvAckComplete (thread : Nat) (s : State) : Host.Outcome State Fault Refusal :=
  let t := s.thread thread
  .next (match t.tinv with
    | some o =>
      if o.wait.isEmpty then
        let s := s.setThread thread { t with tinv := none }
        s.conclude thread (opTinv.length o.insn) t.psw.ss (.ok (s.fetched thread (opTinv.length o.insn)))
      else s
    | none => s)

end Sys2Proof.Machine
end

