-- ==== Sys2Proof/Machine/Gates.lean ====
section
/-!
DEFINITION. Gate entry with its argument checks, and the returns GRET and FRET (R164 to R172, R211, R217, R218).
-/

namespace Sys2Proof.Machine

/-! ### Argument checks (R165) -/

/-- A failed argument check: subcode and FADDR. -/
structure ArgErr where
  sub : Nat
  at_ : Nat
  deriving DecidableEq, Repr

/-- Does the physical target of one byte accept a load or a store, grants counted (R40, R188, R819)? `prev` is the
windows that covered the earlier bytes of the page. -/
def State.argTarget (s : State) (g : Nat) (nd : Need) (pa : Nat) (dev : Bool) (prev : Option (List Nat)) :
    Option (Option (List Nat)) :=
  let d := (s.domOf g).getD 64
  match s.target g d pa with
  | none => none
  | some t =>
    if (nd.refusal t dev).isSome then none
    else match t with
    | .loam => (s.grantAt g d 1 pa [0] prev).toOption.map some
    | .dram => if (s.domain d).owns pa then some none else (s.grantAt g d 2 pa nd.rightBits prev).toOption.map some
    | .control off => (s.csGrant g d off nd.store prev).toOption
    | _ => some none

/-- The target check of `n` bytes at physical address `pa` for one kind of access. -/
def State.argBytes (s : State) (g : Nat) (nd : Need) (pa n : Nat) (dev : Bool) (prev : Option (List Nat)) : Bool :=
  match n with
  | 0 => true
  | k + 1 =>
    match s.argTarget g nd pa dev prev with
    | none => false
    | some w => s.argBytes g nd (pa + 1) k dev w

/-- The checks of one page's part `[va, va + k)` of a range at ring `p` (R165 steps 4 and 5).
DESIGN CHOICE (log 21). -/
def State.argPage (s : State) (g p : Nat) (r w : Bool) (va k : Nat) (tr : Option (TlbEntry × List Nat)) :
    Option ArgErr :=
  let rights := match tr with
    | none => none
    | some (e, _) => if e.plmax < p then some 0x04 else if w && !e.w then some 0x05 else none
  match rights with
  | some c => some ⟨c, va⟩
  | none =>
    let pa := match tr with | none => va | some (e, _) => e.pa + va % 2 ^ e.bits
    let dev := match tr with | none => false | some (e, _) => e.dev
    if (!r || s.argBytes g Need.ld pa k dev none) && (!w || s.argBytes g Need.st pa k dev none) then none
    else some ⟨0x06, va⟩

/-- The pages of a range, lowest first (R165): the failure, or the state with the marks the walks leave. `fuel` bounds
the pages: a range of 65,536 bytes has bytes on at most 17. -/
def State.argPages (s : State) (g p : Nat) (r w : Bool) (va n fuel : Nat) : Except ArgErr State :=
  match fuel with
  | 0 => .ok s
  | f + 1 =>
    if n = 0 then .ok s
    else match s.translate g ((s.domOf g).getD 64) va with
      | .error .noTable => .error ⟨0x07, va⟩
      | .error .malformed => .error ⟨0x08, va⟩
      | .error _ => .error ⟨0x03, va⟩
      | .ok tr =>
        let bits := match tr with | none => 12 | some (e, _) => e.bits
        let k := min n (2 ^ bits - va % 2 ^ bits)
        match s.argPage g p r w va k tr with
        | some e => .error e
        | none =>
          let s := match tr with
            | none => s
            | some (e, l) =>
              s.useRef g false { va := va, pa := 0, tgt := .dram, dev := false, tlb := some e, path := l, wins := none }
          s.argPages g p r w (va + k) (n - k) f

/-- The check of one argument specification (R165). -/
def State.argCheck (s : State) (g spec : Nat) : Except ArgErr State :=
  let t := s.thread g
  let len := (t.reg (24 + bitsOf spec 5 3)).toNat
  let ptr := (t.reg (24 + bitsOf spec 2 0)).toNat
  if !bitOf spec 8 ∨ len = 0 then .ok s
  else if 65536 < len then .error ⟨0x01, ptr⟩
  else if 2 ^ 48 < ptr + len then .error ⟨0x02, max ptr (2 ^ 48)⟩
  else s.argPages g t.ring (bitOf spec 6) (bitOf spec 7) ptr len 18

/-- The argument specifications in order: a failure with the index it is at. -/
def State.argsCheck (s : State) (g : Nat) (specs : List Nat) (i : Nat) : Except (Nat × ArgErr) State :=
  match specs with
  | [] => .ok s
  | a :: rest =>
    match s.argCheck g a with
    | .error e => .error (i, e)
    | .ok s => s.argsCheck g rest (i + 1)

/-! ### GATE -/

/-- Is a descriptor malformed for a call from ring `p` (R164)? -/
def GateDesc.malformed (d : GateDesc) (p : Nat) : Bool :=
  decide (2 ≤ d.ssel) || (d.ssel == 1 && d.tpl != p) ||
    d.args.any (fun a => bitOf a 8 && (bitsOf a 2 0 == 7 || bitsOf a 5 3 == 7))

/-- The gate frame (Table 5-7). -/
def gateFrame (t : Thread) (retIp : Word) (n : Nat) : List Byte :=
  leBytes 8 (retIp.toNat % 2 ^ 48 + 3 * 2 ^ 48 + t.fl.toNat * 2 ^ 52) ++ leBytes 8 t.psw.toWord.toNat ++
  leBytes 8 t.sp.toNat ++ leBytes 8 (bitsOf (t.sysNat Sys.gcaller) 1 0 + n % 2 ^ 10 * 2 ^ 16) ++ leBytes 32 0

/-- The framing of GATE. -/
def opGate : Op := opAuth 2 (fun x => x.rd2 == 0 && x.rs2 == 0)

/-- Gate entry once every check has passed (R166 to R168): spills, stack limit, frame push, slide. -/
def State.gateEnter (s : State) (x : Insn) (n : Nat) (d : GateDesc) : Fin :=
  let g := x.thread
  let ret := s.after opGate x
  match s.makeRoom g 2 with
  | .error (f, s') => .flt f s'
  | .ok s =>
    let t := s.thread g
    let stack := if d.ssel = 0 ∧ d.tpl ≠ t.ring then t.sysNat (Sys.sp d.tpl) else t.sp.toNat
    let at_ := BitVec.ofNat 64 ((stack + (2 ^ 64 - 64)) / 64 * 64)
    if stack < 64 ∨ at_.toNat < t.sysNat (Sys.slim d.tpl) then .gateLimit at_ s
    else match s.storeAt g d.tpl at_.toNat (gateFrame t ret n) with
      | .error e => .flt (Flt.mk' 0x0A 0x07 (BitVec.ofNat 64 e.va)) s
      | .ok s =>
        let s := s.onThread g (fun t =>
          let u := (t.slide.setReg 7 ret).sysSet Sys.gcaller (BitVec.ofNat 64 t.ring)
          { u with psw := { t.psw with pl := BitVec.ofNat 2 d.tpl, ml := BitVec.ofNat 4 (max t.psw.ml.toNat d.ml),
                                       ss := false, brs := false } }.setReg 39 at_)
        .turn s (BitVec.ofNat 64 d.hip) [] none

/-- GATE, 0xF0 0x20 (R164). -/
def execGate (x : Insn) (s : State) : Host.Outcome State Fault Refusal :=
  .next (s.issue opGate x (fun s =>
    let g := x.thread
    let t := s.thread g
    let n := x.immRI.toNat
    if t.gtlCount ≤ n then .flt (Flt.mk' 0x0A 0x01 0) s
    else match s.fenceWait g with
    | some r => r
    | none =>
      match s.gateDesc g n with
      | none => .flt (Flt.mk' 0x0A 0x06 (BitVec.ofNat 64 (t.descAddr n))) s
      | some d =>
        if d.kind ≠ 1 then .flt (Flt.mk' 0x0A 0x02 0) s
        else if d.minpl < t.ring then .flt (Flt.mk' 0x0A 0x03 0) s
        else if t.ring < d.tpl then .flt (Flt.mk' 0x0A 0x04 0) s
        else if d.malformed t.ring then .flt (Flt.mk' 0x0A 0x05 0) s
        else match s.argsCheck g d.args 0 with
          | .error (i, e) =>
            .flt { code := 0x0B, sub := e.sub, faddr := BitVec.ofNat 64 e.at_, fprog := BitVec.ofNat 64 i } s
          | .ok s' =>
            -- a failed entry keeps nothing but its completed spills (R168)
            let kept := match s.makeRoom g 2 with | .ok u => u | .error (_, u) => u
            match s'.gateEnter x n d with
            | .flt f _ => .flt f kept
            | .gateLimit a _ => .gateLimit a kept
            | r => r))

/-! ### Returns -/

/-- A frame as read (Table 5-7). -/
structure Frame where
  ip   : Nat
  kind : Nat
  fl   : BitVec 4
  win  : Bool
  psw  : Psw
  sp   : Word
  q    : List Word
  deriving DecidableEq, Repr

/-- The frame 64 bytes hold; `q` is the quadwords from +24. -/
def frameOf (bs : List Byte) : Frame :=
  let q (i : Nat) : Nat := leNat ((bs.drop (8 * i)).take 8)
  { ip := bitsOf (q 0) 47 0, kind := bitsOf (q 0) 51 48, fl := BitVec.ofNat 4 (bitsOf (q 0) 55 52), win := bitOf (q 0) 56,
    psw := Psw.ofWord (BitVec.ofNat 64 (q 1)), sp := BitVec.ofNat 64 (q 2),
    q := [BitVec.ofNat 64 (q 3), BitVec.ofNat 64 (q 4), BitVec.ofNat 64 (q 5), BitVec.ofNat 64 (q 6), BitVec.ofNat 64 (q 7)] }

/-- Quadword `i` from +24 of a frame. -/
def Frame.quad (f : Frame) (i : Nat) : Word := (f.q.drop i).headD 0

/-- Reads `n` bytes of a frame at the current ring (R218, R819) and goes on with them. -/
def State.readFrame (s : State) (g : Nat) (va n : Nat) (k : List Byte → State → Fin) : Fin :=
  match s.check g (s.thread g).ring Need.blockLd va n with
  | .error e => .flt e.flt s
  | .ok rs =>
    match s.loadSome g .load rs with
    | .bad s sub _ => .flt (Flt.mk' 0x14 sub (BitVec.ofNat 64 va)) s
    | .stall h s => .stall h s
    | .bytes bs s => k bs s

/-- Slides back and goes on; a fault leaves `s0`. -/
def State.thenSlide (s s0 : State) (g : Nat) (k : State → Fin) : Fin :=
  match s.slideBack g with
  | .flt f _ => .flt f s0
  | .stall h s => .stall h s
  | .ok s => k s

/-- ML as GRET and FRET restore it (R211). -/
def Thread.cappedPsw (t : Thread) (p : Psw) : Psw :=
  let k := p.pl.toNat
  if k = 0 then p
  else { p with ml := BitVec.ofNat 4 (min p.ml.toNat (bitsOf (t.sysNat Sys.ringctl) (4 * k + 23) (4 * k + 20))) }

/-- GRET, 0x03 (R172). -/
def execGret (x : Insn) (s : State) : Host.Outcome State Fault Refusal :=
  .next (s.issue (Op.plain false .n (fun _ => true)) x (fun s =>
    let g := x.thread
    let t := s.thread g
    match s.fenceWait g with
    | some r => r
    | none =>
    s.readFrame g t.sp.toNat 64 (fun bs s1 =>
      let f := frameOf bs
      if f.kind ≠ 3 then .flt (Flt.mk' 0x0A 0x09 0) s
      else if f.psw.pl.toNat < t.ring then .flt (Flt.mk' 0x0A 0x08 0) s
      else s1.thenSlide s g (fun s2 =>
          let s3 := s2.onThread g (fun u =>
            { u.sysSet Sys.gcaller (f.quad 0 &&& 3) with psw := t.cappedPsw f.psw }.setReg 39 f.sp)
          let step := if f.psw.ss then some (BitVec.ofNat 64 (f.ip + 2 ^ 48 - 6) &&& 0xFFFFFFFFFFFF)
            else if t.psw.ss then some t.pc else none
          .turn s3 (BitVec.ofNat 64 f.ip) [] step))))

/-- The fault-report registers a frame restores (R218). -/
def Thread.unreport (t : Thread) (f : Frame) : Thread :=
  ((((t.sysSet Sys.cause (f.quad 0 &&& 0x3FFFF)).sysSet Sys.faddr (f.quad 1)).sysSet Sys.fprog (f.quad 2)).sysSet
    Sys.ecause (f.quad 3 &&& 0x1FFFF)).sysSet Sys.fip (f.quad 4 &&& 0xFFFFFFFFFFFF)

/-- A trap kept at the stack pointer that a handler returns to goes before the next instruction, wherever that stands (R232).
DEDUCED (log 67). -/
def Thread.trapsReturn (t : Thread) (ip : Nat) : Thread :=
  { t with traps := t.traps.map (fun x => if x.atSp == t.sp then { x with atIp := BitVec.ofNat 48 ip } else x) }

/-- FRET, 0x05 (R218). -/
def execFret (x : Insn) (s : State) : Host.Outcome State Fault Refusal :=
  .next (s.issue (Op.plain false .n (fun _ => true)) x (fun s =>
    let g := x.thread
    let t := s.thread g
    match s.fenceWait g with
    | some r => r
    | none =>
    s.readFrame g t.sp.toNat 64 (fun bs s1 =>
      let f := frameOf bs
      let finish (img : List Byte) (s2 : State) : Fin := s2.thenSlide s g (fun s3 =>
        let s4 := s3.onThread g (fun u =>
          let u := if f.win then { u with older := u.older ++ [windowOfBytes img] } else u
          ({ u.unreport f with psw := t.cappedPsw f.psw, fl := f.fl }.setReg 39 f.sp).trapsReturn f.ip)
        .turn s4 (BitVec.ofNat 64 f.ip) [] (if t.psw.ss then some t.pc else none))
      if f.kind ≠ 1 ∧ f.kind ≠ 2 ∧ f.kind ≠ 4 then .flt (Flt.mk' 0x0A 0x0A 0) s
      else if f.psw.pl.toNat < t.ring then .flt (Flt.mk' 0x0A 0x0B 0) s
      else if f.win then s1.readFrame g ((t.sp.toNat + 64) % 2 ^ 64) 192 finish
      else finish [] s1)))

end Sys2Proof.Machine
end

