-- ==== Sys2Proof/Machine/Events.lean ====
section
/-!
DEFINITION. The interrupt distributor's registers, and the events that reach threads: interrupts, held tile-stream
faults, machine checks, corrected errors, MSI writes, breakpoints and the barriers of chapters 6 and 11 (R224 to R240,
R257, R458).
-/

namespace Sys2Proof.Machine

/-! ### The distributor (R224) -/

/-- SRCCFG of source `n` as read (Table 5-8). -/
def Domain.srcWord (x : Domain) (n : Nat) : Nat :=
  let c := x.src n
  c.level + natOf c.en * 2 ^ 4 + natOf c.pend * 2 ^ 5 + natOf c.ovr * 2 ^ 6 + c.target % 256 * 2 ^ 16

/-- SRCCFG of source `n` after a write of `v`. -/
def State.srcWrite (s : State) (d n v : Nat) : State :=
  s.onDomain d (fun x =>
    let c := x.src n
    let target := bitsOf v 23 16
    let fixed := decide (0x100 ≤ n) && decide (n < 0x200)
    x.setSrc n {
      level := if bitsOf v 3 0 = 15 then c.level else bitsOf v 3 0
      en := bitOf v 4
      pend := c.pend && !bitOf v 5
      ovr := c.ovr && !bitOf v 6
      target := if fixed || !s.inDomain target d then c.target else target })

/-- A store to SETPEND of domain `d`: only the sources Table 5-9 lets it raise. -/
def State.setPend (s : State) (d v : Nat) : State :=
  let n := bitsOf v 9 0
  if (0x010 ≤ n ∧ n < 0x100) ∨ 0x300 ≤ n then s.raise d n else s

/-- A load from a distributor block; SETPEND is write-only. -/
def State.distRead (s : State) (d off : Nat) : Nat :=
  if off < 0x2000 then (s.domain d).srcWord (off / 8) else 0

/-- A store to a distributor block. -/
def State.distWrite (s : State) (d off v : Nat) : State :=
  if off < 0x2000 then s.srcWrite d (off / 8) v else s.setPend d v

/-- Does a control-space access of a thread reach the register its row names (R15, R43), no TFENCE and no store that holds before
it (R304, R461, R464)? -/
def State.csReaches (s : State) (w : CsStore) (p : CsLoc → Bool) : Bool :=
  let l := csLocate w.offset
  let d := (s.domOf w.thread).getD 64
  (s.thread w.thread).run == .running && (s.csTarget d l || s.recvTarget w.thread d l) && w.width == csWidth l &&
    (s.fenceWait w.thread).isNone && p l

/-- A store of `v` to control-space offset `off` that holds in the store queue of its thread, with the ring it was made at (R422).
DESIGN CHOICE (log 33). -/
def State.holdStore (s : State) (g : Nat) (h : Hold) (off v : Nat) : State :=
  s.onThread g (fun t => { t with stq := some { off := off, value := v, ring := t.ring, marked := false }, hold := h })

/-- SETPEND (R224). -/
def execSetpend (w : CsStore) (s : State) : Host.Outcome State Fault Refusal :=
  .next (match csLocate w.offset with
    | .dist d off => if s.csReaches w (fun _ => off == 0x2000) then s.distWrite d off w.value.toNat else s
    | _ => s)

/-- An MSI or MSI-X write with data m (R225): source 0x300 + (m mod 256) of the domain that owns the root port. -/
def execMsiWrite (port data : Nat) (s : State) : Host.Outcome State Fault Refusal :=
  .next (match s.domList.find? (fun d => (s.domain d).ports.getLsbD port) with
    | some d =>
      let n := data % 256
      if (s.port port).exists_ then
        (s.onPort port (fun x => { x with msi := n :: x.msi.filter (· != n) })).raise d (0x300 + n)
      else s
    | none => s)

/-! ### Boundaries -/

/-- A GREVOKE whose drain thread `g` awaits retires when an event is to be taken at its boundary (R181): drain continues.
DESIGN CHOICE (log 20). -/
def State.leaveDrain (s : State) (g : Nat) : State :=
  let t := s.thread g
  match t.revoke with
  | some x =>
    let s := s.setThread g { t with revoke := none }
    let n := (opAuth 1 (fun _ => true)).length x
    s.conclude g n t.psw.ss (.ok (s.fetched g n))
  | none => s

/-- Does a takeable interrupt stand first at the thread's boundary (R230, R232), its frame waiting behind no TFENCE? -/
def State.irqDue (s : State) (g : Nat) : Option (Nat × Nat) :=
  let t := s.thread g
  if t.run == .running && t.tinv.isNone && t.checks.isEmpty && t.tileFaultDue.isNone && t.trapHere.isNone &&
      !t.deliveryWaits && decide (g < 256) then s.nextIrq g else none

/-- INTERRUPT_DELIVERY: the presented interrupt, when it is takeable and no event stands before it. FPROG is the progress of a
MOVS that holds at a progress point (R126). -/
def execInterruptDelivery (thread : Nat) (s : State) : Host.Outcome State Fault Refusal :=
  .next (if (s.irqDue thread).isSome then
      let s := s.leaveDrain thread
      match s.irqDue thread with
      | some (n, l) => s.deliverIrq thread n l (BitVec.ofNat 64 (s.thread thread).prog)
      | none => s
    else s)

/-- TILE_STREAM_FAULT_DELIVERY: a held fault whose level exceeds PSW.ML (R205). -/
def execTileStreamFaultDelivery (thread : Nat) (s : State) : Host.Outcome State Fault Refusal :=
  let t := s.thread thread
  .next (if t.issues && t.checks.isEmpty && !t.deliveryWaits && decide (thread < 256) then
      match t.tileFaultDue with
      | some (c, u) => s.deliverTile thread c u
      | none => s
    else s)

/-- A machine check reaches a thread (R239): at its boundary at once, a GREVOKE that waits for its drain retiring first; while
a TINV waits for its acknowledgements, at the boundary after it. -/
def State.raiseCheck (s : State) (e : HwError) : State :=
  if (s.thread e.thread).tinv.isSome then s.onThread e.thread (fun t => { t with checks := t.checks ++ [e] })
  else (s.leaveDrain e.thread).machineCheck e

/-- MACHINE_CHECK (R239): a thread that does not run consumes nothing. -/
def execMachineCheck (e : HwError) (s : State) : Host.Outcome State Fault Refusal :=
  .next (if (s.thread e.thread).run == .running && decide (e.thread < 256) then s.raiseCheck e else s)

/-- CORRECTED_ERROR (R239): ECNTu of the core, for both of its threads, and the SMC's log.
DEDUCED (log 59). -/
def execCorrectedError (e : HwError) (s : State) : Host.Outcome State Fault Refusal :=
  let c := e.thread / 2
  let s := if e.unit ≤ 8 then
      (s.onThread (2 * c) (fun t => t.addCorrected e.unit)).onThread (2 * c + 1) (fun t => t.addCorrected e.unit)
    else s
  .next (s.log 0x0005 (HwErrorUnit e)
    (leBytes 1 e.kind ++ leBytes 1 (natOf e.paddr.isSome) ++ leBytes 6 0 ++ leBytes 8 (e.paddr.getD 0)))

/-! ### BRK and the barriers -/

/-- BRK, 0x04 (R233).
DESIGN CHOICE (log 18). -/
def execBrk (x : Insn) (s : State) : Host.Outcome State Fault Refusal :=
  .next (s.issue (Op.plain false .n (fun _ => true)) x (fun s => .brk s))

/-- An operand-free system instruction that orders without further effect. -/
def State.barrier (s : State) (x : Insn) : State := s.issue (Op.plain true .n (fun _ => true)) x (fun s => .ok s)

/-- SBAR, 0xF0 0x02 (R257). -/
def execSbar (x : Insn) (s : State) : Host.Outcome State Fault Refusal := .next (s.barrier x)

/-- MFENCE, 0xF0 0x04 (R458): it waits for the store that holds in the store queue; any other is performed as it retires. -/
def execMfence (x : Insn) (s : State) : Host.Outcome State Fault Refusal :=
  .next (s.issue (Op.plain true .n (fun _ => true)) x (fun s =>
    if (s.thread x.thread).stq.isSome then .hold (s.thread x.thread).hold else .ok s))

/-- ISYNC, 0xF0 0x05 (R458): what its thread fetched behind it is discarded, and fetched again as it issues. -/
def execIsync (x : Insn) (s : State) : Host.Outcome State Fault Refusal :=
  .next (s.issue (Op.plain true .n (fun _ => true)) x (fun s => .ok (s.discardAfter x.thread 0)))

/-- PFLUSH, 0xF0 0x03 (R257): PL0 only. -/
def execPflush (x : Insn) (s : State) : Host.Outcome State Fault Refusal :=
  .next (s.issue (Op.plain true .n (fun _ => true)) x (fun s =>
    let g := x.thread
    let t := s.thread g
    if t.ring ≠ 0 then .flt (Flt.mk' 0x02 0x01 0) s
    else .ok ((s.setThread g { t with ras := [] }).onCore (g / 2) (fun c =>
      { c with
        bpTags := c.bpTags.filter (fun d => !(s.domOf g == some d))
        pfTags := c.pfTags.filter (fun d => !(s.domOf g == some d)) }))))

/-- BRANCH_MISPREDICT (R255, R256): what the thread had in flight behind the branch, but for the `older` oldest accesses, is
discarded; no architectural state of the wrong path was ever made. The branch counts as it retires (R277).
DESIGN CHOICE (log 61). -/
def execBranchMispredict (x : Mispredict) (s : State) : Host.Outcome State Fault Refusal :=
  .next (if (s.thread x.thread).run == .running && decide (x.thread < 256) then
      (s.discardAfter x.thread x.older).onThread x.thread (fun t => { t with misp := true })
    else s)

end Sys2Proof.Machine
end

