-- ==== Sys2Proof/Machine/Coherence.lean ====
section
/-!
DEFINITION. The commands of chapter 11: requests at the homes (R450 to R452, R484), forwards and their answers (R453, R454,
R476), the data that reach a requester (R455, R471, R472), L2 evictions and their notices (R447, R454), what other packages send
(R468, R469), and the install from the Speculative Fill Buffer (R271).
-/

namespace Sys2Proof.Machine

/-! ### Requests -/

/-- Has a requester cause to send a request (Table 11-2)? A core reads a line its L2 lacks and upgrades one it holds in S; its
non-allocating reads are those of its threads (R269); a WrL is an agent's. -/
def State.sends (s : State) (r : CohKind × CohReq) : Bool :=
  match s.localCore r.2.req with
  | some c =>
    let st := FMap.find (s.core c).l2 r.2.line
    (match r.1 with | .rds => st.isNone | .rdx => st.isNone | .upg => st == some .shared | _ => false)
  | none => r.1 != .wrl || decide (512 ≤ r.2.req)

/-- A request and those that reach their homes in its MCLK cycle (R451). -/
def State.requests (s : State) (l : List (CohKind × CohReq)) : State := s.arriveTogether (l.filter s.sends)

/-- RDS, RDX, UPG, RDNA and WRL: a request reaches its home (R450 to R452). -/
def execRds (r : HomeArrival) (s : State) : Host.Outcome State Fault Refusal :=
  .next (s.requests ((.rds, r.req) :: r.rivals))

/-- RDX. -/
def execRdx (r : HomeArrival) (s : State) : Host.Outcome State Fault Refusal :=
  .next (s.requests ((.rdx, r.req) :: r.rivals))

/-- UPG. -/
def execUpg (r : HomeArrival) (s : State) : Host.Outcome State Fault Refusal :=
  .next (s.requests ((.upg, r.req) :: r.rivals))

/-- RDNA: of an agent (R462), or of a thread's speculative access, which is not sent on a hit, at a bound or under SPECGUARD
(R266 to R270). The requests of the same cycle reach their homes after it.
DESIGN CHOICE (log 61). -/
def execRdna (r : NaArrival) (s : State) : Host.Outcome State Fault Refusal :=
  .next (match r.req with
    | .agent q => s.requests ((.rdna, q) :: r.rivals)
    | .spec a => (s.specBegin a).requests r.rivals)

/-- WRL. -/
def execWrl (r : HomeArrival) (s : State) : Host.Outcome State Fault Refusal :=
  .next (s.requests ((.wrl, r.req) :: r.rivals))

/-! ### The close of a transaction (Table 11-3) -/

/-- The close of a line's transaction, every answer in: the data or the grant that waited for them, the state of the directory,
and the next request of the line, or of the lines that waited for its entry. -/
def State.closeTxn (s : State) (line : Nat) (t : Txn) : State :=
  let x := s.line line
  let me := s.holderOf t.req
  let s := s.onLine line (fun x => { x with txn := none })
  let data (k : MsgKind) : State := s.send [msgOf k line t.req none]
  let s := match t.kind, x.dir with
    | .rds, .owned o => s.setDir line (.shared (others [o] me ++ [me]))
    | .rdx, .shared _ => (((data .datax).allocL3 t.dom line).staleL3 line).setDir line (.owned me)
    | .rdx, _ => s.setDir line (.owned me)
    | .upg, _ => ((data .grantx).staleL3 line).setDir line (.owned me)
    | .wrl, _ => s.writeLine line t.dom t.bytes
    | .free, _ => s.setDir line .invalid
    | _, _ => s
  let woken := if t.kind = .free then s.entryWaiters line else []
  (woken ++ [line]).foldl (fun s l => s.openNext l s.openFuel) s

/-- An answer of `holder` to a forward or invalidation of a line has reached its home: the transaction closes with the last, and
a notice recorded meanwhile is answered with WbStale (R454). -/
def State.answered (s : State) (line holder : Nat) : State :=
  let x := s.line line
  match x.txn with
  | some t =>
    let t' := { t with wait := others t.wait holder }
    let noted := x.notices.contains holder
    let s := s.onLine line (fun x => { x with txn := some t', notices := others x.notices holder })
    let s := if t'.wait.isEmpty then s.closeTxn line t' else s
    if noted then s.send [msgOf .wbstale line holder none] else s
  | none => s

/-! ### Other packages (R468, R469) -/

/-- Does a number name a core of another package, which stands for the package? -/
def State.outside (s : State) (req : Nat) : Bool := decide (req < 512) && (s.localCore req).isNone

/-- A line whose data another package sends: what that package has written there is a free value.
DESIGN CHOICE (log 7, 63). -/
def State.freeLine (s : State) (line : Nat) : State :=
  (List.range 8).foldl (fun s i =>
    let r := s.takeFree
    { r.2 with dram := Mem.write r.2.dram (line * 64 + 8 * i) (leBytes 8 r.1.toNat) }) s

/-- A forward or invalidation of the home of another package reaches this package's slice as the line's proxy: its own L2s act as
Table 11-3 gives, and the package keeps S after FwdS and nothing after FwdX or Inv. It waits while the proxy has a request of its
own or a transaction open (R453). -/
def State.proxyForward (s : State) (k : MsgKind) (line : Nat) : State :=
  let right (n : Nat) (s : State) : State := s.onLine line (fun x => { x with right := n })
  if s.remoteHomed line && decide (0 < (s.line line).right) && s.lineIdle line && s.holdersHere line then
    match k with
    | .fwdna => s
    | .fwds =>
      (match (s.line line).dir with
      | .owned o => right 1 ((s.readLine 64 line o).1.setDir line (.shared [o]))
      | _ => right 1 s)
    | _ =>
      let s := (s.dropHolders line 10000).setDir line .invalid
      right 0 ({ s with l3 := s.l3.filter (fun e => !(e.line == line && e.tag == dramTag)) }.onLine line (fun x =>
        { x with inL3 := false, l3dirty := false, l3old := false }))
  else s

/-- The answer of another package's home to this package's request for a line: the package's right to it, and the requests that
waited for it. -/
def State.proxyAnswer (s : State) (k : MsgKind) (line : Nat) : State :=
  let x := s.line line
  if s.remoteHomed line && x.up.isSome then
    let s := if k = .grantx then s else s.freeLine line
    let s := s.onLine line (fun x => { x with up := none, right := match k with | .datana => x.right | .datas => 1 | _ => 2 })
    let s := match k, x.waiting with
      | .datana, r :: rest =>
        if r.kind = ReqKind.rdna then
          (s.onLine line (fun x => { x with waiting := rest })).send [{ msgOf .datana line r.req none with data := s.lineBytes line }]
        else s
      | _, _ => s
    s.openNext line s.openFuel
  else s

/-! ### Holders -/

/-- How a core stands to a line: its L2 state, else its writeback buffer, with or without data (R454). -/
inductive Holding where
  | cache (st : LineSt)
  | buffer (data : Bool)
  | absent
  deriving DecidableEq, Repr

/-- Where a core holds a line. -/
def Core.holding (c : Core) (line : Nat) : Holding :=
  match FMap.find c.l2 line with
  | some st => .cache st
  | none => match FMap.find c.wb line with | some d => .buffer d | none => .absent

/-- Changes the core of a holder; an agent has none. -/
def State.onHolder (s : State) (c : Option Nat) (f : Core → Core) : State :=
  match c with | some c => s.onCore c f | none => s

/-- A forward or invalidation reaches a holder of this package: it is held while the holder's own request for the line is open
(R453); else `f` of how it holds the line. An agent answers from its data, as a writeback buffer does. -/
def State.forwarded (s : State) (k : MsgKind) (line holder : Nat) (f : State → Option Nat → CohMsg → Holding → State) : State :=
  match s.arriving k line holder with
  | some m =>
    let keep : State := { s with msgs := s.msgs.map (fun x => if x = m then { x with held := true } else x) }
    (match s.localCore holder with
    | some c => if FMap.has (s.core c).want line then keep else f (s.take m) (some c) m ((s.core c).holding line)
    | none =>
      if s.outside holder then s
      else if s.agentWant.any (fun q => q.line == line && q.req == holder) then keep
      else f (s.take m) none m (.buffer true))
  | none => if holder = 128 * s.pins.tussockId.toNat then s.proxyForward k line else s

/-- An answer to the home. -/
def toHome (k : MsgKind) (line holder : Nat) : CohMsg := msgOf k line holder none

/-- Data to the requester a forward names. -/
def dataFor (k : MsgKind) (line holder : Nat) (m : CohMsg) (bs : List Byte) : List CohMsg :=
  match m.req with
  | some r => [{ msgOf k line r (some holder) with data := bs }]
  | none => []

/-- FWDS: the owner sends DataS and keeps the line in S; FwdAckD when it held M, FwdAck when it held E, FwdNak from a
buffer without data (R476). -/
def execFwds (line holder : Nat) (s : State) : Host.Outcome State Fault Refusal :=
  .next (s.forwarded .fwds line holder (fun s c m h =>
    let share := s.onHolder c (fun x => { x with l2 := FMap.put x.l2 line .shared })
    match h with
    | .cache .modified => share.send (dataFor .datas line holder m [] ++ [toHome .fwdackd line holder])
    | .cache _ => share.send (dataFor .datas line holder m [] ++ [toHome .fwdack line holder])
    | .buffer true => s.send (dataFor .datas line holder m [] ++ [toHome .fwdackd line holder])
    | _ => s.send [toHome .fwdnak line holder]))

/-- FWDX: the owner sends DataX and drops the line. -/
def execFwdx (line holder : Nat) (s : State) : Host.Outcome State Fault Refusal :=
  .next (s.forwarded .fwdx line holder (fun s c m h =>
    match h with
    | .cache _ =>
      (s.onHolder c (fun x => x.dropLine line)).send (dataFor .datax line holder m [] ++ [toHome .fwdack line holder])
    | .buffer true => s.send (dataFor .datax line holder m [] ++ [toHome .fwdack line holder])
    | _ => s.send [toHome .fwdnak line holder]))

/-- FWDNA: the owner sends DataNA and keeps its state. -/
def execFwdna (line holder : Nat) (s : State) : Host.Outcome State Fault Refusal :=
  .next (s.forwarded .fwdna line holder (fun s _ m h =>
    match h with
    | .cache _ => s.send (dataFor .datana line holder m (s.lineBytes line) ++ [toHome .fwdack line holder])
    | .buffer true => s.send (dataFor .datana line holder m (s.lineBytes line) ++ [toHome .fwdack line holder])
    | _ => s.send [toHome .fwdnak line holder]))

/-- INV: the holder drops its copy, of L1I too (R460), and acknowledges. An SFB entry of the line stays (R278). -/
def execInv (line holder : Nat) (s : State) : Host.Outcome State Fault Refusal :=
  .next (s.forwarded .inv line holder (fun s c _ _ =>
    (s.onHolder c (fun x => x.dropLine line)).send [toHome .fwdack line holder]))

/-- BINV: as INV for a directory eviction, with the data of a line held in M (R448). -/
def execBinv (line holder : Nat) (s : State) : Host.Outcome State Fault Refusal :=
  .next (s.forwarded .binv line holder (fun s c _ h =>
    let k : MsgKind := match h with | .cache .modified => .fwdackd | .buffer true => .fwdackd | _ => .fwdack
    (s.onHolder c (fun x => x.dropLine line)).send [toHome k line holder]))

/-! ### Responses to a requester -/

/-- The store that waited for a line is performed (R453, R455, R472). -/
def State.performWant (s : State) (c line : Nat) (w : Want) : State :=
  if w.bytes.isEmpty then s
  else
    let s := s.onCore c (fun x => x.fill1 .store (line, dramTag))
    { s with dram := Mem.write s.dram (line * 64 + w.off) (w.bytes.take (64 - w.off)) }.dropStray line (s.reqNo c)

/-- A line reaches the L2 that asked for it: it installs, its load or its oldest store uses it once, and the requests that waited
in the L2 go out. None while the line it replaces cannot leave. -/
def State.served (s : State) (c line : Nat) (st : LineSt) : Option State :=
  (s.install2 c (line, dramTag) st).map (fun s =>
    let w := FMap.find (s.core c).want line
    let s := s.onCore c (fun x => { x with want := FMap.erase x.want line })
    let s := match w, st with
      | some w, .modified => s.performWant c line w
      | some _, _ => s.onCore c (fun x => x.fill1 .load (line, dramTag))
      | none, _ => s
    s.sendLater c line)

/-- An agent's ownership arrives: it writes its part of the line and gives the line up with a WbM (R462). -/
def State.agentServed (s : State) (line req : Nat) : State :=
  match s.agentWant.find? (fun q => q.line == line && q.req == req) with
  | some q =>
    ({ s with agentWant := dropFirst (· == q) s.agentWant,
              dram := Mem.write s.dram (line * 64 + q.off) (q.bytes.take (64 - q.off)) } : State).dropStray line 10000
      |>.send [toHome .wbm line req]
  | none => s

/-- The data of a root port's read reach it, for its device (R462). -/
def State.agentData (s : State) (req : Nat) (bs : List Byte) : State :=
  if portAgent 0 ≤ req ∧ req < portAgent 16 then s.onPort (req - portAgent 0) (fun x => { x with dmaData := x.dmaData ++ bs }) else s

/-- A response reaches its requester: a line in state `st`, or a copy that installs nowhere. -/
def State.response (s : State) (k : MsgKind) (line req : Nat) (st : Option LineSt) : State :=
  match s.arriving k line req with
  | some m =>
    (match s.localCore req, st with
    | some c, some v => ((s.take m).served c line v).getD s
    | some c, none => (s.take m).specData c line m.data
    | none, some .modified => (s.take m).agentServed line req
    | none, _ => (s.take m).agentData req m.data)
  | none => if req = 128 * s.pins.tussockId.toNat then s.proxyAnswer k line else s

/-- DATAS. -/
def execDatas (line req : Nat) (s : State) : Host.Outcome State Fault Refusal :=
  .next (s.response .datas line req (some .shared))

/-- DATAE. -/
def execDatae (line req : Nat) (s : State) : Host.Outcome State Fault Refusal :=
  .next (s.response .datae line req (some .exclusive))

/-- DATAX: the line in M; an Upg answered so uses the new data (R471). -/
def execDatax (line req : Nat) (s : State) : Host.Outcome State Fault Refusal :=
  .next (s.response .datax line req (some .modified))

/-- DATANA: a copy that installs nowhere, but for a wrong-path fetch's line (R266, R268). -/
def execDatana (line req : Nat) (s : State) : Host.Outcome State Fault Refusal :=
  .next (s.response .datana line req none)

/-- GRANTX: ownership without data. -/
def execGrantx (line req : Nat) (s : State) : Host.Outcome State Fault Refusal :=
  .next (s.response .grantx line req (some .modified))

/-! ### Answers at the home -/

/-- An answer reaches the home: a message of this package, or one of another package that a forward was sent to, whose data, the
dirty data of its owner, are then sent to the requester too. -/
def State.homeAnswer (s : State) (k : MsgKind) (line holder : Nat) (f : State → State) : State :=
  match s.arriving k line holder with
  | some m => f (s.take m)
  | none =>
    if !s.outside holder then s
    else match s.msgs.find? (fun m => m.kind.cls == 1 && m.line == line && m.peer == holder) with
      | none => s
      | some m =>
        let s := s.take m
        let s := if k = .fwdackd ∨ (k = .fwdack ∧ (m.kind = .fwdx ∨ m.kind = .fwdna)) then s.freeLine line else s
        let send (d : MsgKind) : State := s.send (dataFor d line holder m (s.lineBytes line))
        f (if k = .fwdnak then s
          else match m.kind with | .fwds => send .datas | .fwdx => send .datax | .fwdna => send .datana | _ => s)

/-- FWDACK reaches the home: an owner that shared a clean line or gave it up leaves L3's copy current (R446). -/
def execFwdack (line holder : Nat) (s : State) : Host.Outcome State Fault Refusal :=
  .next (s.homeAnswer .fwdack line holder (fun s =>
    let clean := (s.line line).txn.any (fun t => t.kind == .rds || t.kind == .free)
    (if clean then s.freshL3 line else s).answered line holder))

/-- FWDACKD reaches the home: its data are written to L3. -/
def execFwdackd (line holder : Nat) (s : State) : Host.Outcome State Fault Refusal :=
  .next (s.homeAnswer .fwdackd line holder (fun s =>
    (s.writeL3 (((s.line line).txn.map (·.dom)).getD 64) line).answered line holder))

/-- FWDNAK reaches the home: the requester gets the line from L3 or DRAM, both current (R476). -/
def execFwdnak (line holder : Nat) (s : State) : Host.Outcome State Fault Refusal :=
  .next (s.homeAnswer .fwdnak line holder (fun s =>
    match (s.line line).txn with
    | some t =>
      let k : MsgKind := match t.kind with | .rds => .datas | .rdna => .datana | _ => .datax
      let bs := if t.kind = .rdna then s.lineBytes line else []
      let s := (s.send [{ msgOf k line t.req none with data := bs }]).freshL3 line
      let s := if t.kind = .rdna then s
        else if t.kind = .rds then s.allocL3 t.dom line else (s.allocL3 t.dom line).staleL3 line
      s.answered line holder
    | none => s))

/-! ### Evictions (R447, R454) -/

/-- L2_EVICTION: the notice to the home; a line in M or E stays in the writeback buffer, and holds in L2 while all 16
entries are in use. A Loam line leaves without notice (R465). -/
def execL2Eviction (core line : Nat) (s : State) : Host.Outcome State Fault Refusal :=
  let c := s.core core
  .next (match if FMap.has c.l2 line then some (line, dramTag) else c.l2use.find? (fun k => k.1 == line) with
    | some k => (s.evictOut core k).getD s
    | none => s)

/-- An eviction notice reaches the home (R454): recorded while a forward to its sender is open, accepted when `held`
says that the directory records the sender, stale otherwise. -/
def State.notice (s : State) (k : MsgKind) (line core : Nat) (held : DirSt → Bool) (accept : State → State) : State :=
  let got := match s.arriving k line core with
    | some m => some (s.take m)
    | none => if s.outside core then some s else none
  match got with
  | some s =>
    let x := s.line line
    if x.txn.any (fun t => t.wait.contains core) then s.onLine line (fun x => { x with notices := x.notices ++ [core] })
    else if held x.dir then (accept s).send [msgOf .wback line core none]
    else s.send [msgOf .wbstale line core none]
  | none => s

/-- The domain that a notice's L3 allocation is made for. -/
def State.noticeDom (s : State) (core : Nat) : Nat :=
  match s.localCore core with | some c => (s.domOf (2 * c)).getD 64 | none => 64

/-- WBM. -/
def execWbm (line core : Nat) (s : State) : Host.Outcome State Fault Refusal :=
  .next (s.notice .wbm line core (· == .owned core) (fun s =>
    let s := if s.outside core then s.freeLine line else s
    s.giveUp (s.noticeDom core) line core .modified))

/-- EVE: the owner's line was clean, so L3's copy is current. -/
def execEve (line core : Nat) (s : State) : Host.Outcome State Fault Refusal :=
  .next (s.notice .eve line core (· == .owned core) (fun s => s.giveUp (s.noticeDom core) line core .exclusive))

/-- EVS. -/
def execEvs (line core : Nat) (s : State) : Host.Outcome State Fault Refusal :=
  .next (s.notice .evs line core (fun d => match d with | .shared l => l.contains core | _ => false)
    (fun s => s.giveUp (s.noticeDom core) line core .shared))

/-- An answer to a notice frees the writeback buffer's entry, and the requests that waited behind it go out. -/
def State.noticeAnswer (s : State) (k : MsgKind) (line core : Nat) : State :=
  match s.arriving k line core, s.localCore core with
  | some m, some c => ((s.take m).onCore c (fun x => { x with wb := FMap.erase x.wb line })).sendLater c line
  | some m, none => s.take m
  | none, _ => s

/-- WBACK. -/
def execWback (line core : Nat) (s : State) : Host.Outcome State Fault Refusal := .next (s.noticeAnswer .wback line core)

/-- WBSTALE. -/
def execWbstale (line core : Nat) (s : State) : Host.Outcome State Fault Refusal :=
  .next (s.noticeAnswer .wbstale line core)

/-! ### Installs (R271) -/

/-- SFB_INSTALL: the oldest load of a thread whose SFB entry holds the line has become non-speculative. The row says where the
entry's bytes came from and whether they have changed since; one that says it wrongly is no event of the part. DESIGN CHOICE (log
61). -/
def execSfbInstall (thread line : Nat) (fromL2 changed : Bool) (s : State) : Host.Outcome State Fault Refusal :=
  .next (match (s.core (thread / 2)).spec.find? (fun o =>
      o.acc.thread == thread && o.line == line && o.at_ == .ready && !o.put && !o.dead && !o.acc.fetch) with
    | some o =>
      if (s.thread thread).run == .running && o.fromL2 == fromL2 && s.specChanged o == changed then s.specInstall o else s
    | none => s)

end Sys2Proof.Machine
end

