-- ==== Sys2Proof/Machine/Stream.lean ====
section
/-!
DEFINITION. The commands of the Stream engine of a core (R420 to R427): the launch and abort of a descriptor, its requests and its
end, and the TSB aperture.
-/

namespace Sys2Proof.Machine

/-! ### Commands -/

/-- The core and descriptor whose DnCTL a store reaches. -/
def State.ctlOf (s : State) (w : CsStore) : Option (Nat × Nat) :=
  match csLocate w.offset with
  | .stream c off =>
    if s.csReaches w (fun _ => decide (0x100 ≤ off) && decide (off < 0x500) && off % 0x40 == 0x28) then
      some (c, (off - 0x100) / 0x40)
    else none
  | _ => none

/-- DESCRIPTOR_LAUNCH (R422, R423): GO = 1 and ABORT = 0. -/
def execDescriptorLaunch (w : CsStore) (s : State) : Host.Outcome State Fault Refusal :=
  .next (match s.ctlOf w with
    | some (c, n) =>
      if bitOf w.value.toNat 0 && !bitOf w.value.toNat 1 then
        if (s.core c).descBusy n then s.holdStore w.thread .busyDescriptor w.offset w.value.toNat
        else s.ctlStore w.thread c n w.value.toNat
      else s
    | none => s)

/-- DESCRIPTOR_ABORT (R426). -/
def execDescriptorAbort (w : CsStore) (s : State) : Host.Outcome State Fault Refusal :=
  .next (match s.ctlOf w with
    | some (c, n) =>
      if bitOf w.value.toNat 1 && !bitOf w.value.toNat 0 && (s.core c).descBusy n then s.abortStore c n w.value.toNat
      else s
    | none => s)

/-- The busy descriptor that the engine serves next: in turn, in ascending number, while fewer than 64 requests are in flight
(R424). -/
def Core.serveNext (c : Core) : Option Nat :=
  let can (n : Nat) : Bool :=
    c.descBusy n && decide ((c.desc n).row < (c.desc n).nRows) && (c.desc n).ending.isNone
  if 64 ≤ ((List.range 16).map (fun n => (c.desc n).flight.length)).sum then none
  else ((List.range 16).find? (fun n => decide (c.nextDesc ≤ n) && can n)).or ((List.range 16).find? can)

/-- The source address and length of a descriptor's next request: within its row, its page of 4 KiB, and so its Loam unit (R424).
-/
def Desc.piece (d : Desc) : Nat × Nat :=
  let va := ((Int.ofNat (d.src.toNat + d.off) + Int.ofNat d.row * signedOf 64 d.sstr.toNat) % 2 ^ 64).toNat
  (va, min (d.rowLen - d.off) (4096 - va % 4096))

/-- A descriptor once a request of `len` bytes has issued. -/
def Desc.issued (d : Desc) (len : Nat) : Desc :=
  if d.rowLen ≤ d.off + len then { d with row := d.row + 1, off := 0 } else { d with off := d.off + len }

/-- Issues a request that passed its checks (R424, R425, R462): Loam goes to the LC of its stack, which sends the codewords; the
bytes of DRAM are read and written at once. None when it holds at a bound of the way to memory. -/
def State.streamIssue (s : State) (core n len : Nat) (rs : List ByteRef) : Option State :=
  let d := (s.core core).desc n
  let at_ := d.dst.toNat + d.row * d.dstr.toNat + d.off
  let dom := (s.domOf d.thr).getD 64
  let s := s.useRefs d.thr false rs
  let now (s : State) : State :=
    let bs := s.refBytes d.thr rs
    s.onCore core (fun c => (c.tsbWrite at_ bs).setDesc n (d.issued len).counted)
  match rs with
  | [] => some s
  | r :: _ =>
    match r.tgt with
    | .loam =>
      (match s.loamRev d.thr r.wins r.pa with
      | some (v, x) =>
        let q : LoamReq :=
          { domain := dom, dest := .stream core n d.row at_ len, offset := r.pa - 0x100000000000, volume := v, revision := x.number }
        let f : StreamReq := { row := d.row, at_ := at_, left := (loamCodewords q).length, marked := false }
        let d := { d.issued len with flight := d.flight ++ [f] }
        some ((s.onCore core (fun c => c.setDesc n d.counted)).loamRequest q)
      | none => some (now s))
    | .dram => (s.agentReads dom (dramLines rs)).map now
    | _ => some (now s)

/-- STREAM_REQUEST_ISSUE (R424 to R427): one request of at most 4 KiB.
DESIGN CHOICE (log 33). -/
def execStreamRequestIssue (core : Nat) (s : State) : Host.Outcome State Fault Refusal :=
  .next (match (s.core core).serveNext with
    | none => s
    | some n =>
      let s := s.onCore core (fun c => { c with nextDesc := (n + 1) % 16 })
      let d := (s.core core).desc n
      match s.check d.thr d.ring Need.blockLd d.piece.1 d.piece.2 with
      | .error e => s.onCore core (fun c => c.descEnds n e.why.stream (some (BitVec.ofNat 64 e.va)))
      | .ok rs => (s.streamIssue core n d.piece.2 rs).getD s)

/-- DESCRIPTOR_DONE (R425). -/
def execDescriptorDone (core n : Nat) (s : State) : Host.Outcome State Fault Refusal :=
  let c := s.core core
  let d := c.desc n
  .next (if c.descBusy n && decide (d.nRows ≤ d.row) && d.flight.isEmpty && d.ending.isNone then
      s.setCore core ((c.setDesc n { d with state := 2 }).count d.cnt false)
    else s)

/-- TSB_APERTURE_ACCESS (R420, R427).
DESIGN CHOICE (log 33). -/
def execTsbApertureAccess (a : CsAccess) (s : State) : Host.Outcome State Fault Refusal :=
  .next (match csLocate a.offset with
    | .stream c off =>
      if s.csReaches { thread := a.thread, offset := a.offset, width := a.width, value := a.value }
          (fun _ => decide (0x8000 ≤ off) && off % 8 == 0) then
        if a.store then (s.streamWrite a.thread c off a.value.toNat).getD s
        else match (s.core c).streamRead off with
          | some v => s.onThread a.thread (fun t => t.setReg a.reg (BitVec.ofNat 64 v))
          | none => s.fault a.thread (Flt.mk' 0x14 0x01 (BitVec.ofNat 64 (0xFE0000000000 + a.offset)))
      else s
    | _ => s)

end Sys2Proof.Machine
end

