-- ==== Sys2Proof/Machine/TileRegs.lean ====
section
/-!
DEFINITION. The tile context (chapter 7): data registers (Table 7-1), the framing of tile instructions (R68, R69, R296),
the Tile Queue (R302), which entry may issue (R401, R408), and the stop of a stream (R307).
-/

namespace Sys2Proof

/-! ### Framing -/

/-- The field word as a number. -/
def TileInsn.fw (t : TileInsn) : Nat := t.f.toNat

/-- Is it the descriptor form? -/
def TileInsn.desc (t : TileInsn) : Bool := t.esc == 0xE9

/-- Is an opcode a fabric move? -/
def TileInsn.fabric (t : TileInsn) : Bool := t.op == 0x18 || t.op == 0x19

/-- Is the opcode one of Table 7-4 under this escape? -/
def TileInsn.assigned (t : TileInsn) : Bool :=
  let o := t.op.toNat
  if t.desc then (decide (3 ≤ o) && decide (o ≤ 6)) || o == 0x18 || o == 0x19
  else decide (1 ≤ o) && decide (o ≤ 0x19)

/-- The length in bytes after any prefixes (Table 7-4). -/
def TileInsn.bodyLen (t : TileInsn) : Nat :=
  let o := t.op.toNat
  if t.desc then 6
  else if (3 ≤ o ∧ o ≤ 6) ∨ o = 0x11 then 10
  else if o = 0x18 ∨ o = 0x19 then 12
  else 6

/-- The length of the instruction. -/
def TileInsn.length (t : TileInsn) : Nat := t.prefixes.length + t.bodyLen

/-- Is TMOV's direction tile to scalar? -/
def TileInsn.movOut (t : TileInsn) : Bool := t.op == 0x07 && !bitOf t.fw 0

/-- Instructions that never enter the Tile Queue: TSYNC, TSAVE, TRSTR, TRESUME, TQRY and TMOV to a scalar register. -/
def TileInsn.joins (t : TileInsn) : Bool :=
  t.op == 0x12 || t.op == 0x14 || t.op == 0x15 || t.op == 0x16 || t.op == 0x17 || t.movOut

/-- Is PART allowed for TYPE in TCVT (Table 8-7, R354)? -/
def partOk (type part : Nat) : Bool :=
  part == 0 || (part == 1 && (type == 3 || type == 4 || type == 5 || type == 6 || type == 9))

/-- The checks of R290, R296 and R671 at retirement. -/
def TileInsn.fieldsOk (t : TileInsn) : Bool :=
  let f := t.fw
  let rows := decide (1 ≤ bitsOf f 17 11) && decide (bitsOf f 17 11 ≤ 64)
  let int (r : Nat) := decide (r < 40)
  if t.desc then decide (f < 64) && int f
  else
    match t.op.toNat with
    | 0x01 => bitsOf f 7 3 == 0 && decide (f < 2 ^ 26)
    | 0x02 => decide (f < 20)
    | 0x03 => decide (f < 2 ^ 25) && decide (f % 32 < 16) && rows && int (bitsOf f 23 18)
    | 0x04 => decide (f < 2 ^ 25) && decide (f % 32 < 16) && rows && int (bitsOf f 23 18)
    | 0x05 => decide (f < 2 ^ 25) && decide (16 ≤ f % 32) && decide (f % 32 < 20) && rows && int (bitsOf f 23 18)
    | 0x06 => decide (f < 2 ^ 25) && decide (16 ≤ f % 32) && decide (f % 32 < 20) && rows && int (bitsOf f 23 18)
    | 0x07 => decide (f < 2 ^ 25) && decide (bitsOf f 5 1 < 20) && int (bitsOf f 24 19)
    | 0x08 => decide (f < 2 ^ 10) && bitsOf f 9 8 != 3
    | 0x09 => decide (f < 2 ^ 8)
    | 0x0A => decide (f < 2 ^ 6)
    | 0x0B => decide (f < 2 ^ 11) && partOk (bitsOf f 8 5) (bitsOf f 10 9)
    | 0x10 => decide (f < 2 ^ 11)
    | 0x11 => decide (f < 2 ^ 4)
    | 0x12 => decide (f < 2)
    | 0x13 => f == 0
    | 0x14 => f == 0
    | 0x15 => f == 0
    | 0x16 => decide (f < 4)
    | 0x17 => decide (f < 64) && int f
    | 0x18 => decide (f < 2 ^ 27) && decide (f % 32 < 16) && rows && int (bitsOf f 23 18) && decide (t.e.toNat < 64)
    | 0x19 => decide (f < 2 ^ 27) && decide (f % 32 < 16) && rows && int (bitsOf f 23 18) && decide (t.e.toNat < 64)
    | _ => decide (f < 2 ^ 6)

/-- The scalar register whose value the entry captures (R299), if any. -/
def TileInsn.captures (t : TileInsn) : Option Nat :=
  let o := t.op.toNat
  if t.desc then some (t.fw % 64)
  else if (3 ≤ o ∧ o ≤ 6) ∨ o = 0x18 ∨ o = 0x19 then some (bitsOf t.fw 23 18)
  else if o = 7 ∧ !t.movOut then some (bitsOf t.fw 24 19)
  else none

/-- The bytes of the instruction, as R316 saves them: escape, opcode, F, then I and E where the length has them. -/
def TileInsn.bytes (t : TileInsn) : List Byte :=
  ([t.esc, t.op] ++ leBytes 4 t.fw ++ leBytes 4 t.i.toNat ++ leBytes 2 t.e.toNat).take t.bodyLen

end Sys2Proof

namespace Sys2Proof.Machine

/-- The first fetch, enable or decoding fault of a tile instruction (R69, R70, R73, R296). -/
def State.tileFront (s : State) (t : TileInsn) : Option Flt :=
  let g := t.thread
  let n := t.prefixes.length
  let at_ (code sub read : Nat) : Option Flt :=
    match s.fetchFault g read with
    | some f => some f
    | none => some (Flt.mk' code sub 0)
  match prefixFault (t.prefixes ++ [t.esc]) [] 0 with
  | some (sub, read) => at_ 0x01 sub read
  | none =>
    if (s.thread g).sysNat Sys.ntxen = 0 then at_ 0x10 0x00 (n + 1)
    else if t.op = 0 then at_ 0x01 0x01 (n + 2)
    else if !t.assigned then at_ 0x01 0x02 (n + 2)
    else if !t.fieldsOk then at_ 0x01 0x08 t.length
    else s.fetchFault g t.length

/-- Issues a tile instruction at retirement, in the frame of a scalar instruction.
DEDUCED (log 11). -/
def State.issueTile (s : State) (t : TileInsn) (body : State → Fin) : State :=
  let g := t.thread
  if decide (g < 256) && (s.thread g).issues then s.runAt g t.length (s.tileFront t) body else s

/-- TILE_QUEUE_ENTER (R302): the entry with its captured value and ring. -/
def execTileQueueEnter (t : TileInsn) (s : State) : Host.Outcome State Fault Refusal :=
  .next (if t.joins then s
    else s.issueTile t (fun s =>
      let th := s.thread t.thread
      if th.tqFull then .hold .tileQueue
      else
        let v := match t.captures with | some r => th.reg r | none => 0
        .done (s.setThread t.thread (th.enqueue { op := .tile t, ring := th.ring, value := v, ip := some th.pc })) none
          [0x0A] false false))

/-! ### Data registers -/

/-- The first byte of a register code's register in the tile data (R290). -/
def regBase (code : Nat) : Nat :=
  if code < 8 then 0x1000 * code else if code < 16 then 0x8000 + 0x200 * (code - 8) else 0x9000 + 0x4000 * (code - 16)

/-- Bytes of a row of a register (R297). -/
def rowBytes (code : Nat) : Nat := if code < 16 then 64 else 256

/-- Rows of a register. -/
def regRows (code : Nat) : Nat := if 8 ≤ code ∧ code < 16 then 8 else 64

/-- Bytes of a register. -/
def regBytes (code : Nat) : Nat := rowBytes code * regRows code

/-- The bytes of a register. -/
def TileCtx.regData (x : TileCtx) (code : Nat) : List Byte := Mem.block x.data (regBase code) (regBytes code)

/-- Row `r` of a register. -/
def TileCtx.row (x : TileCtx) (code r : Nat) : List Byte :=
  Mem.block x.data (regBase code + r * rowBytes code) (rowBytes code)

/-- Marks a register in use when a byte written to it is not zero (R294). -/
def TileCtx.mark (x : TileCtx) (code : Nat) (bs : List Byte) : TileCtx :=
  if bs.any (fun b => b != 0) then { x with inuse := x.inuse ||| BitVec.ofNat 20 (2 ^ code) } else x

/-- Writes bytes at an offset of a register. -/
def TileCtx.putBytes (x : TileCtx) (code off : Nat) (bs : List Byte) : TileCtx :=
  { x with data := Mem.splice x.data (regBase code + off) bs }.mark code bs

/-- Row `r` of a register replaced. -/
def TileCtx.putRow (x : TileCtx) (code r : Nat) (bs : List Byte) : TileCtx := x.putBytes code (r * rowBytes code) bs

/-- A register zeroed and unmarked (TZERO, R294). -/
def TileCtx.zero (x : TileCtx) (code : Nat) : TileCtx :=
  { x with data := Mem.clear x.data (regBase code) (regBase code + regBytes code),
           inuse := x.inuse &&& ~~~ BitVec.ofNat 20 (2 ^ code) }

/-- Changes the tile context of a thread. -/
def State.onTile (s : State) (g : Nat) (f : TileCtx → TileCtx) : State :=
  s.onThread g (fun t => { t with tile := f t.tile })

/-! ### Elements -/

/-- The `w`-bit elements of a row's bytes (Table 7-1). -/
def elemsOf (w : Nat) (bs : List Byte) : List Nat :=
  match w with
  | 4 => (bs.map (fun b => [b.toNat % 16, b.toNat / 16])).flatten
  | 8 => bs.map (·.toNat)
  | 16 => pairs bs
  | _ => quads bs
where
  pairs : List Byte → List Nat
    | a :: b :: r => (a.toNat + 256 * b.toNat) :: pairs r
    | _ => []
  quads : List Byte → List Nat
    | a :: b :: c :: d :: r => leNat [a, b, c, d] :: quads r
    | _ => []

/-- The bytes of `w`-bit elements. -/
def bytesOfElems (w : Nat) (l : List Nat) : List Byte :=
  match w with
  | 4 => nibbles l
  | 8 => l.map (BitVec.ofNat 8)
  | 16 => (l.map (leBytes 2)).flatten
  | _ => (l.map (leBytes 4)).flatten
where
  nibbles : List Nat → List Byte
    | a :: b :: r => BitVec.ofNat 8 (a % 16 + 16 * (b % 16)) :: nibbles r
    | _ => []

/-- The elements `old`, numbered from `i`, with those listed in `new` (rising numbers) replaced. -/
def mergeAt (i : Nat) (old : List Nat) (new : List (Nat × Nat)) : List Nat :=
  match old, new with
  | [], _ => []
  | o :: os, [] => o :: os
  | o :: os, (j, v) :: ns => if j = i then v :: mergeAt (i + 1) os ns else o :: mergeAt (i + 1) os ((j, v) :: ns)

/-- Writes elements of width `w`, numbered through the whole register, and marks it. -/
def TileCtx.putElems (x : TileCtx) (code w : Nat) (new : List (Nat × Nat)) : TileCtx :=
  let bs := bytesOfElems w (mergeAt 0 (elemsOf w (x.regData code)) new)
  let x' := { x with data := Mem.splice x.data (regBase code) bs }
  if new.any (fun p => p.2 != 0) then { x' with inuse := x'.inuse ||| BitVec.ofNat 20 (2 ^ code) } else x'

/-- The element width of a type (Table 7-6); 8 for a register not configured and for a scale register. -/
def typeWidth (type : Nat) : Nat :=
  if type = 3 ∨ type = 6 then 4 else if type = 4 ∨ type = 5 then 16 else 8

/-- TCFGn of a thread. -/
def Thread.tcfg (t : Thread) (n : Nat) : Nat := t.sysNat (Sys.tcfg n)

/-- TCFG fields (Table 7-3). -/
def cfgType (c : Nat) : Nat := bitsOf c 3 0
def cfgRows (c : Nat) : Nat := bitsOf c 10 4
def cfgSfmt (c : Nat) : Nat := bitsOf c 13 12
def cfgBlk (c : Nat) : Nat := bitsOf c 16 14
def cfgDir (c : Nat) : Bool := bitOf c 17

/-- Elements per row along K (Table 7-6). -/
def typeK (type : Nat) : Nat :=
  if type = 3 ∨ type = 6 then 128 else if type = 4 ∨ type = 5 then 32 else 64

/-- Is a block size allowed for a type and direction (Table 7-6)? -/
def blkOk (type blk : Nat) (dir : Bool) : Bool :=
  if type = 3 then decide (1 ≤ blk) && decide (blk ≤ if dir then 3 else 4)
  else if type = 4 ∨ type = 5 then decide (blk ≤ if dir then 3 else 2)
  else decide (blk ≤ 3)

/-- The check of a configuration word (R300): the subcode of fault 0x11, if it fails. -/
def tcfgCheck (c : Nat) : Option Nat :=
  let type := cfgType c
  if type = 0 then none
  else if 8 < type then some 0x01
  else if cfgRows c = 0 ∨ 64 < cfgRows c then some 0x02
  else if cfgSfmt c = 3 ∨ (6 ≤ type ∧ cfgSfmt c ≠ 0) then some 0x04
  else if cfgSfmt c ≠ 0 ∧ !blkOk type (cfgBlk c) (cfgDir c) then some 0x03
  else none

/-- TCFGn as a configuration word leaves it: zero for TYPE 0, bit 11 reserved. -/
def tcfgValue (c : Nat) : Nat := if cfgType c = 0 then 0 else c % 2 ^ 11 + bitsOf c 17 12 * 2 ^ 12

/-! ### Issue, completion and stop -/

/-- A TPUT whose rows are handed over, a TGET, and a send, as they hold a fabric-get entry. -/
def fabPut : Nat := 0
def fabGet : Nat := 1
def fabSend : Nat := 2

/-- Is a TGET of the thread in flight? It stays at the head of its queue until its last row is written. -/
def State.getInFlight (s : State) (g : Nat) : Bool := s.fabric.ops.any (fun o => o.thread == g && o.kind == fabGet)

/-- Does Sward issue tile instructions of thread `g` (R408, R414)? A move that has issued goes on while a mode change waits. -/
def State.sward (s : State) (g : Nat) : Bool :=
  let c := s.core (g / 2)
  (c.modeDrain.isNone || (s.thread g).tile.move.isSome) && (c.mode == 0 || c.owner == g % 2)

/-- The entry that the thread's stream may issue next (R222, R307, R401, R408).
DESIGN CHOICE (log 27). -/
def State.tileHead (s : State) (g : Nat) : Option TqEntry :=
  let t := s.thread g
  if g < 256 ∧ t.run = .running ∧ !t.stopped ∧ s.sward g ∧ !s.getInFlight g then
    (t.tile.queue.drop t.tile.timed.length).head? else none

/-- The head leaves the queue as its instruction completes (R416). -/
def TileCtx.pop (x : TileCtx) : TileCtx := { x with queue := x.queue.drop 1, move := none, resume := 0, waiting := false }

/-- The head of a thread's queue completes. -/
def State.popTile (s : State) (g : Nat) : State := s.onTile g TileCtx.pop

/-- A stop of the stream at its head (R307): TPROG, TQIP, the held fault and its FADDR. An entry restored from a save
area has no recorded address, so TQIP is then a free value.
DESIGN CHOICE (log 27). -/
def State.stopTile (s : State) (g code sub : Nat) (faddr : Word) (done : Nat) : State :=
  let ip := match (s.thread g).tile.queue.head? with | some e => e.ip | none => none
  let (v, s) := match ip with | some a => (a, s) | none => s.takeFree
  s.onThread g (fun t =>
    let t := (t.sysSet Sys.tprog (BitVec.ofNat 64 (done % 128 + code * 2 ^ 32 + sub * 2 ^ 40 + 2 ^ 63))).sysSet Sys.tqip
      (BitVec.ofNat 64 (v.toNat % 2 ^ 48))
    { t with tile := { t.tile with held := some (code, sub), faddr := faddr, waiting := false, move := none, resume := 0 } })

/-- The tile instruction that may issue next, when `p` accepts it.
DESIGN CHOICE (log 27). -/
def State.tileNext (s : State) (g : Nat) (p : TileInsn → Bool) : Option (TqEntry × TileInsn) :=
  match s.tileHead g with
  | some e =>
    match e.op with
    | .tile t => if p t then some (e, t) else none
    | .wrsr _ _ => none
  | none => none

/-- Runs `f` on the head of a thread's queue when it may issue and is a tile instruction that `p` accepts. -/
def State.tileRow (s : State) (g : Nat) (p : TileInsn → Bool) (f : TqEntry → TileInsn → State) : State :=
  match s.tileNext g p with
  | some (e, t) => f e t
  | none => s

end Sys2Proof.Machine
end

