-- ==== Sys2Proof/Machine/TileMove.lean ====
section
/-!
DEFINITION. Tile memory moves (R297, R298, R303, R417): the checks at issue, the access of one row in memory or in the
Tile Staging Buffer, and TLD, TST, TLDA and TSTA row by row.
-/

namespace Sys2Proof.Machine

/-- A fault of a tile instruction: code, subcode, FADDR. -/
structure TileFlt where
  code  : Nat
  sub   : Nat
  faddr : Word
  deriving DecidableEq, Repr

/-- Fault 0x11 of a subcode; FADDR is 0. -/
def TileFlt.cfg (sub : Nat) : TileFlt := { code := 0x11, sub := sub, faddr := 0 }

/-- Fault 0x13 of a subcode at an address. -/
def TileFlt.mem (sub a : Nat) : TileFlt := { code := 0x13, sub := sub, faddr := BitVec.ofNat 64 a }

/-- The tile memory fault of a failed access (Table 7-8). -/
def AccErr.tile (e : AccErr) : TileFlt := TileFlt.mem e.why.tile e.va

/-- What the access of a row comes to: done with its bytes, a stop of the stream, or a wait for a line. -/
inductive RowEnd where
  | ok (bs : List Byte) (s : State)
  | fail (f : TileFlt) (s : State)
  | wait (s : State)
  deriving DecidableEq, Repr

/-- Loads `n` bytes of memory for the tile stream at a captured ring, through the core's L2 (R463); uncorrectable Loam data stops
it (R501). -/
def State.tileLoad (s : State) (g ring va n : Nat) : RowEnd :=
  match s.check g ring Need.blockLd va n with
  | .error e => .fail e.tile s
  | .ok rs =>
    match s.loadVia g .tileRead rs with
    | .bytes bs s => .ok bs s
    | .stall _ s => .wait s
    | .bad s _ line =>
      .fail (TileFlt.mem 0x14 (((rs.find? (fun r => r.pa / 64 == line)).map (·.va)).getD va)) s

/-- The fields a move takes from its instruction or its descriptor (R297, R298, R671): `k` goes on with them, `bad` stops. -/
def State.moveFields (s : State) (g : Nat) (q : TqEntry) (t : TileInsn) (k : TileMove → State → State) (bad : TileFlt → State →
  State) :
    State :=
  let mk (f base e : Nat) (stride : Int) : TileMove :=
    { code := f % 32, row0 := bitsOf f 10 5, nrow := bitsOf f 17 11, base := base, stride := stride,
      tsb := !t.fabric && bitOf f 24, win := bitsOf f 26 24, e := e }
  if !t.desc then k (mk t.fw q.value.toNat t.e.toNat (signedOf 32 t.i.toNat)) s
  else
    let a := q.value.toNat
    if a % 32 ≠ 0 then bad (TileFlt.mem 0x05 a) s
    else match s.tileLoad g q.ring a 32 with
    | .fail f s => bad f s
    | .wait s => s
    | .ok bs s =>
      let f := leNat ((bs.drop 16).take 8)
      let e := leNat ((bs.drop 24).take 8)
      let acc := t.op == 0x05 || t.op == 0x06
      let okClass := if acc then decide (16 ≤ f % 32) && decide (f % 32 < 20) else decide (f % 32 < 16)
      let okF := decide (f < 2 ^ (if t.fabric then 27 else 25)) && bitsOf f 23 18 == 0
      let okE := if t.fabric then decide (e < 64) else e == 0
      if !okF || !okE || !okClass || bitsOf f 17 11 = 0 || decide (64 < bitsOf f 17 11) then bad (TileFlt.cfg 0x08) s
      else k (mk f (leNat (bs.take 8)) e (signedOf 64 (leNat ((bs.drop 8).take 8)))) s

/-- The checks of a move at issue in the order of R297: descriptor, row range, the Fixed-time rule, alignment. A move that has
issued keeps what it was set up with. -/
def State.moveSetup (s : State) (g : Nat) (q : TqEntry) (t : TileInsn) (k : TileMove → State → State) : State :=
  let bad (f : TileFlt) (s : State) : State := s.stopTile g f.code f.sub f.faddr (s.thread g).tile.resume
  match (s.thread g).tile.move with
  | some m => k m s
  | none =>
    s.moveFields g q t (fun m s =>
      if regRows m.code < m.row0 + m.nrow then bad (TileFlt.cfg 0x06) s
      else if (s.core (g / 2)).mode = 2 ∧ !m.tsb then bad (TileFlt.cfg 0x07) s
      else if m.base % 64 ≠ 0 ∨ m.stride % 64 ≠ 0 then bad (TileFlt.mem 0x05 m.base) s
      else k m (s.onTile g (fun x => { x with move := some m }))) bad

/-- The address or offset of row `ROW0 + i`, modulo 2^64. -/
def TileMove.at_ (m : TileMove) (i : Nat) : Nat := ((Int.ofNat m.base + Int.ofNat i * m.stride) % 2 ^ 64).toNat

/-! ### Rows -/

/-- Loads the row at an address or offset. -/
def State.rowLoad (s : State) (g ring : Nat) (tsb : Bool) (a n : Nat) : RowEnd :=
  if tsb then
    match (s.thread g).tsbOutside a n with
    | some x => .fail (TileFlt.mem 0x07 x) s
    | none =>
      match (s.core (g / 2)).tsbPoison a n with
      | some x => .fail (TileFlt.mem 0x14 x) s
      | none => .ok (Mem.block (s.core (g / 2)).tsb a n) s
  else s.tileLoad g ring a n

/-- Stores a row at an address or offset; in memory with its line held in M (R463). -/
def State.rowStore (s : State) (g ring : Nat) (tsb : Bool) (a : Nat) (bs : List Byte) : RowEnd :=
  if tsb then
    match (s.thread g).tsbOutside a bs.length with
    | some x => .fail (TileFlt.mem 0x07 x) s
    | none => .ok bs (s.onCore (g / 2) (fun c => c.tsbWrite a bs))
  else
    match s.check g ring Need.blockSt a bs.length with
    | .error e => .fail e.tile s
    | .ok rs =>
      match s.storeVia g .tileWrite rs bs with
      | some s => .ok bs s
      | none => .wait s

/-- Row `i` of a move: loaded into its register row, or stored from it. -/
def State.moveOne (s : State) (g ring : Nat) (load : Bool) (m : TileMove) (i : Nat) : RowEnd :=
  if load then
    match s.rowLoad g ring m.tsb (m.at_ i) (rowBytes m.code) with
    | .ok bs s => .ok bs (s.onTile g (fun x => x.putRow m.code (m.row0 + i) bs))
    | r => r
  else s.rowStore g ring m.tsb (m.at_ i) ((s.thread g).tile.row m.code (m.row0 + i))

/-- Moves rows ROW0 + i on, `n` of them at most: the entry is freed after the last, and the stream stops at the row that fails
(R308). A move that has rows left, or whose row waits for its line, goes on from there.
DEDUCED (log 16).
DESIGN CHOICE (log 27). -/
def State.moveRows (s : State) (g ring : Nat) (load : Bool) (m : TileMove) (i n : Nat) : State :=
  if m.nrow ≤ i then s.popTile g
  else match n with
  | 0 => s.onTile g (fun x => { x with resume := i })
  | k + 1 =>
    match s.moveOne g ring load m i with
    | .fail f s => s.stopTile g f.code f.sub f.faddr i
    | .wait s => s.onTile g (fun x => { x with resume := i })
    | .ok _ s => s.moveRows g ring load m (i + 1) k

/-- A TLD, TST, TLDA or TSTA at the head of its queue: the rows the command gives, all that are left when it gives none. -/
def State.memMove (s : State) (g : Nat) (q : TqEntry) (t : TileInsn) (load : Bool) (rows : Option Nat) : State :=
  s.moveSetup g q t (fun m s =>
    let i := (s.thread g).tile.resume
    s.moveRows g q.ring load m i (rows.getD (m.nrow - i)))

end Sys2Proof.Machine
end

