-- ==== Sys2Proof/Machine/Float.lean ====
section
/-!
DEFINITION. IEEE 754-2019 binary formats on bit patterns, computed exactly on integers and rounded once: the
arithmetic of scalar floating point (R138 to R143), shared by the binary32 steps of the matrix arithmetic.
-/

namespace Sys2Proof.Machine

/-- A binary floating format (Table 8-1): exponent bits, stored mantissa bits and exponent bias. -/
structure BinFmt where
  eb   : Nat
  mb   : Nat
  bias : Nat
  deriving DecidableEq, Repr

/-- binary32 and binary64. -/
def binary32 : BinFmt := { eb := 8, mb := 23, bias := 127 }
def binary64 : BinFmt := { eb := 11, mb := 52, bias := 1023 }

/-- The exponent of the least quantum. -/
def BinFmt.qmin (f : BinFmt) : Int := 1 - Int.ofNat f.bias - Int.ofNat f.mb

/-- A number taken apart: NaN, infinity, or sign, integer significand and exponent. -/
inductive Num where
  | nan (signalling : Bool)
  | inf (neg : Bool)
  | fin (neg : Bool) (m : Nat) (e : Int)
  deriving DecidableEq, Repr

/-- Takes a bit pattern apart. -/
def BinFmt.unpack (f : BinFmt) (v : Nat) : Num :=
  let neg := bitOf v (f.eb + f.mb)
  let e := bitsOf v (f.eb + f.mb - 1) f.mb
  let m := v % 2 ^ f.mb
  if e = 2 ^ f.eb - 1 then (if m = 0 then .inf neg else .nan (!bitOf m (f.mb - 1)))
  else if e = 0 then .fin neg m f.qmin
  else .fin neg (m + 2 ^ f.mb) (Int.ofNat e - Int.ofNat f.bias - Int.ofNat f.mb)

/-- The canonical quiet NaN (R139). -/
def BinFmt.qnan (f : BinFmt) : Nat := (2 ^ f.eb - 1) * 2 ^ f.mb + 2 ^ (f.mb - 1)

/-- Infinity of a sign. -/
def BinFmt.infinity (f : BinFmt) (neg : Bool) : Nat :=
  natOf neg * 2 ^ (f.eb + f.mb) + (2 ^ f.eb - 1) * 2 ^ f.mb

/-- Zero of a sign. -/
def BinFmt.zero (f : BinFmt) (neg : Bool) : Nat := natOf neg * 2 ^ (f.eb + f.mb)

/-- The largest finite number of a sign. -/
def BinFmt.maxFin (f : BinFmt) (neg : Bool) : Nat := f.infinity neg - 1

/-- A result with the exceptions met: [0] invalid, [1] divide by zero, [2] overflow, [3] underflow, [4] inexact. -/
structure FOut where
  val : Nat
  exc : Nat
  deriving DecidableEq, Repr

/-- Bit length of a number. -/
def bitLen (n : Nat) : Nat := if n = 0 then 0 else Nat.log2 n + 1

/-- Rounds a significand down by `shift` bits under rounding mode `rm` (0 nearest even, 1 toward zero, 2 up, 3 down);
`sticky` says that a non-zero tail lies below. Returns the rounded significand and whether it is inexact. -/
def roundShift (rm : Nat) (neg : Bool) (m shift : Nat) (sticky : Bool) : Nat × Bool :=
  let q := m / 2 ^ shift
  let r := m % 2 ^ shift
  let inex := r != 0 || sticky
  let half := if shift = 0 then false else decide (2 ^ (shift - 1) ≤ r)
  let above := if shift = 0 then false else half && (decide (2 ^ (shift - 1) < r) || sticky)
  let up := match rm with
    | 0 => above || (half && q % 2 == 1)
    | 1 => false
    | 2 => inex && !neg
    | _ => inex && neg
  (if up then q + 1 else q, inex)

/-- Rounds the number ± m·2^e (with a tail below when `sticky`) to a format, once, with its exceptions; underflow is
tested after rounding (R141). A caller that sets `sticky` gives `m` more bits than the format keeps.
DEDUCED (log 17). -/
def BinFmt.round (f : BinFmt) (rm : Nat) (neg : Bool) (m : Nat) (e : Int) (sticky : Bool) : FOut :=
  if m = 0 ∧ !sticky then { val := f.zero neg, exc := 0 }
  else
    let p := f.mb + 1
    let want : Int := e + Int.ofNat (bitLen m) - Int.ofNat p
    let q : Int := if want < f.qmin then f.qmin else want
    let (m', e') := if q < e then (m * 2 ^ (e - q).toNat, q) else (m, e)
    let (k, inex) := roundShift rm neg m' (q - e').toNat sticky
    -- the same with an unbounded exponent, for the tininess test
    let (m2, e2) := if want < e then (m * 2 ^ (e - want).toNat, want) else (m, e)
    let (k2, _) := roundShift rm neg m2 (want - e2).toNat sticky
    let tiny := decide (Int.ofNat (bitLen k2) + want ≤ f.qmin + Int.ofNat f.mb)
    let (k, q) := if k = 2 ^ p then (2 ^ f.mb, q + 1) else (k, q)
    let biased : Int := q - f.qmin + 1
    if k < 2 ^ f.mb then
      { val := natOf neg * 2 ^ (f.eb + f.mb) + k, exc := 16 * natOf inex + 8 * natOf (inex && tiny) }
    else if Int.ofNat (2 ^ f.eb - 1) ≤ biased then
      let toInf := match rm with | 0 => true | 1 => false | 2 => !neg | _ => neg
      { val := if toInf then f.infinity neg else f.maxFin neg, exc := 4 + 16 }
    else
      { val := natOf neg * 2 ^ (f.eb + f.mb) + biased.toNat * 2 ^ f.mb + (k - 2 ^ f.mb),
        exc := 16 * natOf inex + 8 * natOf (inex && tiny) }

/-- Is a NaN signalling? -/
def Num.snan (n : Num) : Bool := match n with | .nan s => s | _ => false

/-- Is it a NaN? -/
def Num.isNan (n : Num) : Bool := match n with | .nan _ => true | _ => false

/-- The canonical NaN, invalid when asked. -/
def BinFmt.nanOut (f : BinFmt) (invalid : Bool) : FOut := { val := f.qnan, exc := natOf invalid }

/-- Rounds a signed sum `i`·2^e; an exact zero is −0 only when rounding down. -/
def BinFmt.roundInt (f : BinFmt) (rm : Nat) (i : Int) (e : Int) : FOut :=
  if i = 0 then { val := f.zero (rm == 3), exc := 0 } else f.round rm (decide (i < 0)) i.natAbs e false

/-- A finite number as a signed significand at exponent `e`, which is not above its own. -/
def signedAt (neg : Bool) (m : Nat) (e0 e : Int) : Int :=
  let v := Int.ofNat (m * 2 ^ (e0 - e).toNat)
  if neg then -v else v

/-- Addition of numbers taken apart. -/
def BinFmt.addNum (f : BinFmt) (rm : Nat) (a b : Num) : FOut :=
  match a, b with
  | .nan x, .nan y => f.nanOut (x || y)
  | .nan x, _ => f.nanOut x
  | _, .nan y => f.nanOut y
  | .inf x, .inf y => if x = y then { val := f.infinity x, exc := 0 } else f.nanOut true
  | .inf x, _ => { val := f.infinity x, exc := 0 }
  | _, .inf y => { val := f.infinity y, exc := 0 }
  | .fin n1 m1 e1, .fin n2 m2 e2 =>
    if m1 = 0 ∧ m2 = 0 ∧ n1 = n2 then { val := f.zero n1, exc := 0 }
    else
      let e := if e1 < e2 then e1 else e2
      f.roundInt rm (signedAt n1 m1 e1 e + signedAt n2 m2 e2 e) e

/-- A number with its sign turned. -/
def Num.negate (a : Num) : Num := match a with | .nan s => .nan s | .inf n => .inf (!n) | .fin n m e => .fin (!n) m e

/-- Multiplication. -/
def BinFmt.mulNum (f : BinFmt) (rm : Nat) (a b : Num) : FOut :=
  match a, b with
  | .nan x, .nan y => f.nanOut (x || y)
  | .nan x, _ => f.nanOut x
  | _, .nan y => f.nanOut y
  | .inf x, .inf y => { val := f.infinity (x != y), exc := 0 }
  | .inf x, .fin n m _ => if m = 0 then f.nanOut true else { val := f.infinity (x != n), exc := 0 }
  | .fin n m _, .inf y => if m = 0 then f.nanOut true else { val := f.infinity (n != y), exc := 0 }
  | .fin n1 m1 e1, .fin n2 m2 e2 => f.round rm (n1 != n2) (m1 * m2) (e1 + e2) false

/-- Division: the quotient to three bits beyond the format, with the remainder as its tail. -/
def BinFmt.divNum (f : BinFmt) (rm : Nat) (a b : Num) : FOut :=
  match a, b with
  | .nan x, .nan y => f.nanOut (x || y)
  | .nan x, _ => f.nanOut x
  | _, .nan y => f.nanOut y
  | .inf _, .inf _ => f.nanOut true
  | .inf x, .fin n _ _ => { val := f.infinity (x != n), exc := 0 }
  | .fin n _ _, .inf y => { val := f.zero (n != y), exc := 0 }
  | .fin n1 m1 e1, .fin n2 m2 e2 =>
    if m2 = 0 then
      if m1 = 0 then f.nanOut true else { val := f.infinity (n1 != n2), exc := 2 }
    else if m1 = 0 then { val := f.zero (n1 != n2), exc := 0 }
    else
      let up := f.mb + 4 + bitLen m2
      let q := m1 * 2 ^ up / m2
      f.round rm (n1 != n2) q (e1 - e2 - Int.ofNat up) (m1 * 2 ^ up % m2 != 0)

/-- Integer square root, by `fuel` halvings of the bit at hand. -/
def isqrtBits (n : Nat) (bit acc : Nat) : Nat :=
  match bit with
  | 0 => acc
  | k + 1 =>
    let c := acc + 2 ^ k
    isqrtBits n k (if c * c ≤ n then c else acc)

/-- Integer square root. -/
def isqrt (n : Nat) : Nat := isqrtBits n (bitLen n / 2 + 1) 0

/-- Square root. -/
def BinFmt.sqrtNum (f : BinFmt) (rm : Nat) (a : Num) : FOut :=
  match a with
  | .nan x => f.nanOut x
  | .inf n => if n then f.nanOut true else { val := f.infinity false, exc := 0 }
  | .fin n m e =>
    if m = 0 then { val := f.zero n, exc := 0 }
    else if n then f.nanOut true
    else
      let up := 2 * (f.mb + 4)
      let (m, e) := if e % 2 = 0 then (m * 2 ^ up, e - Int.ofNat up) else (m * 2 ^ (up + 1), e - Int.ofNat (up + 1))
      let r := isqrt m
      f.round rm false r (e / 2) (r * r != m)

/-- Fused multiply-add a·b + c with one rounding.
DEDUCED (log 17). -/
def BinFmt.fmaNum (f : BinFmt) (rm : Nat) (a b c : Num) : FOut :=
  let zeroInf := match a, b with
    | .inf _, .fin _ m _ => m == 0
    | .fin _ m _, .inf _ => m == 0
    | _, _ => false
  if a.isNan || b.isNan || c.isNan then
    f.nanOut (a.snan || b.snan || c.snan || (zeroInf && Config.fmaNanInvalid))
  else if zeroInf then f.nanOut true
  else match a, b with
    | .fin n1 m1 e1, .fin n2 m2 e2 => f.addNum rm (.fin (n1 != n2) (m1 * m2) (e1 + e2)) c
    | .inf x, .inf y => f.addNum rm (.inf (x != y)) c
    | .inf x, .fin n _ _ => f.addNum rm (.inf (x != n)) c
    | .fin n _ _, .inf y => f.addNum rm (.inf (n != y)) c
    | _, _ => f.nanOut true

/-- Order of two numbers: none when unordered; −1, 0 or 1 otherwise. Zeros of either sign are equal. -/
def numCmp (a b : Num) : Option Int :=
  match a, b with
  | .nan _, _ => none
  | _, .nan _ => none
  | .inf x, .inf y => some (if x = y then 0 else if x then -1 else 1)
  | .inf x, _ => some (if x then -1 else 1)
  | _, .inf y => some (if y then 1 else -1)
  | .fin n1 m1 e1, .fin n2 m2 e2 =>
    let e := if e1 < e2 then e1 else e2
    let d := signedAt n1 m1 e1 e - signedAt n2 m2 e2 e
    some (if d < 0 then -1 else if d = 0 then 0 else 1)

/-- The sign bit of a pattern. -/
def BinFmt.isNeg (f : BinFmt) (v : Nat) : Bool := bitOf v (f.eb + f.mb)

/-- IEEE 754-2019 minimum and maximum (R139): a NaN gives the canonical NaN, and −0 is less than +0. -/
def BinFmt.minMax (f : BinFmt) (max_ : Bool) (a b : Nat) : FOut :=
  let x := f.unpack a
  let y := f.unpack b
  match numCmp x y with
  | none => f.nanOut (x.snan || y.snan)
  | some d =>
    let aLess := decide (d < 0) || (d == 0 && f.isNeg a && !f.isNeg b)
    { val := if max_ then (if aLess then b else a) else (if aLess then a else b), exc := 0 }

/-- FL after a compare (Table 3-8). -/
def cmpFlags (r : Option Int) : BitVec 4 :=
  match r with
  | none => 0b0001
  | some d => if d < 0 then 0b1010 else if d = 0 then 0b0100 else 0b0000

/-- Rounds a number to an integer under `rm`: the integer and whether it is inexact. -/
def roundToInt (rm : Nat) (neg : Bool) (m : Nat) (e : Int) : Int × Bool :=
  let (k, inex) := if 0 ≤ e then (m * 2 ^ e.toNat, false) else roundShift rm neg m (-e).toNat false
  (if neg then -Int.ofNat k else Int.ofNat k, inex)

/-- Conversion to a `w`-bit integer (R143): NaN gives 0, a value outside the range the nearest extreme, both invalid. -/
def toIntOut (rm w : Nat) (signed : Bool) (a : Num) : FOut :=
  let lo : Int := if signed then -Int.ofNat (2 ^ (w - 1)) else 0
  let hi : Int := if signed then Int.ofNat (2 ^ (w - 1)) - 1 else Int.ofNat (2 ^ w) - 1
  let bits (i : Int) : Nat := (i % Int.ofNat (2 ^ w)).toNat
  match a with
  | .nan _ => { val := 0, exc := 1 }
  | .inf n => { val := bits (if n then lo else hi), exc := 1 }
  | .fin n m e =>
    let (i, inex) := roundToInt rm n m e
    if i < lo then { val := bits lo, exc := 1 }
    else if hi < i then { val := bits hi, exc := 1 }
    else { val := bits i, exc := 16 * natOf inex }

/-- Conversion of a number to a format, rounded once. -/
def BinFmt.convert (f : BinFmt) (rm : Nat) (a : Num) : FOut :=
  match a with
  | .nan s => f.nanOut s
  | .inf n => { val := f.infinity n, exc := 0 }
  | .fin n m e => f.round rm n m e false

/-- The subcode of fault 0x0E for the first enabled exception met (Table 3-7), none when none is enabled.
DEDUCED (log 17). -/
def trapSub (exc te : Nat) : Option Nat := ((List.range 5).find? (fun i => bitOf exc i && bitOf te i)).map (· + 1)

end Sys2Proof.Machine
end

