-- ==== Sys2Proof/Machine/TileArith.lean ====
section
/-!
DEFINITION. The values of the tile extension: formats (Table 8-1), scaled values and products (R347, R373), the exact
group (R374, R375), the fixed tree (R377 to R379), elementwise results, and what a list of written elements sets in
TSTAT and TFIRST (R353, R384, R385). Nothing here depends on the mode, the core or timing (R387).
-/

namespace Sys2Proof.Machine

/-- The berry formats (Table 8-1). -/
def sloe : BinFmt := { eb := 4, mb := 3, bias := 6 }
def rowan : BinFmt := { eb := 5, mb := 2, bias := 14 }
def haw : BinFmt := { eb := 2, mb := 1, bias := 1 }
def bilberry : BinFmt := { eb := 7, mb := 8, bias := 63 }
def cloudberry : BinFmt := { eb := 6, mb := 9, bias := 31 }

/-- The floating format of a TYPE (Table 7-6). -/
def typeFmt (type : Nat) : BinFmt :=
  match type with | 1 => sloe | 2 => rowan | 3 => haw | 4 => bilberry | _ => cloudberry

/-- Haw to Sloe before the array (Table 8-3). -/
def hawToSloe (h : Nat) : Nat :=
  (match h % 8 with
   | 0 => 0x00 | 1 => 0x28 | 2 => 0x30 | 3 => 0x34 | 4 => 0x38 | 5 => 0x3C | 6 => 0x78 | _ => 0x7C) + h / 8 * 0x80

/-- The value of a floating element as it enters the array (R336, R343). -/
def elemNum (type v : Nat) : Num := if type = 3 then sloe.unpack (hawToSloe v) else (typeFmt type).unpack v

/-- The value of an integer element (R342, R343). -/
def elemInt (type v : Nat) : Int := if type = 6 then signedOf 4 v else if type = 7 then signedOf 8 v else Int.ofNat v

/-- A block scale (R345, R346); 0xFF of E8 marks an invalid block, whose scaled values are NaN. -/
def scaleNum (sfmt v : Nat) : Num :=
  match sfmt with
  | 0 => .fin false 1 0
  | 1 => if v = 0xFF then .nan false else .fin false 1 (Int.ofNat v - 127)
  | _ => sloe.unpack v

/-- The product of two values, without rounding (Table 9-2); Table 8-4 is the same function of an element and its
scale. -/
def mulExact (a b : Num) : Num :=
  match a, b with
  | .nan _, _ => .nan false
  | _, .nan _ => .nan false
  | .inf x, .inf y => .inf (x != y)
  | .inf x, .fin n m _ => if m = 0 then .nan false else .inf (x != n)
  | .fin n m _, .inf y => if m = 0 then .nan false else .inf (n != y)
  | .fin n m e, .fin n' m' e' => .fin (n != n') (m * m') (e + e')

/-- The scale byte of element `k` of row `r` (R348, R349). -/
def scaleIndex (cfg r k : Nat) : Nat :=
  let b := 8 * 2 ^ cfgBlk cfg
  let kk := typeK (cfgType cfg)
  if cfgDir cfg then r / b * kk + k else r * (kk / b) + k / b

/-- The scaled values of elements 0 to `k`−1 of a row, given the row's bytes and the bytes of its scale register. -/
def rowNums (cfg r k : Nat) (row scales : List Byte) : List Num :=
  let es := ((elemsOf (typeWidth (cfgType cfg)) row).take k).map (elemNum (cfgType cfg))
  if cfgSfmt cfg = 0 then es
  else List.zipWith mulExact es ((List.range k).map (fun i =>
    scaleNum (cfgSfmt cfg) (scales.getD (scaleIndex cfg r i) 0).toNat))

/-- Rows 0 to `n`−1 of a register cut out of its bytes.
DESIGN CHOICE (log 32). -/
def rowsOf (n : Nat) (bs : List Byte) : List (List Byte) :=
  match n with
  | 0 => []
  | k + 1 => bs.take 64 :: rowsOf k (bs.drop 64)

/-- The rows an operand uses: ROWS, of the 64 its register has.
DESIGN CHOICE (log 32). -/
def usedRows (cfg : Nat) : Nat := min (cfgRows cfg) 64

/-- The scaled values of the rows an operand uses: ROWS rows of `k` elements. -/
def operandNums (x : TileCtx) (cfg reg k : Nat) : List (List Num) :=
  let sc := if cfgSfmt cfg = 0 then [] else x.regData (8 + reg)
  (List.range (usedRows cfg)).zipWith (fun r row => rowNums cfg r k row sc) (rowsOf (usedRows cfg) (x.regData reg))

/-- The integer elements of the rows an operand uses. -/
def operandInts (x : TileCtx) (cfg reg k : Nat) : List (List Int) :=
  (rowsOf (usedRows cfg) (x.regData reg)).map (fun row =>
    ((elemsOf (typeWidth (cfgType cfg)) row).take k).map (elemInt (cfgType cfg)))

/-! ### Single results -/

/-- Did a rounding overflow (R352)? -/
def FOut.ovf (o : FOut) : Bool := bitOf o.exc 2

/-- An exact value kept as an F32 result without rounding. -/
def exactOut (v : Nat) : FOut := { val := v, exc := 0 }

/-- An exact value rounded once to a format under `rm` (R351, R357). -/
def tileRound (f : BinFmt) (rm : Nat) (a : Num) : FOut :=
  match a with
  | .nan _ => exactOut f.qnan
  | .inf n => exactOut (f.infinity n)
  | .fin n m e => f.round rm n m e false

/-- add(a, b) of Table 9-3, in a format. -/
def tileAdd (f : BinFmt) (rm : Nat) (a b : FOut) : FOut :=
  let r : FOut := match f.unpack a.val, f.unpack b.val with
    | .nan _, _ => exactOut f.qnan
    | _, .nan _ => exactOut f.qnan
    | .inf x, .inf y => exactOut (if x = y then f.infinity x else f.qnan)
    | .inf x, _ => exactOut (f.infinity x)
    | _, .inf y => exactOut (f.infinity y)
    | .fin n1 m1 e1, .fin n2 m2 e2 =>
      if m1 = 0 ∧ m2 = 0 then exactOut (f.zero ((n1 && n2) || rm == 3))
      else
        let e := if e1 < e2 then e1 else e2
        f.roundInt rm (signedAt n1 m1 e1 e + signedAt n2 m2 e2 e) e
  { val := r.val, exc := r.exc ||| a.exc ||| b.exc }

/-- One level of the tree (R378): neighbours added in index order. -/
def treeLevel (rm : Nat) (l : List FOut) : List FOut :=
  match l with
  | a :: b :: r => tileAdd binary32 rm a b :: treeLevel rm r
  | l => l

/-- The root of a tree of `n` levels. -/
def treeRoot (rm n : Nat) (l : List FOut) : FOut :=
  match n with
  | 0 => l.headD (exactOut 0)
  | k + 1 => treeRoot rm k (treeLevel rm l)

/-- The levels of a tree over `k` leaves, `k` being 32, 64 or 128. -/
def treeLevels (k : Nat) : Nat := if k = 128 then 7 else if k = 64 then 6 else 5

/-- Is it zero, and is it negative? -/
def Num.isZero (a : Num) : Bool := match a with | .fin _ m _ => m == 0 | _ => false
def Num.isNeg (a : Num) : Bool := match a with | .fin n _ _ => n | .inf n => n | .nan _ => false
def Num.isInf (a : Num) : Bool := match a with | .inf _ => true | _ => false

/-- floor(log2 |v|) of a finite non-zero number. -/
def Num.lead (a : Num) : Int := match a with | .fin _ m e => e + Int.ofNat (bitLen m) - 1 | _ => 0

/-- A member of the group in units of 2^L, truncated toward zero, and whether bits were lost. -/
def Num.aligned (a : Num) (l : Int) : Int × Bool :=
  match a with
  | .fin n m e =>
    if l ≤ e then (signedAt n m e l, false)
    else
      let d := 2 ^ (l - e).toNat
      (if n then -Int.ofNat (m / d) else Int.ofNat (m / d), m % d != 0)
  | _ => (0, false)

/-- exact_group (R374, R375). -/
def exactGroup (rm : Nat) (g : List Num) : FOut :=
  if g.any Num.isNan then exactOut binary32.qnan
  else
    let pos := g.any (fun v => v.isInf && !v.isNeg)
    let neg := g.any (fun v => v.isInf && v.isNeg)
    if pos && neg then exactOut binary32.qnan
    else if pos || neg then exactOut (binary32.infinity neg)
    else
      let nz := g.filter (fun v => !v.isZero)
      match nz with
      | [] => exactOut (binary32.zero (g.all Num.isNeg || rm == 3))
      | v :: r =>
        let l := r.foldl (fun x w => max x w.lead) v.lead - 65
        let (t, sticky) := nz.foldl (fun (p : Int × Bool) w => let (i, b) := w.aligned l; (p.1 + i, p.2 || b)) (0, false)
        if t = 0 then exactOut (binary32.zero (rm == 3))
        else binary32.roundInt rm (2 * t + (if sticky then (if t < 0 then -1 else 1) else 0)) (l - 1)

/-- Element of TMMA.E: the exact group of the products and the accumulator. -/
def dotExact (rm : Nat) (a b : List Num) (acc : Nat) : FOut :=
  exactGroup rm (List.zipWith mulExact a b ++ [binary32.unpack acc])

/-- Element of TMMA.F (R377, R378). -/
def dotRounded (rm k : Nat) (a b : List Num) (acc : Nat) : FOut :=
  tileAdd binary32 rm
    (treeRoot rm (treeLevels k) ((List.zipWith mulExact a b).map (tileRound binary32 rm))) (exactOut acc)

/-- A maximum or minimum of two F32 values (R382). -/
def tileMinMax (max_ : Bool) (a b : Nat) : FOut := exactOut (binary32.minMax max_ a b).val

/-- The maximum of a row (R383). -/
def rowMax (l : List Nat) : FOut :=
  match l with
  | [] => exactOut 0
  | v :: r =>
    r.foldl (fun m x => tileMinMax true m.val x) (if (binary32.unpack v).isNan then exactOut binary32.qnan else exactOut v)

/-! ### What the elements written set -/

/-- The results of an instruction: elements by number within the destination, the first NaN and the first infinity, OVF,
and the count for SATC. -/
structure TileRes where
  cells : List (Nat × Nat)
  nan   : Option Nat
  inf   : Option Nat
  ovf   : Bool
  satc  : Nat
  deriving DecidableEq, Repr

/-- No element. -/
def TileRes.empty : TileRes := { cells := [], nan := none, inf := none, ovf := false, satc := 0 }

/-- Adds one element in front of later ones: SAT substitution (R353), then its flags. -/
def TileRes.cons (f : BinFmt) (sat : Bool) (n : Nat) (o : FOut) (r : TileRes) : TileRes :=
  let isInf := o.val == f.infinity false || o.val == f.infinity true
  let v := if sat && isInf then f.maxFin (o.val == f.infinity true) else o.val
  { cells := (n, v) :: r.cells
    nan := if (f.unpack v).isNan then some n else r.nan
    inf := if isInf && !sat then some n else r.inf
    ovf := r.ovf || o.ovf
    satc := r.satc + natOf (sat && isInf) }

/-- The results of a list of elements in row-major order. -/
def collect (f : BinFmt) (sat : Bool) (l : List (Nat × FOut)) : TileRes :=
  l.foldr (fun p r => r.cons f sat p.1 p.2) TileRes.empty

/-- Adds one integer element: a clamp adds to SATC, an overflow sets OVF. -/
def TileRes.consInt (n v : Nat) (clamp ovf : Bool) (r : TileRes) : TileRes :=
  { r with cells := (n, v) :: r.cells, ovf := r.ovf || ovf, satc := r.satc + natOf clamp }

/-- The register and position record of TFIRST for element number `n` of a register with `per` elements a row. -/
def firstRecord (reg : Nat) (acc : Bool) (per n : Nat) : Nat :=
  reg + 8 * natOf acc + n / per * 2 ^ 4 + n % per * 2 ^ 10 + 2 ^ 17

/-- TFIRST after the results (R385), from TSTAT and TFIRST as the instruction issues. -/
def firstAfter (tstat tfirst reg : Nat) (acc : Bool) (per : Nat) (r : TileRes) : Nat :=
  let a := match r.nan with
    | some n => if bitOf tstat 0 then tfirst else setBits tfirst 17 0 (firstRecord reg acc per n)
    | none => tfirst
  match r.inf with
  | some n => if bitOf tstat 1 then a else setBits a 49 32 (firstRecord reg acc per n)
  | none => a

/-- TSTAT after the results (R384). -/
def statAfter (tstat : Nat) (r : TileRes) : Nat :=
  let bit (i : Nat) (b : Bool) := if bitOf tstat i || b then 2 ^ i else 0
  bit 0 r.nan.isSome + bit 1 r.inf.isSome + bit 2 r.ovf + min (bitsOf tstat 63 32 + r.satc) 0xFFFFFFFF * 2 ^ 32

end Sys2Proof.Machine
end

