-- ==== Sys2Proof/Machine/TileOuts.lean ====
section
/-!
DEFINITION. What each arithmetic instruction of the tile extension makes of the registers of its thread (chapters 8 and 9): the
matrix multiplies, TSCL, the elementwise instructions, TRED and TCVT, as elements of their destination or the fault of
their operands; and the element a TMOV names.
-/

namespace Sys2Proof.Machine

/-- What an arithmetic instruction makes: destination code, element width, elements a row, whether it can trap (R380, R386), and
the elements it writes. -/
structure TileOut where
  code  : Nat
  w     : Nat
  per   : Nat
  traps : Bool
  res   : TileRes
  deriving DecidableEq, Repr

/-! ### TMOV -/

/-- The element width of a register for TMOV: an accumulator 32, else by TCFG of a T register, 8 for a scale register.
DEDUCED (log 29). -/
def Thread.movWidth (t : Thread) (code : Nat) : Nat :=
  if 16 ≤ code then 32 else if 8 ≤ code then 8 else typeWidth (cfgType (t.tcfg code))

/-- The register code, row, element and width of a TMOV, none when row or element lies outside the register.
DEDUCED (log 29). -/
def Thread.movAt (th : Thread) (t : TileInsn) : Option (Nat × Nat × Nat × Nat) :=
  let code := bitsOf t.fw 5 1
  let w := th.movWidth code
  let row := bitsOf t.fw 11 6
  let el := bitsOf t.fw 18 12
  if row < regRows code ∧ el < rowBytes code * 8 / w then some (code, row, el, w) else none

/-! ### Matrix multiplies -/

/-- The operand checks of R371 for one operand: the subcode, if it fails. `exact_` is the discipline and `named` says
that the instruction named it. -/
def operandCheck (cfg : Nat) (int exact_ named : Bool) : Option Nat :=
  let ty := cfgType cfg
  if ty = 0 then some 0x05
  else if int != decide (6 ≤ ty) then some 0x05
  else if exact_ && cfgSfmt cfg == 2 then some (if named then 0x05 else 0x09)
  else none

/-- The discipline of a TMMA (R372): exact, and named by the instruction. -/
def Thread.tmmaKind (th : Thread) (t : TileInsn) : Bool × Bool :=
  match bitsOf t.fw 9 8 with
  | 1 => (true, true)
  | 2 => (false, true)
  | _ => (!bitOf (th.sysNat Sys.tctl) 6, false)

/-- The elements (i, j) of a product, numbered in row-major order over 64 columns, from two lists of rows. -/
def productCells {α β : Type} (f : α → α → Nat → β) (old : List Nat) (ms ns : List α) : List (Nat × β) :=
  ((ms.zip (List.range ms.length)).map (fun m =>
    (ns.zip (List.range ns.length)).map (fun n =>
      (64 * m.2 + n.2, f m.1 n.1 (old.getD (64 * m.2 + n.2) 0))))).flatten

/-- A TMMA under a discipline: the subcode of fault 0x11, or its result. -/
def Thread.tmmaOut (th : Thread) (t : TileInsn) (exact_ named : Bool) : Except Nat TileOut :=
  let a := t.fw % 4
  let m := bitsOf t.fw 4 2
  let n := bitsOf t.fw 7 5
  let cm := th.tcfg m
  let cn := th.tcfg n
  match (operandCheck cm false exact_ named).or (operandCheck cn false exact_ named) with
  | some sub => .error sub
  | none =>
    let k := min (typeK (cfgType cm)) (typeK (cfgType cn))
    let rm := bitsOf (th.sysNat Sys.tctl) 1 0
    let dot := if exact_ then dotExact rm else dotRounded rm k
    let old := elemsOf 32 (th.tile.regData (16 + a))
    let cells := productCells dot old (operandNums th.tile cm m k) (operandNums th.tile cn n k)
    .ok { code := 16 + a, w := 32, per := 64, traps := true, res := collect binary32 (bitOf (th.sysNat Sys.tctl) 2) cells }

/-- An element of TMMAI (R380): the value written, and whether the sum left the range of I32. -/
def dotInt (isat : Bool) (a b : List Int) (acc : Nat) : Nat × Bool :=
  let sum := (List.zipWith (· * ·) a b).foldl (· + ·) (signedOf 32 acc)
  let exceeds := decide (sum < -2147483648) || decide (2147483647 < sum)
  if exceeds && isat then (if sum < 0 then 0x80000000 else 0x7FFFFFFF, true)
  else ((sum % 4294967296).toNat, exceeds)

/-- TMMAI (R380): the subcode of fault 0x11, or its result. -/
def Thread.tmmaiOut (th : Thread) (t : TileInsn) : Except Nat TileOut :=
  let a := t.fw % 4
  let m := bitsOf t.fw 4 2
  let n := bitsOf t.fw 7 5
  let cm := th.tcfg m
  let cn := th.tcfg n
  match (operandCheck cm true false true).or (operandCheck cn true false true) with
  | some sub => .error sub
  | none =>
    let k := min (typeK (cfgType cm)) (typeK (cfgType cn))
    let isat := bitOf (th.sysNat Sys.tctl) 3
    let old := elemsOf 32 (th.tile.regData (16 + a))
    let cells := productCells (dotInt isat) old (operandInts th.tile cm m k) (operandInts th.tile cn n k)
    .ok { code := 16 + a, w := 32, per := 64, traps := false,
          res := cells.foldr (fun p r => r.consInt p.1 p.2.1 (p.2.2 && isat) p.2.2) TileRes.empty }

/-! ### Elementwise and reductions -/

/-- F32 results for elements of an accumulator. -/
def Thread.floatOut (th : Thread) (a : Nat) (l : List (Nat × FOut)) : TileOut :=
  { code := 16 + a, w := 32, per := 64, traps := true, res := collect binary32 (bitOf (th.sysNat Sys.tctl) 2) l }

/-- The elements of an accumulator. -/
def Thread.accElems (th : Thread) (a : Nat) : List Nat := elemsOf 32 (th.tile.regData (16 + a))

/-- TCTL.RM of a thread. -/
def Thread.trm (th : Thread) : Nat := bitsOf (th.sysNat Sys.tctl) 1 0

/-- A product of two F32 values, rounded once (R381, R382). -/
def tileMul (rm a b : Nat) : FOut := tileRound binary32 rm (mulExact (binary32.unpack a) (binary32.unpack b))

/-- Results numbered from 0. -/
def numbered {α : Type} (l : List α) : List (Nat × α) := (List.range l.length).zip l

/-- TSCL (R381). -/
def Thread.tsclOut (th : Thread) (t : TileInsn) : TileOut :=
  let ts := th.sysNat (Sys.ts (bitsOf t.fw 5 4)) % 2 ^ 32
  th.floatOut (t.fw % 4) (numbered ((th.accElems (bitsOf t.fw 3 2)).map (fun v => tileMul th.trm v ts)))

/-- An elementwise instruction of two accumulators by `f` (R382). -/
def Thread.eachOut (th : Thread) (t : TileInsn) (f : Nat → Nat → FOut) : TileOut :=
  th.floatOut (t.fw % 4) (numbered (List.zipWith f (th.accElems (bitsOf t.fw 3 2)) (th.accElems (bitsOf t.fw 5 4))))

/-- TADD, TMUL, TMAX and TMIN of two elements (R382). -/
def addElem (rm a b : Nat) : FOut := tileAdd binary32 rm (exactOut a) (exactOut b)

/-- A list cut into rows of 64 elements. -/
def elemRows (n : Nat) (l : List Nat) : List (List Nat) :=
  match n with
  | 0 => []
  | k + 1 => l.take 64 :: elemRows k (l.drop 64)

/-- The tree sum of a row (R383). -/
def rowSum (rm : Nat) (l : List Nat) : FOut := treeRoot rm 6 (l.map exactOut)

/-- A TRED: `f` reduces each row to the element of the destination column (R383). -/
def Thread.redOut (th : Thread) (t : TileInsn) (f : List Nat → FOut) : TileOut :=
  let c := bitsOf t.fw 10 5
  th.floatOut (t.fw % 4)
    ((numbered ((elemRows 64 (th.accElems (bitsOf t.fw 3 2))).map f)).map (fun p => (64 * p.1 + c, p.2)))

/-! ### TCVT -/

/-- What TCVT makes of one source element (R357, R358): the element, whether it was clamped or a NaN made 0, and
the rounding result for a floating target. -/
inductive CvtOut where
  | float (o : FOut)
  | int (v : Nat) (clamp : Bool)
  deriving DecidableEq, Repr

/-- The target width, whether As is read as I32, and the clamp range of an integer target (Table 8-7). -/
def cvtRange (type : Nat) : Int × Int :=
  if type = 6 ∨ type = 9 then (-8, 7) else if type = 7 ∨ type = 10 then (-128, 127) else (0, 255)

/-- The width of a TCVT target. -/
def cvtWidth (type : Nat) : Nat :=
  if type = 3 ∨ type = 6 ∨ type = 9 then 4 else if type = 4 ∨ type = 5 then 16 else 8

/-- An integer clamped to a range, as bits of width `w`. -/
def clampInt (type w : Nat) (i : Int) : CvtOut :=
  let (lo, hi) := cvtRange type
  let c := if i < lo then lo else if hi < i then hi else i
  .int ((c % Int.ofNat (2 ^ w)).toNat) (decide (c ≠ i))

/-- One element of TCVT. -/
def cvtElem (type rm v : Nat) : CvtOut :=
  let w := cvtWidth type
  if type ≤ 5 then .float (tileRound (typeFmt type) rm (binary32.unpack v))
  else if type ≤ 8 then clampInt type w (signedOf 32 v)
  else match binary32.unpack v with
    | .nan _ => .int 0 true
    | .inf n => .int (((if n then (cvtRange type).1 else (cvtRange type).2) % Int.ofNat (2 ^ w)).toNat) true
    | .fin n m e => clampInt type w (roundToInt rm n m e).1

/-- TCVT (R354 to R359): the subcode of fault 0x11, or its result. -/
def Thread.tcvtOut (th : Thread) (t : TileInsn) : Except Nat TileOut :=
  let type := bitsOf t.fw 8 5
  let part := bitsOf t.fw 10 9
  if type = 0 ∨ 11 < type then .error 0x01
  else
    let w := cvtWidth type
    let per := 512 / w
    let sat := bitOf (th.sysNat Sys.tctl) 2
    let rows := elemRows 64 (th.accElems (t.fw % 4))
    let cut (l : List Nat) := if w = 16 then (l.drop (32 * part)).take 32 else l
    let first := if w = 4 then 64 * part else 0
    let cells := ((numbered rows).map (fun r => (numbered (cut r.2)).map (fun e =>
      (r.1 * per + first + e.1, cvtElem type th.trm e.2)))).flatten
    .ok { code := bitsOf t.fw 4 2, w := w, per := per, traps := true,
          res := cells.foldr (fun p r => match p.2 with
            | .float o => r.cons (typeFmt type) sat p.1 o
            | .int v c => r.consInt p.1 v c false) TileRes.empty }

/-! ### By opcode -/

/-- What an arithmetic instruction makes, by its opcode; none for another instruction. -/
def Thread.tileOut (th : Thread) (t : TileInsn) : Option (Except Nat TileOut) :=
  match t.op.toNat with
  | 0x08 => some (th.tmmaOut t (th.tmmaKind t).1 (th.tmmaKind t).2)
  | 0x09 => some (th.tmmaiOut t)
  | 0x0A => some (.ok (th.tsclOut t))
  | 0x0B => some (th.tcvtOut t)
  | 0x0C => some (.ok (th.eachOut t (addElem th.trm)))
  | 0x0D => some (.ok (th.eachOut t (tileMul th.trm)))
  | 0x0E => some (.ok (th.eachOut t (tileMinMax true)))
  | 0x0F => some (.ok (th.eachOut t (tileMinMax false)))
  | 0x10 => some (.ok (th.redOut t (if bitOf t.fw 4 then rowMax else rowSum th.trm)))
  | _ => none

end Sys2Proof.Machine
end

