-- ==== Sys2Proof/Machine/TileFixed.lean ====
section
/-!
DEFINITION. How Sward runs the tile instructions of a queue: the end of an arithmetic instruction (R384 to R386), and in Fixed-time
mode the slots and counts (Tables 10-1 and 10-2), the issue cycle (R401, R402, R411), the row schedule (Table 10-3, R405) and the
completion of each instruction.
-/

namespace Sys2Proof.Machine

/-! ### The end of an arithmetic instruction -/

/-- TSTAT and TFIRST after the results of an instruction (R384, R385); `issued` is TSTAT as it issued. -/
def Thread.noteResults (t : Thread) (issued : Nat) (o : TileOut) : Thread :=
  let reg := if o.code < 16 then o.code else o.code - 16
  (t.sysSet Sys.tstat (BitVec.ofNat 64 (statAfter (t.sysNat Sys.tstat) o.res))).sysSet Sys.tfirst
    (BitVec.ofNat 64 (firstAfter issued (t.sysNat Sys.tfirst) reg (decide (16 ≤ o.code)) o.per o.res))

/-- The subcode of the numeric trap of an instruction under TCTL, if it takes one (R380, R386). -/
def TileOut.trap (o : TileOut) (tctl : Nat) : Option Nat :=
  if o.traps && bitOf tctl 4 && o.res.nan.isSome then some 0x01
  else if o.traps && bitOf tctl 5 && o.res.inf.isSome then some 0x02
  else none

/-- The end of an arithmetic instruction at the head of a queue: flags and records, then the trap, or the destination written and
the entry freed. -/
def State.tileEnd (s : State) (g : Nat) (o : TileOut) : State :=
  let ctl := (s.thread g).sysNat Sys.tctl
  let s := s.onThread g (fun t => t.noteResults (t.sysNat Sys.tstat) o)
  match o.trap ctl with
  | some sub => s.stopTile g 0x12 sub 0 0
  | none => (s.onTile g (fun x => x.putElems o.code o.w o.res.cells)).popTile g

/-! ### Slots and counts -/

/-- The slots of Sward (Table 10-1). -/
inductive Slot where
  | m
  | c
  | alone
  deriving DecidableEq, Repr

/-- The slot of an instruction (Table 10-1). -/
def tileSlot (t : TileInsn) : Slot :=
  let o := t.op.toNat
  if 0x08 ≤ o ∧ o ≤ 0x10 then .c else if (0x02 ≤ o ∧ o ≤ 0x07) ∨ o = 0x18 ∨ o = 0x19 then .m else .alone

/-- The registers of the thread as an issued instruction finds them: the system registers of its issue, the rows it has read. -/
def TimedOp.view (o : TimedOp) (t : Thread) : Thread := { t with sys := o.sys, tile := { t.tile with data := o.snap } }

/-- A TCFG word as an issued instruction finds it. -/
def TimedOp.cfg (o : TimedOp) (n : Nat) : Nat := (FMap.get o.sys (Sys.tcfg n) 0).toNat

/-- Are both operands of an issued multiply 4-bit (Table 10-2)? -/
def TimedOp.slow (o : TimedOp) : Bool :=
  typeWidth (cfgType (o.cfg (bitsOf o.insn.fw 4 2))) == 4 && typeWidth (cfgType (o.cfg (bitsOf o.insn.fw 7 5))) == 4

/-- The rows of an issued move. -/
def TimedOp.nrow (o : TimedOp) : Nat := match o.move with | some m => m.nrow | none => 0

/-- The cycles an instruction occupies its slot (Table 10-2). -/
def TimedOp.occupancy (o : TimedOp) : Nat :=
  match o.insn.op.toNat with
  | 0x08 => if o.slow then 128 else 64
  | 0x09 => if o.slow then 128 else 64
  | 0x03 => o.nrow + 2
  | 0x04 => o.nrow + 2
  | 0x05 => 4 * o.nrow
  | 0x06 => 4 * o.nrow
  | 0x07 => 4
  | 0x01 => 1
  | 0x02 => 1
  | _ => 64

/-- The cycle in which an instruction is complete (Table 10-2). -/
def TimedOp.end_ (o : TimedOp) : Nat :=
  o.at_ + o.occupancy + (if o.insn.op = 0x08 ∨ o.insn.op = 0x09 then 12 else 0)

/-- The register an instruction writes. -/
def TimedOp.dest (o : TimedOp) : Option Nat :=
  match o.insn.op.toNat with
  | 0x02 => some (o.insn.fw % 32)
  | 0x03 => o.move.map (·.code)
  | 0x05 => o.move.map (·.code)
  | 0x07 => some (bitsOf o.insn.fw 5 1)
  | 0x0B => some (bitsOf o.insn.fw 4 2)
  | n => if 0x08 ≤ n ∧ n ≤ 0x10 then some (16 + o.insn.fw % 4) else none

/-- The registers a C-slot instruction reads (Table 10-3). -/
def TimedOp.sources (o : TimedOp) : List Nat :=
  let f := o.insn.fw
  let mul := [bitsOf f 4 2, bitsOf f 7 5, 8 + bitsOf f 4 2, 8 + bitsOf f 7 5, 16 + f % 4]
  match o.insn.op.toNat with
  | 0x08 => mul
  | 0x09 => mul
  | 0x0A => [16 + bitsOf f 3 2]
  | 0x0B => [16 + f % 4]
  | 0x10 => [16 + bitsOf f 3 2]
  | n => if 0x0C ≤ n ∧ n ≤ 0x0F then [16 + bitsOf f 3 2, 16 + bitsOf f 5 4] else []

/-! ### The issue cycle -/

/-- May two instructions, one behind the other, issue in one cycle (R402)? -/
def TimedOp.pairs (a b : TimedOp) : Bool :=
  let apart (m c : TimedOp) : Bool := match m.dest with | some r => !c.sources.contains r | none => true
  let both := match a.dest, b.dest with | some x, some y => x == y && decide (16 ≤ x) | _, _ => false
  match tileSlot a.insn, tileSlot b.insn with
  | .m, .c => !both && apart a b
  | .c, .m => !both && apart b a
  | _, _ => false

/-- The first cycle in which the slot of an instruction is free, `clock` at the earliest. -/
def TimedOp.freeAt (o : TimedOp) (clock : Nat) (ops : List TimedOp) : Nat :=
  (ops.filter (fun x => tileSlot x.insn == tileSlot o.insn || tileSlot x.insn == .alone || tileSlot o.insn == .alone)).foldl
    (fun c x => max c (x.at_ + x.occupancy)) clock

/-- The issue cycle of the next instruction in Fixed-time mode (R401, R402, R411): in the cycle of the instruction before it only
as a pair. -/
def TimedOp.issueAt (o : TimedOp) (clock : Nat) (ops : List TimedOp) : Nat :=
  let c := o.freeAt clock ops
  match ops.getLast? with
  | some l => if l.at_ = c ∧ !l.pairs o then c + 1 else c
  | none => c

/-! ### The row schedule -/

/-- The row of a sequence that begins in cycle `first` and takes one row every `gap` cycles, `n` rows, in cycle `d`. -/
def rowAt (first gap n d : Nat) : Option Nat :=
  if first ≤ d ∧ (d - first) % gap = 0 ∧ (d - first) / gap < n then some ((d - first) / gap) else none

/-- The register rows an instruction reads in cycle `d` from its issue (Table 10-3), as register code and row. -/
def TimedOp.readsAt (o : TimedOp) (d : Nat) : List (Nat × Nat) :=
  let f := o.insn.fw
  let row (code : Nat) (r : Option Nat) : List (Nat × Nat) := r.toList.map (fun r => (code, r))
  let mul :=
    let gap := if o.slow then 2 else 1
    (if d < 2 then (upFrom (32 * d) 32).map (fun r => (bitsOf f 7 5, r)) else []) ++
    (if d = 0 then (List.range 8).flatMap (fun r => [(8 + bitsOf f 7 5, r), (8 + bitsOf f 4 2, r)]) else []) ++
    row (bitsOf f 4 2) (rowAt 2 gap 64 d) ++ row (16 + f % 4) (rowAt (if o.slow then 11 else 10) gap 64 d)
  let store (gap : Nat) := match o.move with
    | some m => row m.code ((rowAt 0 gap m.nrow d).map (m.row0 + ·))
    | none => []
  match o.insn.op.toNat with
  | 0x08 => mul
  | 0x09 => mul
  | 0x04 => store 1
  | 0x06 => store 4
  | _ => o.sources.flatMap (fun c => row c (rowAt 0 1 64 d))

/-- The row an instruction writes in cycle `d` from its issue (Table 10-3), counted from ROW0 of a move. -/
def TimedOp.writeAt (o : TimedOp) (d : Nat) : Option Nat :=
  match o.insn.op.toNat with
  | 0x08 => if o.slow then rowAt 13 2 64 d else rowAt 12 1 64 d
  | 0x09 => if o.slow then rowAt 13 2 64 d else rowAt 12 1 64 d
  | 0x03 => rowAt 2 1 o.nrow d
  | 0x04 => rowAt 2 1 o.nrow d
  | 0x05 => rowAt 3 4 o.nrow d
  | 0x06 => rowAt 3 4 o.nrow d
  | 0x02 => rowAt 0 1 1 d
  | 0x07 => rowAt 3 1 1 d
  | 0x01 => none
  | _ => rowAt 0 1 64 d

/-- Reads the rows of cycle `c` as they stand before the writes of that cycle (R405). -/
def TimedOp.capture (o : TimedOp) (x : TileCtx) (c : Nat) : TimedOp :=
  if c < o.at_ then o
  else { o with snap := (o.readsAt (c - o.at_)).foldl (fun m p =>
    Mem.splice m (regBase p.1 + p.2 * rowBytes p.1) (x.row p.1 p.2)) o.snap }

/-- Writes row `r` of an issued instruction from the rows it has read, and gives the row it replaced. -/
def State.writeTimed (s : State) (g : Nat) (o : TimedOp) (r : Nat) : State × List Byte :=
  match o.move with
  | some m =>
    if o.insn.op = 0x03 ∨ o.insn.op = 0x05 then
      (s.onTile g (fun x => x.putRow m.code (m.row0 + r) (FMap.get o.rows r [])), [])
    else
      let bs := Mem.block o.snap (regBase m.code + (m.row0 + r) * rowBytes m.code) (rowBytes m.code)
      (s.onCore (g / 2) (fun c => c.tsbWrite (m.at_ r) bs), [])
  | none =>
    let v := o.view (s.thread g)
    if o.insn.op = 0x02 then (s.onTile g (fun x => x.zero (o.insn.fw % 32)), [])
    else if o.insn.op = 0x07 then
      match v.movAt o.insn with
      | some (code, row, el, w) =>
        (s.onTile g (fun x => x.putElems code w [(row * (rowBytes code * 8 / w) + el, o.entry.value.toNat % 2 ^ w)]), [])
      | none => (s, [])
    else match v.tileOut o.insn with
      | some (.ok out) =>
        (s.onTile g (fun x => x.putElems out.code out.w (out.res.cells.filter (fun p => p.1 / out.per == r))),
         (s.thread g).tile.row out.code r)
      | _ => (s, [])

/-- The write of issued instruction `i` in cycle `c`, if it has one. -/
def State.timedWrite (s : State) (g c i : Nat) : State :=
  match (s.thread g).tile.timed[i]? with
  | none => s
  | some o =>
    if c < o.at_ then s
    else match o.writeAt (c - o.at_) with
      | none => s
      | some r =>
        let (s, old) := s.writeTimed g o r
        if old.isEmpty then s
        else s.onTile g (fun x => { x with timed := listSet x.timed i { o with rows := FMap.put o.rows r old } })

/-- One CCLK cycle: every read of a row before every write, and the younger instruction's write of a row after the older's
(R405, R411). -/
def State.timedCycle (s : State) (g : Nat) : State :=
  let x := (s.thread g).tile
  let s := s.onTile g (fun x => { x with timed := x.timed.map (fun o => o.capture x x.clock), clock := x.clock + 1 })
  (List.range x.timed.length).foldl (fun s i => s.timedWrite g x.clock i) s

/-- `n` cycles. -/
def State.timedCycles (s : State) (g n : Nat) : State :=
  match n with
  | 0 => s
  | k + 1 => (s.timedCycle g).timedCycles g k

/-! ### Completion -/

/-- The trap of an instruction all of whose rows are read, if it takes one (R386). -/
def TimedOp.trap (o : TimedOp) (t : Thread) : Option Nat :=
  match (o.view t).tileOut o.insn with
  | some (.ok out) => out.trap (FMap.get o.sys Sys.tctl 0).toNat
  | _ => none

/-- Flags and records of an instruction that completes, or stops (R308). -/
def TimedOp.noted (o : TimedOp) (t : Thread) : Thread :=
  match (o.view t).tileOut o.insn with
  | some (.ok out) => t.noteResults (FMap.get o.sys Sys.tstat 0).toNat out
  | _ => t

/-- Issued instructions from `i` on, `n` of them, that are complete leave the queue; one that traps keeps its entry, its
destination as it stood before it. -/
def State.timedEnds (s : State) (g i n : Nat) : State :=
  match n with
  | 0 => s
  | k + 1 =>
    let t := s.thread g
    match t.tile.timed[i]? with
    | none => s
    | some o =>
      if t.tile.clock < o.end_ then s.timedEnds g (i + 1) k
      else match o.trap t with
        | none =>
          let s := s.onThread g o.noted
          (s.onTile g (fun x => { x with timed := x.timed.eraseIdx i, queue := x.queue.eraseIdx i })).timedEnds g i k
        | some _ =>
          (s.onTile g (fun x => o.rows.foldl (fun x p => x.putRow (o.dest.getD 0) p.1 p.2) x)).timedEnds g (i + 1) k

/-- The last cycle of the issued instructions. -/
def TileCtx.lastEnd (x : TileCtx) : Nat := x.timed.foldl (fun c o => max c o.end_) x.clock

/-- Sward runs to cycle `c` of a Fixed-time schedule: instructions complete, and the oldest that traps stops the stream once
those in flight have completed (R307).
DESIGN CHOICE (log 27). -/
def State.tilesTo (s : State) (g c : Nat) : State :=
  let s := s.timedCycles g (c - (s.thread g).tile.clock)
  let x := (s.thread g).tile
  if x.timed.any (fun o => decide (o.end_ ≤ x.clock) && (o.trap (s.thread g)).isSome) then
    let s := s.timedCycles g (x.lastEnd - x.clock)
    let s := s.timedEnds g 0 x.timed.length
    match (s.thread g).tile.timed.head? with
    | some o =>
      let s := s.onThread g o.noted
      (s.stopTile g 0x12 ((o.trap (s.thread g)).getD 0) 0 0).onTile g (fun x => { x with timed := [], clock := 0 })
    | none => s
  else s.timedEnds g 0 x.timed.length

/-- Every instruction issued in Fixed-time mode completes: what waits for them, or time that passes, lets them.
DESIGN CHOICE (log 27). -/
def State.drainTiles (s : State) (g : Nat) : State :=
  let x := (s.thread g).tile
  if x.timed.isEmpty then s else (s.tilesTo g x.lastEnd).onTile g (fun x => { x with timed := [], clock := 0 })

/-! ### Issue -/

/-- An instruction issues in Fixed-time mode in its cycle, after `apply`; not behind a stop. -/
def State.addTimed (s : State) (g : Nat) (e : TqEntry) (t : TileInsn) (m : Option TileMove) (rows : FMap (List Byte))
    (apply : Thread → Thread) : State :=
  let x := (s.thread g).tile
  let o : TimedOp := { entry := e, insn := t, at_ := 0, move := m, sys := (s.thread g).sys, snap := [], rows := rows }
  let c := o.issueAt x.clock x.timed
  let s := s.tilesTo g c
  if (s.thread g).stopped then s
  else
    let sys := (s.thread g).sys
    (s.onThread g apply).onTile g (fun x =>
      { x with timed := x.timed ++ [{ o with at_ := c, sys := sys }], clock := c, move := none, resume := 0 })

/-- What stops the stream as an instruction issues, once the older ones have completed (R307): `stop` runs on the state then. -/
def State.stopsTimed (s : State) (g : Nat) (stop : State → State) : State :=
  let s := s.drainTiles g
  if (s.thread g).stopped then s else stop s

/-- The rows of a TSB move at its issue, by number, none when one of them fails (R417, R427). -/
def State.timedRows (s : State) (g : Nat) (load : Bool) (m : TileMove) : Option (FMap (List Byte)) :=
  (List.range m.nrow).foldl (fun (l : Option (FMap (List Byte))) i =>
    match l with
    | none => none
    | some rows =>
      if ((s.thread g).tsbOutside (m.at_ i) (rowBytes m.code)).isSome then none
      else if !load then some rows
      else match s.rowLoad g 0 true (m.at_ i) (rowBytes m.code) with
        | .ok bs _ => some (FMap.put rows i bs)
        | _ => none) (some [])

/-- A memory move in Fixed-time mode: its rows issue with it, from the one a TRESUME left it at; one that fails runs behind the
older instructions, up to the row that fails.
DESIGN CHOICE (log 27). -/
def State.timedMove (s : State) (g : Nat) (e : TqEntry) (t : TileInsn) (load : Bool) : State :=
  let r := s.moveSetup g e t (fun _ s => s)
  match (r.thread g).tile.move with
  | some m =>
    let i := (r.thread g).tile.resume
    let m' := { m with row0 := m.row0 + i, nrow := m.nrow - i, base := m.at_ i }
    (match r.timedRows g load m' with
    | some rows => r.addTimed g e t (some m') rows id
    | none => r.stopsTimed g (fun s => s.memMove g e t load none))
  | none => if (r.thread g).stopped then s.stopsTimed g (fun s => s.moveSetup g e t (fun _ s => s)) else r

/-- An instruction issues in Fixed-time mode (R411). -/
def State.fixedIssue (s : State) (g : Nat) (e : TqEntry) (t : TileInsn) : State :=
  let bad (sub : Nat) : State := s.stopsTimed g (fun s => s.stopTile g 0x11 sub 0 0)
  match t.op.toNat with
  | 0x01 =>
    let c := bitsOf t.fw 25 8
    (match tcfgCheck c with
    | some sub => bad sub
    | none => s.addTimed g e t none [] (fun th => th.sysSet (Sys.tcfg (t.fw % 8)) (BitVec.ofNat 64 (tcfgValue c))))
  | 0x02 => s.addTimed g e t none [] id
  | 0x03 => s.timedMove g e t true
  | 0x04 => s.timedMove g e t false
  | 0x05 => s.timedMove g e t true
  | 0x06 => s.timedMove g e t false
  | 0x07 => if ((s.thread g).movAt t).isNone then bad 0x06 else s.addTimed g e t none [] id
  | _ =>
    match (s.thread g).tileOut t with
    | some (.error sub) => bad sub
    | _ => s.addTimed g e t none [] id

/-- A tile instruction at the head of a queue, when `p` accepts it: `run` in Shared and Owned mode (R409, R410), its schedule in
Fixed-time mode (R411).
DESIGN CHOICE (log 27). -/
def State.tileIssue (s : State) (g : Nat) (p : TileInsn → Bool) (run : State → TqEntry → TileInsn → State) : State :=
  s.tileRow g p (fun e t => if (s.core (g / 2)).mode = 2 then s.fixedIssue g e t else run s e t)

/-- The C-slot instruction behind a TFENCE that may issue while the store move before the fence waits for its rows (R483): it
makes no memory access and does not write the register the move still reads. -/
def State.pastFence (s : State) (g : Nat) (p : TileInsn → Bool) : Option (TileInsn × List TqEntry) :=
  let x := (s.thread g).tile
  match s.tileHead g, x.move, x.queue with
  | some _, some m, h :: f :: e :: rest =>
    match h.op, f.op, e.op with
    | .tile a, .tile b, .tile t =>
      let o : TimedOp := { entry := e, insn := t, at_ := 0, move := none, sys := [], snap := [], rows := [] }
      if x.timed.isEmpty && (a.op == 0x04 || a.op == 0x06) && b.op == 0x13 && tileSlot t == .c && p t && o.dest != some m.code then
        some (t, e :: rest)
      else none
    | _, _, _ => none
  | _, _, _ => none

/-- An arithmetic instruction at the head of a queue, or behind a TFENCE that waits (R483): `out` is what it makes. One behind a
fence that would stop the stream waits for its turn. -/
def State.tileArith (s : State) (g : Nat) (p : TileInsn → Bool) (out : Thread → TileInsn → Except Nat TileOut) : State :=
  let run (s : State) (t : TileInsn) : State :=
    match out (s.thread g) t with
    | .error sub => s.stopTile g 0x11 sub 0 0
    | .ok o => s.tileEnd g o
  match s.pastFence g p with
  | some (t, q) =>
    let x := (s.thread g).tile
    let s' := run (s.onTile g (fun x => { x with queue := q })) t
    if (s'.thread g).stopped then s
    else s'.onTile g (fun y => { y with queue := x.queue.take 2 ++ y.queue, move := x.move, resume := x.resume })
  | none => s.tileIssue g p (fun s _ t => run s t)

/-- A fabric move of opcode `o` at the head of a queue, from the row a TRESUME left it at; Fixed-time mode refuses it (R412). -/
def State.moveRow (s : State) (g o : Nat) (run : State → TqEntry → TileMove → Nat → State) : State :=
  let s := s.drainTiles g
  s.tileRow g (fun t => t.op.toNat == o) (fun q t =>
    s.moveSetup g q t (fun m s => run s q m (s.thread g).tile.resume))

end Sys2Proof.Machine
end

