-- ==== Sys2Proof/Machine/FabricOps.lean ====
section
/-!
DEFINITION. The fabric agent's requests (R668 to R685): TPUT and TGET at both ends, queued messages and their credits,
collectives, packet delivery in pair order, and the fabric timeout.
-/

namespace Sys2Proof.Machine

/-! ### Operations in flight -/

/-- Changes the fabric agent. -/
def State.onFabric (s : State) (f : Fabric → Fabric) : State := { s with fabric := f s.fabric }

/-- The domain of a thread as its packets name it. -/
def State.packetDom (s : State) (g : Nat) : Nat := (s.domOf g).getD 0

/-- The fabric-get entries in use (R675, Table 16-6), and those of a domain. -/
def State.getEntries (s : State) : Nat := s.fabric.ops.length + s.fabric.colls.length
def State.getEntriesOf (s : State) (d : Nat) : Nat :=
  (s.fabric.ops.filter (fun o => o.dom == d)).length + (s.fabric.colls.filter (fun o => o.dom == d)).length

/-- Does R264 let a thread's domain take another fabric-get entry? -/
def State.getAdmits (s : State) (g : Nat) : Bool := s.admits 3 4096 s.getEntriesOf s.getEntries 0 (s.packetDom g)

/-- Does a thread that held for a fabric-get entry still want it, and would R264 give it one? -/
def State.getWaiter (s : State) (g : Nat) : Bool :=
  let t := s.thread g
  let head := match t.tile.queue.head? with
    | some e => (match e.op with | .tile i => i.fabric | .wrsr _ _ => false)
    | none => false
  s.getAdmits g && (t.stq.isSome || (t.run == .running && !t.stopped && head))

/-- Does a thread take a fabric-get entry now: R264 admits it, and no thread that has waited longer (R261)?
DESIGN CHOICE (log 49). -/
def State.getFree (s : State) (g : Nat) : Bool :=
  s.getAdmits g && !(s.fabric.getWait.takeWhile (· != g)).any s.getWaiter

/-- A thread that finds no fabric-get entry holds in its turn (R260, R675). -/
def State.awaitGet (s : State) (g : Nat) : State :=
  if s.fabric.getWait.contains g then s else s.onFabric (fun f => { f with getWait := f.getWait ++ [g] })

/-- A thread no longer waits for a fabric-get entry. -/
def State.endGetWait (s : State) (g : Nat) : State := s.onFabric (fun f => { f with getWait := f.getWait.filter (· != g) })

/-- Records a failure in FERR and raises source 0x2F0 in the domain it was made for (R674, R683).
DEDUCED (log 31). -/
def State.fabricFail (s : State) (d g code node : Nat) : State :=
  (s.onFabric (fun f => { f with ferrCode := code, ferrNode := node, ferrThr := g })).raise d 0x2F0

/-- Removes an operation. -/
def State.dropOp (s : State) (tag : Nat) : State := s.onFabric (fun f => { f with ops := f.ops.filter (fun o => o.tag != tag) })

/-- Replaces an operation by its tag. -/
def State.setOp (s : State) (o : FabOp) : State :=
  s.onFabric (fun f => { f with ops := f.ops.map (fun x => if x.tag = o.tag then o else x) })

/-- The operation of a thread that a packet names, of a kind. -/
def State.opOf (s : State) (thread tag kind : Nat) : Option FabOp :=
  s.fabric.ops.find? (fun o => o.thread == thread && o.tag == tag && o.kind == kind)

/-- Takes a fabric-get entry for a new operation. -/
def State.addOp (s : State) (o : FabOp) : State :=
  (s.endGetWait o.thread).onFabric (fun f => { f with ops := f.ops ++ [{ o with tag := f.nextOp }], nextOp := f.nextOp + 1 })

/-- Counts a completion in SCNTm of the thread's core when LCEN or CEN asks for it, while its tile is still of the domain. -/
def State.countDone (s : State) (d g m : Nat) (en : Bool) : State :=
  if en && s.inDomain g d then s.onCore (g / 2) (fun c => c.count m false) else s

/-- Sets SCNTm.ERR on a failure. -/
def State.countFail (s : State) (d g m : Nat) (en : Bool) : State :=
  if en && s.inDomain g d then s.onCore (g / 2) (fun c => c.countErr m) else s

/-- The node, number and kind of an endpoint name (R668). -/
def epNode (name : Nat) : Nat := name % 65536
def epNumber (name : Nat) : Nat := bitsOf name 27 16
def epKind (name : Nat) : Nat := bitsOf name 30 28

/-- Does window `n` of a thread name an endpoint of a kind with a right (R670)? -/
def State.fabWindow (s : State) (g n kind right : Nat) : Option GrantWin :=
  match FMap.find (s.thread g).gw n with
  | some w =>
    if w.kind = 5 ∧ s.winLive ((s.domOf g).getD 64) w ∧ epKind w.object = kind ∧ w.rights.getLsbD right then some w else none
  | none => none

/-- Does a window cover bytes of a memory endpoint, by its 64-byte units? The first offset it does not cover otherwise. -/
def GrantWin.uncovered (w : GrantWin) (off n : Nat) : Option Nat :=
  if off < 64 * w.base ∨ 64 * w.limit ≤ off then some off
  else if 64 * w.limit < off + n then some (64 * w.limit)
  else none

/-! ### TPUT and TGET at the initiator (R671 to R675) -/

/-- A TPUT fails once its entry is freed (R674).
DEDUCED (log 31). -/
def State.putFail (s : State) (o : FabOp) (code : Nat) : State :=
  ((s.dropOp o.tag).countFail o.dom o.thread o.cnt o.lcen).fabricFail o.dom o.thread code o.node

/-- A TGET fails: the stream stops with DONE counting the rows written (R674).
DEDUCED (log 31). -/
def State.getFail (s : State) (o : FabOp) (sub : Nat) : State :=
  let s := s.dropOp o.tag
  match (s.thread o.thread).tile.queue.head? with
  | some _ => s.stopTile o.thread 0x13 sub (BitVec.ofNat 64 (o.faddr.toNat)) o.done
  | none => s

/-- Rows ROW0 + i on of a TPUT, `n` of them at most, checked and handed to the agent one by one; the entry is freed after the
last. One that has rows left goes on from there. DESIGN CHOICE (log 27). -/
def State.putRows (s : State) (g : Nat) (m : TileMove) (o : FabOp) (i n : Nat) : State :=
  if m.nrow ≤ i then (s.setOp { o with done := m.nrow }).popTile g
  else match n with
  | 0 => (s.setOp { o with done := i }).onTile g (fun x => { x with resume := i })
  | k + 1 =>
    let fail (a : Nat) : State := (s.dropOp o.tag).stopTile g 0x13 0x0C (BitVec.ofNat 64 a) i
    match s.fabWindow g m.win 1 0 with
    | none => fail (m.at_ i)
    | some w => match w.uncovered (m.at_ i) (rowBytes m.code) with
      | some a => fail a
      | none =>
        (s.sendPacket o.node 0 o.dom (.tputRow g o.tag (epNumber o.object) (m.at_ i) ((s.thread g).tile.row m.code (m.row0 + i))
          (i + 1 == m.nrow) (bitOf m.e 5))).putRows g m o (i + 1) k

/-- The operation of a move through window `w`. -/
def moveOp (g dom kind : Nat) (m : TileMove) (w : GrantWin) (i now : Nat) : FabOp :=
  { thread := g, dom := dom, kind := kind, window := m.win, object := w.object, reg := m.code, row0 := m.row0 + i, nrow := m.nrow,
    done := i,
    cnt := m.e % 16, lcen := bitOf m.e 4, node := epNode w.object, faddr := BitVec.ofNat 64 (m.at_ i), tag := 0, since := now,
    marked := false }

/-- The TPUT of a thread that has handed over its rows before row `i`, and has others left. -/
def State.putOpen (s : State) (g i : Nat) : Option FabOp :=
  if i = 0 then none
  else s.fabric.ops.find? (fun o => o.thread == g && o.kind == fabPut && o.done == i && decide (o.done < o.nrow))

/-- TPUT (R672): its rows go to the agent, as many as the command gives or all that are left, and after the last the entry is
freed. -/
def execTput (x : TileRows) (s : State) : Host.Outcome State Fault Refusal :=
  let thread := x.thread
  .next (if x.rows = some 0 then s else s.moveRow thread 0x18 (fun s _ m i =>
    let n := x.rows.getD (m.nrow - i)
    match s.putOpen thread i, s.fabWindow thread m.win 1 0 with
    | some o, _ => s.putRows thread m o i n
    | none, none => s.stopTile thread 0x13 0x0C (BitVec.ofNat 64 (m.at_ i)) i
    | none, some w =>
      let o := moveOp thread (s.packetDom thread) fabPut m w i s.timeBase
      if !s.getFree thread then s.awaitGet thread
      else if s.fabric.state ≠ 2 then (s.popTile thread).putFail o 0x05
      else (s.addOp o).putRows thread m { o with tag := s.fabric.nextOp } i n))

/-- TGET (R672): one request; the entry stays at the head until its last row is written. -/
def execTget (thread : Nat) (s : State) : Host.Outcome State Fault Refusal :=
  .next (s.moveRow thread 0x19 (fun s _ m i =>
    match s.fabWindow thread m.win 1 1 with
    | none => s.stopTile thread 0x13 0x0C (BitVec.ofNat 64 (m.at_ i)) i
    | some w =>
      let bad := ((upFrom i (m.nrow - i)).filterMap (fun r => w.uncovered (m.at_ r) (rowBytes m.code))).head?
      match bad with
      | some a => s.stopTile thread 0x13 0x0C (BitVec.ofNat 64 a) i
      | none =>
        if !s.getFree thread then s.awaitGet thread
        else if s.fabric.state ≠ 2 then s.stopTile thread 0x13 0x0A (BitVec.ofNat 64 (m.at_ i)) i
        else
          (s.addOp (moveOp thread (s.packetDom thread) fabGet m w i s.timeBase)).sendPacket (epNode w.object) 0 (s.packetDom thread)
            (.tgetReq thread s.fabric.nextOp (epNumber w.object) (m.at_ i) m.stride (m.nrow - i) (rowBytes m.code))))

/-! ### TPUT and TGET at the target (R670, R673) -/

/-- The endpoint a request reaches when its target checks pass. Its bytes must still be its domain's.
DESIGN CHOICE (log 49). -/
def State.endpointFor (s : State) (p : Packet) (n right off len : Nat) : Option Endpoint :=
  match FMap.find s.fabric.endpoints n with
  | some e =>
    let inWin : Bool := match e.core with
      | some c => s.inDomain (2 * c) e.domain
      | none => (s.domain e.domain).owns (e.base + off) && (s.domain e.domain).owns (e.base + off + len - 1)
    if e.nodeLo ≤ p.src ∧ p.src ≤ e.nodeHi ∧ (e.initDom = 64 ∨ e.initDom = p.srcDom) ∧ e.rights.getLsbD right ∧
        off + len ≤ e.len ∧ inWin then some e else none
  | none => none

/-- Writes bytes at an endpoint: a WrL to DRAM (R462), or the Stream port of its core. -/
def State.epWrite (s : State) (e : Endpoint) (off : Nat) (bs : List Byte) : State :=
  match e.core with
  | some c => s.onCore c (fun x => x.tsbWrite (e.base + off) bs)
  | none => s.agentWrites fabricAgent e.domain (e.base + off) bs

/-- Can the fabric agent write `n` bytes of DRAM now: is nothing open for their lines? A packet that cannot be performed holds in
its input buffer (R667). DESIGN CHOICE (log 49). -/
def State.agentMayWrite (s : State) (a n : Nat) : Bool :=
  (upFrom (a / 64) ((a % 64 + n + 63) / 64)).all (fun l => s.lineIdle l &&
    (s.line l).dir.holders.all (fun h => match s.localCore h with | some c => !(s.core c).busy l | none => true))

/-- Do the reads of `n` bytes of DRAM for domain `d` find their entries toward memory (R264)? A packet that cannot be performed holds
in its input buffer (R667). DESIGN CHOICE (log 49). -/
def State.agentMayRead (s : State) (d a n : Nat) : Bool :=
  (s.agentReads d (upFrom (a / 64) ((a % 64 + n + 63) / 64))).isSome

/-- The state in which the fabric agent has read `n` bytes at an endpoint: a RdNA for each line of DRAM (R673). -/
def State.epFetch (s : State) (e : Endpoint) (off n : Nat) : State :=
  match e.core with
  | some _ => s
  | none => (s.agentReads e.domain (upFrom ((e.base + off) / 64) (((e.base + off) % 64 + n + 63) / 64))).getD s

/-- Reads bytes at an endpoint. -/
def State.epRead (s : State) (e : Endpoint) (off n : Nat) : List Byte :=
  match e.core with
  | some c => Mem.block (s.core c).tsb (e.base + off) n
  | none => Mem.block s.dram (e.base + off) n

/-- A TPUT row performed or refused; after the last, when every row has been performed, it is acknowledged, and with RCEN counted
(R673). -/
def State.putArrive (s : State) (p : Packet) (thread tag n off : Nat) (bs : List Byte) (last rcen : Bool) : State :=
  let k := (p.src, thread, tag)
  let bad := s.fabric.badPuts.contains k
  let rest := s.fabric.badPuts.filter (· != k)
  match s.endpointFor p n 0 off bs.length with
  | none =>
    (s.onFabric (fun f => { f with badPuts := if last then rest else rest ++ [k] })).sendPacket p.src 1 p.srcDom (.refused thread tag)
  | some e =>
    let s := s.epWrite e off bs
    if last && bad then s.onFabric (fun f => { f with badPuts := rest })
    else if last then
      let s := match e.core with
        | some c => if rcen then s.onCore c (fun x => x.count e.rcnt false) else s
        | none => s
      s.sendPacket p.src 1 p.srcDom (.tputAck thread tag)
    else s

/-- The rows of a TGET request from `i` on (`n` of them): each is read, or the request refused. -/
def State.getRows (s : State) (p : Packet) (thread tag ep off : Nat) (stride : Int) (len i n : Nat) : State :=
  match n with
  | 0 => s
  | k + 1 =>
    let a := ((Int.ofNat off + Int.ofNat i * stride) % 2 ^ 64).toNat
    match s.endpointFor p ep 1 a len with
    | none => s.sendPacket p.src 1 p.srcDom (.refused thread tag)
    | some e =>
      ((s.epFetch e a len).sendPacket p.src 1 p.srcDom (.tgetRow thread tag i (s.epRead e a len) (k == 0))).getRows p thread tag ep off stride
        len (i + 1) k

/-! ### Returns to the initiator -/

/-- The acknowledgement of a TPUT (R673). -/
def State.putAck (s : State) (thread tag : Nat) : State :=
  match s.opOf thread tag fabPut with
  | some o => (s.dropOp tag).countDone o.dom thread o.cnt o.lcen
  | none => s

/-- A row of a TGET: written to its register row; the last one frees the entry (R672, R673). -/
def State.getRow (s : State) (thread tag row : Nat) (bs : List Byte) (last : Bool) : State :=
  match s.opOf thread tag fabGet with
  | none => s
  | some o =>
    if (s.thread thread).tile.queue.isEmpty then if last then s.dropOp tag else s
    else
      let s := s.onTile thread (fun x => x.putRow o.reg (o.row0 + row) bs)
      let s := s.setOp { o with done := o.done + 1 }
      if last then ((s.dropOp tag).countDone o.dom thread o.cnt o.lcen).popTile thread else s

/-- A refusal by the target (R674). -/
def State.refusedOp (s : State) (thread tag : Nat) : State :=
  match s.opOf thread tag fabPut with
  | some o => s.putFail o 0x04
  | none => match s.opOf thread tag fabGet with
    | some o => s.getFail o 0x09
    | none => s

/-! ### Queued messages (R676 to R679) -/

/-- Changes SNDSTAT of a thread. -/
def State.setSend (s : State) (g st code : Nat) : State := s.onFab g (fun x => { x with sndState := st, sndCode := code })

/-- The credit entry of a source domain for a queue of a node. -/
def State.credit (s : State) (d q node : Nat) : Option Credit :=
  s.fabric.credits.find? (fun c => c.domain == d && c.queue == q && c.node == node)

/-- Puts a credit entry, as the most recently used. -/
def State.putCredit (s : State) (c : Credit) : State :=
  s.onFabric (fun f =>
    { f with credits := f.credits.filter (fun x => !(x.domain == c.domain && x.queue == c.queue && x.node == c.node)) ++ [c] })

/-- Removes a credit entry. -/
def State.dropCredit (s : State) (c : Credit) : State :=
  s.onFabric (fun f =>
    { f with credits := f.credits.filter (fun x => !(x.domain == c.domain && x.queue == c.queue && x.node == c.node)) })

/-- Makes room in the credit table: the entry least recently used that holds its whole quota is released (R678). -/
def State.creditRoom (s : State) : Option State :=
  if s.fabric.credits.length < 256 then some s
  else match s.fabric.credits.find? (fun c => !c.asked && c.have_ == c.quota) with
    | some c => some (s.dropCredit c)
    | none => none

/-- What a store to a start register comes to: it is performed, or it holds in the store queue. -/
inductive StoreEnd where
  | done (s : State)
  | hold (h : Hold) (s : State)
  deriving DecidableEq, Repr

/-- The state that a start store of `v` at control-space offset `off` leaves: one that holds stays in the store queue (R677,
R681). -/
def StoreEnd.state (e : StoreEnd) (g off v : Nat) : State :=
  match e with | .done s => s.holdAt g .none | .hold h s => s.holdStore g h off v

/-- The 128 message bytes of a thread. -/
def State.msgBytes (s : State) (g n : Nat) : List Byte := Mem.read (s.fab g).msg 0 n

/-- A store to SNDCTL with GO = 1 (R677, R678, Table 16-7). -/
def State.sndStore (s : State) (g v : Nat) : StoreEnd :=
  let d := s.packetDom g
  let len := bitsOf v 11 4
  if (s.fab g).sndState = 1 then .hold .busySend s
  else if 128 < len then .done (s.setSend g 3 0x09)
  else match s.fabWindow g (bitsOf v 3 1) 2 2 with
    | none => .done (s.setSend g 3 0x01)
    | some w =>
      let q := epNumber w.object
      let node := epNode w.object
      if s.fabric.state ≠ 2 then .done (s.setSend g 3 0x05)
      else if !s.getFree g then .hold .bound (s.awaitGet g)
      else match s.credit d q node with
        | none =>
          match s.creditRoom with
          | none => .hold .sendCredit s
          | some s =>
            .hold .sendCredit ((s.putCredit
              { domain := d, queue := q, node := node, have_ := 0, quota := 0, asked := true, deny := 0,
                since := s.timeBase }).sendPacket node 0 d (.creditReq q))
        | some c =>
          if c.deny ≠ 0 then .done ((s.dropCredit c).setSend g 3 c.deny)
          else if c.have_ = 0 then .hold .sendCredit s
          else
            let o : FabOp :=
              { thread := g, dom := d, kind := fabSend, window := bitsOf v 3 1, object := w.object, reg := 0, row0 := 0, nrow := 0,
                done := 0, cnt := 0, lcen := false, node := node, faddr := 0, tag := 0, since := s.timeBase, marked := false }
            .done (((((s.putCredit { c with have_ := c.have_ - 1 }).addOp o).setSend g 1 0).sendPacket node 0 d
              (.send g s.fabric.nextOp q (s.msgBytes g len))))

/-- The sender entry of a queue that a source matches, with its number. -/
def RecvQueue.senderOf (q : RecvQueue) (node dom : Nat) : Option (Nat × Sender) :=
  (((List.range q.senders.length).zip q.senders).find? (fun p =>
    decide (p.2.nodeLo ≤ node) && decide (node ≤ p.2.nodeHi) && p.2.domain == dom))

/-- Replaces a receive queue. -/
def State.putQueue (s : State) (n : Nat) (q : RecvQueue) : State :=
  s.onFabric (fun f => { f with queues := FMap.put f.queues n q })

/-- The address of slot `n` of a receive queue. -/
def RecvQueue.slotAt (q : RecvQueue) (n : BitVec 32) : Nat := q.base + 256 * (n.toNat % (16 * 2 ^ q.sz))

/-- The delivery of a message (R676): its slot is written as a WrL, then QTAIL advances and the interrupt source is pended. -/
def State.deliverMsg (s : State) (p : Packet) (thread tag n : Nat) (bs : List Byte) : State :=
  let answer (s : State) (code : Nat) : State := s.sendPacket p.src 1 p.srcDom (.sendAck thread tag code)
  match FMap.find s.fabric.queues n with
  | none => answer s 0x04
  | some q =>
    match q.senderOf p.src p.srcDom with
    | none => answer s 0x08
    | some (i, _) =>
      let slot := leBytes 3 (p.src + p.srcDom % 64 * 2 ^ 16) ++ leBytes 1 bs.length ++ leBytes 4 i ++ leBytes 8 q.tail.toNat ++
        padTo 240 bs
      let s := s.agentWrites fabricAgent q.domain (q.slotAt q.tail) slot
      let s := s.putQueue n { q with tail := q.tail + 1, slots := q.slots ++ [(p.src, p.srcDom)] }
      answer (s.raise q.domain (0x200 + q.isrc)) 0

/-- The end of a send (R677). Credits for a queue that refuses it are discarded, so that a SEND which holds for them asks anew
(R693). DESIGN CHOICE (log 49). -/
def State.sendEnd (s : State) (thread tag code : Nat) : State :=
  match s.opOf thread tag fabSend with
  | some o =>
    let s := s.dropOp tag
    let s := match s.credit o.dom (epNumber o.object) o.node with
      | some c => if code = 0x04 ∨ code = 0x08 then s.dropCredit c else s
      | none => s
    if s.inDomain thread o.dom then s.setSend thread (if code = 0 then 2 else 3) code else s
  | none => s

/-- A credit request at its queue: the quota of the matching sender entry, or the code of its refusal (R678, R693). -/
def State.creditAsked (s : State) (p : Packet) (n : Nat) : State :=
  let answer (count code : Nat) : State := s.sendPacket p.src 1 p.srcDom (.creditReturn p.srcDom n count code)
  match FMap.find s.fabric.queues n with
  | none => answer 0 0x04
  | some q => match q.senderOf p.src p.srcDom with
    | none => answer 0 0x08
    | some (_, e) => answer e.quota 0

/-- Credits returned to this node, or the code of a refusal, which a SEND that asked takes; one that held for credit asks anew
(R693). -/
def State.creditBack (s : State) (p : Packet) (d n count code : Nat) : State :=
  let set (c : Credit) : State :=
    s.onFabric (fun f => { f with credits := f.credits.map (fun x =>
      if x.domain == d && x.queue == n && x.node == p.src then c else x) })
  match s.credit d n p.src with
  | none => s
  | some c =>
    if code ≠ 0 then if c.asked then set { c with deny := code, asked := false } else s.dropCredit c
    else if c.asked then set { c with have_ := count, quota := count, asked := false }
    else set { c with have_ := min c.quota (c.have_ + count) }

/-- A write to QHEAD (R679): taken when it does not pass QTAIL; each slot passed returns a credit to its source. -/
def State.qheadStore (s : State) (n v : Nat) : State :=
  match FMap.find s.fabric.queues n with
  | none => s
  | some q =>
    let w : BitVec 32 := BitVec.ofNat 32 v
    if (q.tail - w).toNat ≤ (q.tail - q.head).toNat then
      let k := (w - q.head).toNat
      let s := s.putQueue n { q with head := w, slots := q.slots.drop k }
      (q.slots.take k).foldl (fun s x => s.sendPacket x.1 1 x.2 (.creditReturn x.2 n 1 0)) s
    else s

/-! ### Collectives (R680 to R683) -/

/-- The members of a collective's group. -/
def State.membersOf (s : State) (n : Nat) : List Nat := match FMap.find s.fabric.groups n with | some g => g.members | none => []

/-- The children of member `i` of a group of `n`. -/
def childrenOf (i n : Nat) : List Nat := (upFrom (4 * i + 1) 4).filter (fun c => decide (c < n))

/-- Bytes of an element, elements of a chunk, and chunks of a collective. -/
def Coll.size (c : Coll) : Nat := if c.type = 1 then 2 else 4
def Coll.per (c : Coll) : Nat := 4096 / c.size
def Coll.chunks (c : Coll) : Nat := if c.op = 3 then 1 else max 1 ((c.cnt + c.per - 1) / c.per)

/-- The elements of chunk `k`. -/
def Coll.len (c : Coll) (k : Nat) : Nat := if c.op = 3 then 0 else min c.per (c.cnt - k * c.per)

/-- Replaces the collective of a thread. -/
def State.setColl (s : State) (c : Coll) : State :=
  s.onFabric (fun f => { f with colls := f.colls.map (fun x => if x.thread = c.thread then c else x) })

/-- The collective of this member on a group. -/
def State.collOf (s : State) (group : Nat) : Option Coll := s.fabric.colls.find? (fun c => c.group == group)

/-- A message of a collective from this member. -/
def Coll.msg (c : Coll) (down : Bool) (chunk : Nat) (elems : List (BitVec 32)) (code : Nat) : CollMsg :=
  { group := c.group, child := c.me, down := down, seq := c.seq, op := c.op, type := c.type, cnt := c.cnt, root := c.root,
    chunk := chunk, elems := elems, flags := c.flags, code := code }

/-- Sends a collective message to member `i`.
DESIGN CHOICE (log 49). -/
def State.collSend (s : State) (c : Coll) (i : Nat) (m : CollMsg) : State :=
  s.sendPacket ((s.membersOf c.group).getD i 0) 2 c.dom (.collective m)

/-- Ends a collective in error (R683): COLSTAT, SCNTm.ERR, FERR and source 0x2F0. FERR names the member that the failure came
from, or this node. DESIGN CHOICE (log 49). -/
def State.collFail (s : State) (c : Coll) (code node : Nat) : State :=
  let s := s.onFabric (fun f => { f with colls := f.colls.filter (fun x => x.thread != c.thread) })
  ((s.onFab c.thread (fun x => { x with colState := 3, colCode := code })).countFail c.dom c.thread c.count c.cen).fabricFail
    c.dom c.thread code node

/-- Tells the member's tree neighbours that the collective failed. -/
def State.collTell (s : State) (c : Coll) (code : Nat) : State :=
  let n := (s.membersOf c.group).length
  let s := if c.me = 0 then s else s.collSend c ((c.me - 1) / 4) (c.msg false 0 [] code)
  (childrenOf c.me n).foldl (fun s i => s.collSend c i (c.msg true 0 [] code)) s

/-- The code of Table 16-7 of a failed access. -/
def AccErr.fabric (e : AccErr) : Nat :=
  match e.why.stream with | 0x01 => 0x01 | 0x02 => 0x02 | 0x03 => 0x03 | _ => 0x02

/-- Reads the member's own elements of a chunk from SRC, as the Stream engine reads (R424, R462): none while a read finds no entry
toward memory. The bytes of Loam are those of the revision of the window. DESIGN CHOICE (log 49). -/
def State.collRead (s : State) (c : Coll) (k : Nat) : Except Nat (Option (List (BitVec 32) × State)) :=
  let n := c.len k * c.size
  let at_ := c.src.toNat + k * 4096
  let elems (bs : List Byte) : List (BitVec 32) := (elemsOf (8 * c.size) bs).map (BitVec.ofNat 32)
  if n = 0 then .ok (some ([], s))
  else if c.tsb then .ok (some (elems (Mem.block (s.core (c.thread / 2)).tsb at_ n), s))
  else match s.check c.thread c.ring Need.blockLd at_ n with
    | .error e => .error e.fabric
    | .ok rs => .ok ((s.agentReads c.dom (dramLines rs)).map (fun s' =>
        (elems (s.refBytes c.thread rs), s'.useRefs c.thread false rs)))

/-- Joins a byte to the pieces of a write, each of consecutive bytes of one line. -/
def addPiece (l : List (Nat × List Byte)) (p : Nat × Byte) : List (Nat × List Byte) :=
  match l with
  | (a, bs) :: rest => if a + bs.length = p.1 ∧ p.1 % 64 ≠ 0 then (a, bs ++ [p.2]) :: rest else (p.1, [p.2]) :: l
  | [] => [(p.1, [p.2])]

/-- A coherent store of the fabric agent through passed references (R462, R681), piece by piece in the order of their bytes. -/
def State.agentStore (s : State) (d : Nat) (rs : List ByteRef) (bs : List Byte) : State :=
  (((rs.map (·.pa)).zip bs).foldl addPiece []).reverse.foldl (fun s p => s.agentWrites fabricAgent d p.1 p.2) s

/-- Writes the result of a chunk to DST. -/
def State.collWrite (s : State) (c : Coll) (k : Nat) (l : List (BitVec 32)) : Except Nat State :=
  let bs := l.flatMap (fun v => leBytes c.size v.toNat)
  let at_ := c.dst.toNat + k * 4096
  if bs.isEmpty then .ok s
  else if c.tsb then .ok (s.onCore (c.thread / 2) (fun x => x.tsbWrite at_ bs))
  else match s.check c.thread c.ring Need.blockSt at_ bs.length with
    | .error e => .error e.fabric
    | .ok rs => .ok ((s.agentStore c.dom rs bs).useRefs c.thread true rs)

/-- Can the member write chunk `k` to DST within the step? A chunk that would fail can. -/
def State.collMayWrite (s : State) (c : Coll) (k : Nat) : Bool :=
  let n := c.len k * c.size
  if n = 0 ∨ c.tsb then true
  else match s.check c.thread c.ring Need.blockSt (c.dst.toNat + k * 4096) n with
    | .error _ => true
    | .ok rs => (dramLines rs).all (fun l => s.agentMayWrite (64 * l) 64)

/-- op(a, b) on one element (R682): the value, and NV, INF and OVF.
DESIGN CHOICE (log 49). -/
def Coll.apply (c : Coll) (a b : BitVec 32) : BitVec 32 × BitVec 3 :=
  let f (fmt : BinFmt) (o : FOut) : BitVec 32 × BitVec 3 :=
    let n := fmt.unpack o.val
    (BitVec.ofNat 32 o.val, BitVec.ofNat 3 (natOf n.isNan + 2 * natOf n.isInf + 4 * natOf o.ovf))
  match c.type with
  | 0 =>
    if c.op = 0 then f binary32 (tileAdd binary32 0 (exactOut a.toNat) (exactOut b.toNat))
    else f binary32 (exactOut (binary32.minMax true a.toNat b.toNat).val)
  | 1 =>
    if c.op = 0 then f bilberry (tileAdd bilberry 0 (exactOut a.toNat) (exactOut b.toNat))
    else f bilberry (exactOut (bilberry.minMax true a.toNat b.toNat).val)
  | _ =>
    if c.op = 0 then
      let (v, exceeds) := dotInt c.isat [a.toInt, b.toInt] [1, 1] 0
      (BitVec.ofNat 32 v, BitVec.ofNat 3 (4 * natOf exceeds))
    else (if a.toInt < b.toInt then b else a, 0)

/-- A member's result of a chunk and one child's: summed or compared for OP 0 and 1; for a broadcast, the data of ROOT
from whichever side has them. -/
def Coll.merge (c : Coll) (a : List (BitVec 32) × BitVec 3) (b : List (BitVec 32)) : List (BitVec 32) × BitVec 3 :=
  if c.op = 2 then (if a.1.isEmpty then b else a.1, a.2)
  else
    let l := List.zipWith c.apply a.1 b
    (l.map (·.1), l.foldl (fun x p => x ||| p.2) a.2)

/-- A chunk of the result, at this member: to its children, and to DST; after the last one COLSTAT is done. -/
def State.collDown (s : State) (c : Coll) (k : Nat) (l : List (BitVec 32)) : State :=
  let n := (s.membersOf c.group).length
  let s := (childrenOf c.me n).foldl (fun s i => s.collSend c i (c.msg true k l 0)) s
  match s.collWrite c k l with
  | .error code => s.collFail c code s.fabric.node
  | .ok s =>
    let c := { c with wrote := c.wrote + 1 }
    if c.wrote < c.chunks then s.setColl c
    else
      let s := s.onFabric (fun f => { f with colls := f.colls.filter (fun x => x.thread != c.thread) })
      (s.onFab c.thread (fun x => { x with colState := 2, colCode := 0, colFlags := c.flags })).countDone c.dom c.thread c.count c.cen

/-- Combines the chunks whose children have all been heard, in order, and sends each up, or from the root down; one whose reads or
writes cannot be had waits for them.
DESIGN CHOICE (log 49). -/
def State.collRun (s : State) (thread fuel : Nat) : State :=
  match fuel with
  | 0 => s
  | j + 1 =>
    match s.fabric.colls.find? (fun c => c.thread == thread) with
    | none => s
    | some c =>
      let kids := childrenOf c.me (s.membersOf c.group).length
      let heard := FMap.get c.heard c.next []
      if c.chunks ≤ c.next ∨ !kids.all (fun i => FMap.has heard i) ∨ (c.me = 0 ∧ !s.collMayWrite c c.next) then s
      else match s.collRead c c.next with
        | .error code => s.collFail c code s.fabric.node
        | .ok none => s
        | .ok (some (v, s)) =>
          let own := if c.op = 2 ∧ c.root ≠ c.me then [] else v
          let (l, fl) := kids.foldl (fun a i => c.merge a (FMap.get heard i [])) (own, c.flags)
          let c' := { c with next := c.next + 1, flags := fl, heard := FMap.erase c.heard c.next }
          let s := s.setColl c'
          let s := if c.me = 0 then s.collDown c' c.next l else s.collSend c' ((c.me - 1) / 4) (c'.msg false c.next l 0)
          s.collRun thread j

/-- A collective message at this member: kept until the member starts; a mismatch fails it everywhere (R683); a child's
chunk is combined, the parent's written. -/
def State.collArrive (s : State) (m : CollMsg) : State :=
  match s.collOf m.group with
  | none => s.onFabric (fun f => { f with early := f.early ++ [m] })
  | some c =>
    let from_ := (s.membersOf m.group).getD m.child 0
    if m.seq < c.seq then s
    else if c.seq < m.seq then s.onFabric (fun f => { f with early := f.early ++ [m] })
    else if m.code ≠ 0 then (s.collTell c m.code).collFail c m.code from_
    else if m.op ≠ c.op ∨ m.type ≠ c.type ∨ m.cnt ≠ c.cnt ∨ m.root ≠ c.root then (s.collTell c 0x06).collFail c 0x06 from_
    else
      let c := { c with flags := c.flags ||| m.flags }
      if m.down then s.collDown c m.chunk m.elems
      else
        let h := FMap.put (FMap.get c.heard m.chunk []) m.child m.elems
        (s.setColl { c with heard := FMap.put c.heard m.chunk h }).collRun c.thread (c.chunks + 1)

/-- A store to COLCTL with GO = 1 of an operation (R681). -/
def State.colStore (s : State) (g v : Nat) : StoreEnd :=
  let x := s.fab g
  let fail (code : Nat) : StoreEnd := .done (s.onFab g (fun x => { x with colState := 3, colCode := code }))
  if x.colState = 1 then .hold .busySend s
  else if 4194304 < x.colCnt then fail 0x09
  else match s.fabWindow g (bitsOf v 3 1) 3 3 with
    | none => fail 0x01
    | some w =>
      let n := epNumber w.object
      let members := s.membersOf n
      let me := (List.range members.length).find? (fun i => members.getD i 0 == s.fabric.node)
      let (lo, hi) := (s.thread g).tsbWindow
      let c : Coll :=
        { thread := g, dom := s.packetDom g, group := n, me := me.getD 0, op := bitsOf v 5 4,
          type := (if bitsOf v 7 6 = 3 then 0 else bitsOf v 7 6), isat := bitOf v 8, tsb := bitOf v 9,
          root := bitsOf v 22 10, cnt := x.colCnt, cen := bitOf v 27, count := bitsOf v 26 23, src := x.colSrc, dst := x.colDst,
          ring := (s.thread g).ring, seq := 0, next := 0, heard := [], wrote := 0, flags := 0, since := s.timeBase,
          marked := false }
      let bytes := c.cnt * c.size
      let out (a : Word) : Bool := decide (a.toNat < lo) || decide (hi < a.toNat + bytes)
      if s.fabric.state ≠ 2 then fail 0x05
      else if !s.getFree g then .hold .bound (s.awaitGet g)
      else match FMap.find s.fabric.groups n, me with
        | some gr, some _ =>
          if gr.domains.getD c.me 64 ≠ s.packetDom g then fail 0x04
          else if c.op ≠ 3 ∧ c.tsb ∧ (out c.src ∨ out c.dst) then fail 0x07
          else if (s.collOf n).isSome then .hold .busySend s
          else
            let c := { c with seq := gr.seq }
            let early := s.fabric.early.filter (fun m => m.group == n)
            let s := (s.endGetWait g).onFabric (fun f =>
              { f with groups := FMap.put f.groups n { gr with seq := gr.seq + 1 }, colls := f.colls ++ [c],
                       early := f.early.filter (fun m => m.group != n) })
            let s := s.onFab g (fun x => { x with colState := 1, colCode := 0, colFlags := 0 })
            .done (early.foldl State.collArrive (s.collRun g (c.chunks + 1)))
        | _, _ => fail 0x04

/-! ### Delivery (R661, R667) -/

/-- What a packet does at its destination. -/
def State.perform (s : State) (p : Packet) : State :=
  match p.body with
  | .tputRow th tag ep off bs last rcen => s.putArrive p th tag ep off bs last rcen
  | .tgetReq th tag ep off stride rows len => s.getRows p th tag ep off stride len 0 rows
  | .tgetRow th tag row bs last => s.getRow th tag row bs last
  | .tputAck th tag => s.putAck th tag
  | .refused th tag => s.refusedOp th tag
  | .send th tag q bs => s.deliverMsg p th tag q bs
  | .sendAck th tag code => s.sendEnd th tag code
  | .creditReq q => s.creditAsked p q
  | .creditReturn d q n code => s.creditBack p d q n code
  | .collective m => s.collArrive m
  | .synry _ => s
  | .control _ _ => s

/-- The key of a source and VC. -/
def pairOf (p : Packet) : Nat := p.src * 4 + p.vc

/-- Can a packet be performed within the step? One that writes or reads lines which are not free holds. -/
def State.packetReady (s : State) (p : Packet) : Bool :=
  match p.body with
  | .tputRow _ _ n off bs _ _ => (match s.endpointFor p n 0 off bs.length with
    | some e => e.core.isSome || s.agentMayWrite (e.base + off) bs.length
    | none => true)
  | .tgetReq _ _ n off stride rows len => (List.range rows).all (fun i =>
      let a := ((Int.ofNat off + Int.ofNat i * stride) % 2 ^ 64).toNat
      match s.endpointFor p n 1 a len with
      | some e => e.core.isSome || s.agentMayRead e.domain (e.base + a) len
      | none => true)
  | .send _ _ n _ => (match FMap.find s.fabric.queues n with
    | some q => s.agentMayWrite (q.slotAt q.tail) 256
    | none => true)
  | .collective m => (match s.collOf m.group with
    | some c => !m.down || m.seq != c.seq || s.collMayWrite c m.chunk
    | none => true)
  | _ => true

/-- Is it a packet's turn in its pair (R667)? -/
def State.turnOf (s : State) (p : Packet) : Bool := p.seq == FMap.get s.fabric.seqIn (pairOf p) 0

/-- A packet ahead of its turn takes a place in the reorder buffer of its VC when there is one, else it holds in its input buffer;
so does one in turn that cannot be performed yet. -/
def State.keepPacket (s : State) (p : Packet) : State :=
  if !s.turnOf p && decide ((s.fabric.parked.filter (fun x => x.vc == p.vc)).length < 32) then
    s.onFabric (fun f => { f with parked := f.parked ++ [p] })
  else s.onFabric (fun f => { f with inbuf := f.inbuf ++ [p] })

/-- Places freed in the reorder buffer go to the packets that hold, in the order they came. -/
def State.refill (s : State) : State := s.fabric.inbuf.foldl State.keepPacket (s.onFabric (fun f => { f with inbuf := [] }))

/-- A packet in turn is performed, and the next of its pair may follow. -/
def State.takePacket (s : State) (p : Packet) : State :=
  (s.onFabric (fun f => { f with
    parked := dropFirst (· == p) f.parked, inbuf := dropFirst (· == p) f.inbuf,
      seqIn := FMap.put f.seqIn (pairOf p) (p.seq + 1) })).perform p

/-- The packets that wait for a pair whose turn has come, performed in order. -/
def State.unpark (s : State) (k fuel : Nat) : State :=
  match fuel with
  | 0 => s
  | j + 1 =>
    match (s.fabric.parked ++ s.fabric.inbuf).find? (fun p => pairOf p == k && s.turnOf p) with
    | none => s
    | some p => if s.packetReady p then (s.takePacket p).refill.unpark k j else s

/-- As many packets as wait at this node, and one more. -/
def State.waitFuel (s : State) : Nat := s.fabric.parked.length + s.fabric.inbuf.length + 1

/-- A packet at this node: sent on, or delivered in pair order; ahead of its turn it parks in the reorder buffer, or holds in its
input buffer when that is full or its lines cannot be had; a duplicate is discarded. -/
def State.packetArrives (s : State) (p : Packet) : State :=
  if s.fabric.state ≠ 2 then s
  else if p.dst ≠ s.fabric.node then s.forward p
  else if s.turnOf p && s.packetReady p then (s.takePacket p).refill.unpark (pairOf p) s.waitFuel
  else if 0x8000 ≤ (p.seq - FMap.get s.fabric.seqIn (pairOf p) 0).toNat || (s.fabric.parked ++ s.fabric.inbuf).contains p then s
  else s.keepPacket p

/-- What the fabric agent goes on with as time passes: packets that wait for lines, and collectives that do. -/
def State.fabricTick (s : State) : State :=
  let s := (((s.fabric.parked ++ s.fabric.inbuf).map pairOf).eraseDups).foldl (fun s k => s.unpark k s.waitFuel) s
  (s.fabric.colls.map (fun c => (c.thread, c.chunks + 1))).foldl (fun s c => s.collRun c.1 c.2) s

/-- A row that names what its packet carries. -/
def State.arriveAs (s : State) (p : Packet) (is : PacketBody → Bool) : State := if is p.body then s.packetArrives p else s

/-- The kind of the control packet by which a Tussock's master tells that it has assembled. -/
def Ctl.assembly : Nat := 14

/-- The time base and the packages present, with their DRAM in GiB, that the master of a Tussock tells a member it has assembled.
-/
def tussockNews (p : Packet) : Option (Nat × List (Nat × Nat)) :=
  match p.body with
  | .control kind (now :: l) =>
    if kind = Ctl.assembly then some (now, (List.range (l.length / 2)).map (fun i => (l.getD (2 * i) 0,
      l.getD (2 * i + 1) 0))) else none
  | _ => none

/-- PACKET_ARRIVAL. A VC3 frame is a row of its own; the master's word that it has assembled comes to a member before discovery
(R650, R651).
DESIGN CHOICE (log 51). -/
def execPacketArrival (p : Packet) (s : State) : Host.Outcome State Fault Refusal :=
  .next (match tussockNews p with
    | some n => if s.fabric.state = 2 || s.pins.tussockId == 0 then s.packetArrives p else s.onFabric (fun f => { f with news := some n })
    | none => s.packetArrives p)

/-- TPUT_ROW_ARRIVAL (R673). -/
def execTputRowArrival (p : Packet) (s : State) : Host.Outcome State Fault Refusal :=
  .next (s.arriveAs p (fun b => match b with | .tputRow _ _ _ _ _ _ _ => true | _ => false))

/-- TPUT_ACK (R673). -/
def execTputAck (p : Packet) (s : State) : Host.Outcome State Fault Refusal :=
  .next (s.arriveAs p (fun b => match b with | .tputAck _ _ => true | _ => false))

/-- TGET_REQUEST_ARRIVAL (R673). -/
def execTgetRequestArrival (p : Packet) (s : State) : Host.Outcome State Fault Refusal :=
  .next (s.arriveAs p (fun b => match b with | .tgetReq _ _ _ _ _ _ _ => true | _ => false))

/-- TGET_ROW_RETURN (R672). -/
def execTgetRowReturn (p : Packet) (s : State) : Host.Outcome State Fault Refusal :=
  .next (s.arriveAs p (fun b => match b with | .tgetRow _ _ _ _ _ => true | _ => false))

/-- FABRIC_REFUSED (R674). -/
def execFabricRefused (p : Packet) (s : State) : Host.Outcome State Fault Refusal :=
  .next (s.arriveAs p (fun b => match b with | .refused _ _ => true | _ => false))

/-- MESSAGE_DELIVERY (R676). -/
def execMessageDelivery (p : Packet) (s : State) : Host.Outcome State Fault Refusal :=
  .next (s.arriveAs p (fun b => match b with | .send _ _ _ _ => true | _ => false))

/-- SEND_ACK (R677). -/
def execSendAck (p : Packet) (s : State) : Host.Outcome State Fault Refusal :=
  .next (s.arriveAs p (fun b => match b with | .sendAck _ _ _ => true | _ => false))

/-- CREDIT_REQUEST (R678). -/
def execCreditRequest (p : Packet) (s : State) : Host.Outcome State Fault Refusal :=
  .next (s.arriveAs p (fun b => match b with | .creditReq _ => true | _ => false))

/-- CREDIT_RETURN (R678). -/
def execCreditReturn (p : Packet) (s : State) : Host.Outcome State Fault Refusal :=
  .next (s.arriveAs p (fun b => match b with | .creditReturn _ _ _ _ => true | _ => false))

/-- COLLECTIVE_CHUNK (R682). -/
def execCollectiveChunk (p : Packet) (s : State) : Host.Outcome State Fault Refusal :=
  .next (s.arriveAs p (fun b => match b with | .collective _ => true | _ => false))

/-! ### The threads' start registers -/

/-- A start store of a thread's area that a row names, at an offset of the area. -/
def State.areaStore (s : State) (w : CsStore) (off : Nat) (ok : Nat → Bool) (f : Nat → Nat → StoreEnd) : State :=
  match csLocate w.offset with
  | .fabric _ o =>
    let v := w.value.toNat
    if s.csReaches w (fun _ => decide (0x30000 ≤ o) && o % 0x100 == off && bitOf v 0 && ok v) then
      (f ((o - 0x30000) / 0x100) v).state w.thread w.offset v
    else s
  | _ => s

/-- SNDCTL_GO (R677). -/
def execSndctlGo (w : CsStore) (s : State) : Host.Outcome State Fault Refusal :=
  .next (s.areaStore w 0x00 (fun _ => true) s.sndStore)

/-- COLLECTIVE_SUM: COLCTL with OP 0 (R682). -/
def execCollectiveSum (w : CsStore) (s : State) : Host.Outcome State Fault Refusal :=
  .next (s.areaStore w 0x28 (fun v => bitsOf v 5 4 == 0) s.colStore)

/-- COLLECTIVE_MAX: OP 1. -/
def execCollectiveMax (w : CsStore) (s : State) : Host.Outcome State Fault Refusal :=
  .next (s.areaStore w 0x28 (fun v => bitsOf v 5 4 == 1) s.colStore)

/-- COLLECTIVE_BROADCAST: OP 2. -/
def execCollectiveBroadcast (w : CsStore) (s : State) : Host.Outcome State Fault Refusal :=
  .next (s.areaStore w 0x28 (fun v => bitsOf v 5 4 == 2) s.colStore)

/-- COLLECTIVE_BARRIER: OP 3. -/
def execCollectiveBarrier (w : CsStore) (s : State) : Host.Outcome State Fault Refusal :=
  .next (s.areaStore w 0x28 (fun v => bitsOf v 5 4 == 3) s.colStore)

/-- QHEAD_WRITE (R679). -/
def execQheadWrite (w : CsStore) (s : State) : Host.Outcome State Fault Refusal :=
  .next (match csLocate w.offset with
    | .fabric _ o =>
      if s.csReaches w (fun _ => decide (0x10000 ≤ o) && decide (o < 0x30000) && o % 32 == 0) then
        s.qheadStore ((o - 0x10000) / 32) w.value.toNat
      else s
    | _ => s)

/-! ### The fabric timeout (R685) -/

/-- Has a request sent at a time gone unanswered for the fabric timeout?
DESIGN CHOICE (log 6). -/
def State.expired (s : State) (since : Nat) : Bool := decide (since + s.fabricTimeout * 100000 ≤ s.timeBase)

/-- Ends an operation with code 0x05, or subcode 0x0A for a TGET. -/
def State.opTimeout (s : State) (o : FabOp) : State :=
  if o.kind = fabGet then s.getFail o 0x0A
  else if o.kind = fabPut then s.putFail o 0x05
  else s.sendEnd o.thread o.tag 0x05

/-- FABRIC_TIMEOUT: every request of the thread that has expired ends, the credit request it made for a SEND with it (R683, R685).
-/
def execFabricTimeout (thread : Nat) (s : State) : Host.Outcome State Fault Refusal :=
  let ops := s.fabric.ops.filter (fun o => o.thread == thread && s.expired o.since)
  let colls := s.fabric.colls.filter (fun c => c.thread == thread && s.expired c.since)
  let d := s.packetDom thread
  let s := s.onFabric (fun f => { f with credits := f.credits.map (fun c =>
    if c.asked && c.domain == d && s.expired c.since then { c with asked := false, deny := 0x05 } else c) })
  .next (colls.foldl (fun s c => s.collFail c 0x05 s.fabric.node) (ops.foldl State.opTimeout s))

end Sys2Proof.Machine
end

