-- ==== Sys2Proof/Machine/FabricNet.lean ====
section
/-!
DEFINITION. Link ports, discovery and its coordinator (R645, R646, R653 to R659), and changing routes by epoch (R660 to
R666).
-/

namespace Sys2Proof.Machine

/-! ### Control traffic of VC3 -/

/-- Kinds of control message: HELLO, link-state request and answer, bank write, COMMIT, LOST, divide, flip, acknowledgement,
drain report, a ROUTESET for the coordinator, retire, FRESCAN, and a member's image. -/
def Ctl.hello : Nat := 0
def Ctl.ask : Nat := 1
def Ctl.links : Nat := 2
def Ctl.bank : Nat := 3
def Ctl.commit : Nat := 4
def Ctl.lost : Nat := 5
def Ctl.divide : Nat := 6
def Ctl.flip : Nat := 7
def Ctl.ack : Nat := 8
def Ctl.drain : Nat := 9
def Ctl.routeset : Nat := 10
def Ctl.retire : Nat := 11
def Ctl.rescan : Nat := 12
def Ctl.image : Nat := 13

/-- This node's serial number (R654). -/
def mySerial : Nat := Config.serial.toNat

/-- The ELIGIBLE flag, fixed node ID and NODES count of the FABRIC section. -/
def State.eligible (s : State) : Bool := leAt s.fabricSect 2 1 % 2 == 1
def State.fixedId (s : State) : Option Nat := let n := leAt s.fabricSect 3 2; if n = 0xFFFF then none else some n
def State.nodesCount (s : State) : Nat := leAt s.fabricSect 5 2

/-- May this node be coordinator: eligible, and not lost since its reset? -/
def State.mayLead (s : State) : Bool := s.eligible && !s.fabric.lost.contains mySerial

/-! ### Links (R645, R646) -/

/-- Does each half of a port's lanes have a failing one (R800)? -/
def noHalf (failing : BitVec 8) : Bool := failing.extractLsb' 0 4 != 0 && failing.extractLsb' 4 4 != 0

/-- LINK_UP: a port of a mode other than OFF trains, at ×4 on the half without a failing lane where one fails, and not at all
where both have one (R800). Packets that held for a live port go on. -/
def execLinkUp (port : Nat) (failing : BitVec 8) (peerSerial peerPort : Nat) (s : State) : Host.Outcome State Fault Refusal :=
  let x := s.fport port
  .next (if !(decide (port < 8) && x.mode != 0 && !x.up) || noHalf failing then s
    else
      let s := s.onFport port (fun x =>
        { x with up := true, x4 := failing != 0, fenced := false, fails := 0, serial := peerSerial, farPort := peerPort })
      let s := s.onFabric (fun f =>
        { f with firstUp := if x.mode = 1 then some (f.firstUp.getD s.timeBase) else f.firstUp })
      s.reroute)

/-! ### Election (R654 to R659) -/

/-- The lower of two candidates. -/
def minCand (a b : Option Nat) : Option Nat :=
  match a, b with
  | some x, some y => some (min x y)
  | some x, none => some x
  | none, b => b

/-- A serial as a candidate: none when it is marked lost. -/
def State.cand (s : State) (n : Option Nat) : Option Nat := n.bind (fun x => if s.fabric.lost.contains x then none else some x)

/-- Takes the lowest of the node's candidate, its own serial when it may lead, and those heard. -/
def State.hear (s : State) (l : List (Option Nat)) : State :=
  let own := if s.mayLead then some mySerial else none
  let c := (l.map s.cand).foldl minCand (minCand s.fabric.candidate own)
  if c = s.fabric.candidate then s else s.onFabric (fun f => { f with candidate := c, candSince := s.timeBase })

/-- Has discovery begun on this node? -/
def State.discovers (s : State) : Bool := s.fabricOn && s.fabric.state != 0

/-- HELLO_SEND: a HELLO on every Meadow link (R654 step 1). -/
def execHelloSend (s : State) : Host.Outcome State Fault Refusal :=
  .next (if !s.discovers then s
    else
      let s := s.hear []
      let f := s.fabric
      let opt (x : Option Nat) : List Nat := match x with | some n => [1, n] | none => [0, 0]
      s.flood Ctl.hello ([mySerial, natOf s.eligible] ++ opt s.fixedId ++ [f.round] ++ opt f.candidate ++ opt f.coordSer))

/-- HELLO: the candidate of the round, and the fence between two coordinators (R654 step 2, R659). -/
def execHello (h : HelloMsg) (s : State) : Host.Outcome State Fault Refusal :=
  let x := s.fport h.port
  .next (if !(s.discovers && x.up && x.mode == 1) then s
    else
      let s := s.onFport h.port (fun x => { x with serial := h.serial, peer := h.nodeId.getD x.peer })
      let s := if h.round = s.fabric.round then
          s.hear [if h.eligible then some h.serial else none, h.candidate] else s
      match s.fabric.disc, s.fabric.coordSer, h.coordinator with
      | true, some a, some b =>
        if a ≠ b ∧ !x.fenced then
          ((s.onFport h.port (fun x => { x with fenced := true })).log 0x0016 h.port
            (leBytes 8 1 ++ leBytes 8 h.serial)).raiseAll (s.domsWithRoot 5) 0x2F0
        else s
      | _, _, _ => s)

/-- COORDINATOR_ELECTED: a candidate that has held its own serial for 20 ms floods its request (R654 steps 2 and 3).
DESIGN CHOICE (log 50). -/
def execCoordinatorElected (s : State) : Host.Outcome State Fault Refusal :=
  let f := s.fabric
  .next (if s.discovers && s.mayLead && f.candidate == some mySerial && f.coordSer.isNone &&
      decide (f.candSince + 2000000 ≤ s.timeBase) then
      (s.onFabric (fun f => { f with coord := true, coordSer := some mySerial, answers := [], candSince := s.timeBase })).flood
        Ctl.ask [mySerial]
    else s)

/-- This node's link state. -/
def State.myLinks (s : State) : LinkState :=
  { serial := mySerial, fixedId := s.fixedId, committed := if s.fabric.disc then some s.fabric.node else none,
    links := ((List.range 8).filter (fun p => (s.fport p).up && (s.fport p).mode == 1)).map (fun p =>
      { port := p, farSerial := (s.fport p).serial, farPort := (s.fport p).farPort }) }

/-- A link state as its message carries it. -/
def linkData (l : LinkState) : List Nat :=
  [l.serial, l.fixedId.getD 0xFFFF, natOf l.committed.isSome, l.committed.getD 0] ++
    l.links.flatMap (fun x => [x.port, x.farSerial, x.farPort])

/-- LINK_STATE_REQUEST: the flood goes on, and the node answers (R654 step 3). -/
def execLinkStateRequest (coordinator : Nat) (s : State) : Host.Outcome State Fault Refusal :=
  .next (if s.discovers && !s.fabric.lost.contains coordinator && s.fabric.coordSer != some coordinator then
      ((s.onFabric (fun f => { f with coordSer := some coordinator })).flood Ctl.ask [coordinator]).flood Ctl.links
        (linkData s.myLinks)
    else s)

/-- Inserts a link state in ascending serial order. -/
def insertBySerial (l : LinkState) (ls : List LinkState) : List LinkState :=
  match ls with
  | [] => [l]
  | x :: r => if l.serial < x.serial then l :: x :: r else x :: insertBySerial l r

/-- The lowest number free among those taken, of `n` tried from `k` on. -/
def lowestFree (taken : List Nat) (k n : Nat) : Option Nat :=
  match n with
  | 0 => none
  | j + 1 => if taken.contains k then lowestFree taken (k + 1) j else some k

/-- The assignment of R654 step 4 over the nodes in ascending serial order: committed IDs and fixed IDs are kept, the other
nodes take the lowest free numbers; the serials whose fixed ID another node holds.
DESIGN CHOICE (log 50). -/
def assignIds (meadow : Nat) (ls : List LinkState) : FMap Nat × List Nat :=
  let kept := ls.filterMap (fun l => l.committed.map (fun c => (l.serial, c)))
  let (fixed, clash) := ls.foldl (fun (a : List (Nat × Nat) × List Nat) l =>
    match l.committed, l.fixedId with
    | none, some i => if a.1.any (fun p => p.2 == i) then (a.1, a.2 ++ [l.serial]) else (a.1 ++ [(l.serial, i)], a.2)
    | _, _ => a) (kept, [])
  let all := ls.foldl (fun (a : List (Nat × Nat)) l =>
    if l.committed.isSome || l.fixedId.isSome then a
    else match lowestFree (a.map (·.2)) (meadow * 8192) 8192 with
      | some i => a ++ [(l.serial, i)]
      | none => a) fixed
  (all.foldl (fun m p => FMap.put m p.1 p.2) [], clash)

/-! ### The coordinator's routes (R662) -/

/-- The link states the coordinator goes by: the answers and its own, in ascending serial order. -/
def State.known (s : State) : List LinkState := s.fabric.answers.foldl (fun ls l => insertBySerial l ls) [s.myLinks]

/-- Lowers the distance of each node to one more than that of the nearest far end among its links that `ok` accepts. -/
def relax (ls : List LinkState) (ok : Nat → Nat → Bool) (m : FMap Nat) : FMap Nat :=
  ls.foldl (fun m l =>
    match (l.links.filterMap (fun x => if ok l.serial x.farSerial then FMap.find m x.farSerial else none)).min?,
      FMap.find m l.serial with
    | some k, none => FMap.put m l.serial (k + 1)
    | some k, some j => if k + 1 < j then FMap.put m l.serial (k + 1) else m
    | none, _ => m) m

/-- Distances from the nodes of `m`, over links that `ok` accepts: relaxed `n` times. -/
def distances (ls : List LinkState) (ok : Nat → Nat → Bool) (m : FMap Nat) (n : Nat) : FMap Nat :=
  match n with
  | 0 => m
  | k + 1 => distances ls ok (relax ls ok m) k

/-- Is the link from one serial to another an up link, by their levels (R662)? -/
def upLink (lv : FMap Nat) (a b : Nat) : Bool :=
  let x := FMap.get lv a 0
  let y := FMap.get lv b 0
  decide (y < x) || (x == y && decide (b < a))

/-- The two best of the ports of a list of (distance, port): the nearest, then the lowest port. -/
def bestPorts (l : List (Nat × Nat)) : Option Nat × Option Nat :=
  let lt (a b : Nat × Nat) : Bool := decide (a.1 < b.1) || (a.1 == b.1 && decide (a.2 < b.2))
  let first (l : List (Nat × Nat)) : Option (Nat × Nat) := l.foldl (fun o x => match o with
    | none => some x
    | some y => some (if lt x y then x else y)) none
  match first l with
  | none => (none, none)
  | some x => (some x.2, (first (l.filter (fun y => y.2 != x.2))).map (·.2))

/-- The entry of one node for another (Table 16-3): down all the way where it can go so, else up, so that no route goes up after a
link down (R662). PRI is the shortest such route, ALT the next. DESIGN CHOICE (log 50). -/
def routeEntry (ls : List LinkState) (lv : FMap Nat) (l : LinkState) (dst : Nat) : BitVec 32 :=
  if l.serial = dst then 0x100
  else
    let down := distances ls (fun a b => !upLink lv a b) [(dst, 0)] ls.length
    let all := distances ls (upLink lv) down ls.length
    let byDown := (FMap.find down l.serial).isSome
    let ways := l.links.filterMap (fun x =>
      if upLink lv l.serial x.farSerial = byDown then none
      else (FMap.find (if byDown then down else all) x.farSerial).map (fun k => (k, x.port)))
    match bestPorts ways with
    | (none, _) => 0
    | (some p, none) => BitVec.ofNat 32 (p % 8 + 8)
    | (some p, some q) => BitVec.ofNat 32 (p % 8 + 8 + q % 8 * 16 + 128)

/-- The bank writes of the coordinator for every node with an ID: its serial, then node number and entry for each node (R654 step
5, R662). -/
def bankOrders (root : Nat) (ls : List LinkState) (ids : FMap Nat) : List (List Nat) :=
  let lv := distances ls (fun _ _ => true) [(root, 0)] ls.length
  (ls.filter (fun l => FMap.has ids l.serial)).map (fun l =>
    l.serial :: ids.flatMap (fun d => [d.2 % 8192, (routeEntry ls lv l d.1).toNat]))

/-- Sends every node its bank. -/
def State.sendBanks (s : State) (ids : FMap Nat) : State :=
  (bankOrders mySerial s.known ids).foldl (fun s w => s.flood Ctl.bank w) s

/-- NODE_ID_ASSIGNMENT: with every answer, or after 2 s, the coordinator assigns IDs, logs each clash, sends the banks and then
COMMIT (R654 steps 3 to 5, R657, R687). -/
def execNodeIdAssignment (s : State) : Host.Outcome State Fault Refusal :=
  let f := s.fabric
  .next (if f.coord && f.assigned.isEmpty && (decide (s.nodesCount ≤ f.answers.length + 1) ||
      decide (f.candSince + 200000000 ≤ s.timeBase)) then
      let (ids, clash) := assignIds s.meadow s.known
      let s := (s.onFabric (fun f => { f with assigned := ids })).sendBanks ids
      let s := clash.foldl (fun s n => s.log 0x0016 0xFF (leBytes 8 2 ++ leBytes 8 n)) s
      ids.foldl (fun s p => s.flood Ctl.commit [p.1, p.2]) s
    else s)

/-- Ends start-up step 9. -/
def State.endStep9 (s : State) : State := if s.smc.step = 9 then { s with smc := { s.smc with step := 10 } } else s

/-- DISCOVERY_COMMIT: NODEID, DISC and inject epoch 0 (R654 step 5). -/
def execDiscoveryCommit (nodeId : Nat) (s : State) : Host.Outcome State Fault Refusal :=
  .next (if s.discovers && !s.fabric.disc then
      (s.onFabric (fun f => { f with node := nodeId % 65536, disc := true, epoch := false, state := 2 })).endStep9.reroute
    else s)

/-- The gateway entries of the Heath table of the FABRIC section (R662). -/
def State.heath (s : State) : FMap (BitVec 32) :=
  (List.range 8).map (fun m => (m, BitVec.ofNat 32 (leAt s.fabricSect (49 + 4 * m) 4)))

/-- What of a round no COMMIT has bound is discarded (R656, R657). -/
def State.dropRound (s : State) : State :=
  let g := s.heath
  if s.fabric.disc then s else s.onFabric (fun f => { f with bank0 := [], bank1 := [], gw0 := g, gw1 := g })

/-- DISCOVERY_TIMEOUT: 5 s after the first link without COMMIT, NOCOORD (R655). -/
def execDiscoveryTimeout (s : State) : Host.Outcome State Fault Refusal :=
  .next (match s.fabric.firstUp with
    | some t =>
      if s.fabric.state = 1 ∧ !s.fabric.disc ∧ t + 500000000 ≤ s.timeBase then
        (s.onFabric (fun f => { f with state := 3 })).dropRound.endStep9
      else s
    | none => s)

/-- Marks a serial lost, adds 1 to the round and restarts election; LOST is flooded on (R657). -/
def State.markLost (s : State) (serial : Nat) : State :=
  if s.fabric.lost.contains serial then s
  else
    let r := s.fabric.round
    let s := (s.onFabric (fun f =>
      { f with lost := f.lost ++ [serial], round := r + 1, coord := false, coordSer := none, candidate := none,
               candSince := s.timeBase, answers := [], assigned := [] })).dropRound
    (s.hear []).flood Ctl.lost [serial, r]

/-- COORDINATOR_LOST: a neighbour of the coordinator has heard no HELLO from it for 10 ms (R657, R658). -/
def execCoordinatorLost (s : State) : Host.Outcome State Fault Refusal :=
  .next (match s.fabric.coordSer with
    | some c =>
      if s.discovers && c != mySerial && (List.range 8).any (fun p => (s.fport p).mode == 1 && (s.fport p).serial == c) then
        s.markLost c
      else s
    | none => s)

/-- LOST (R657). -/
def execLost (serial _round : Nat) (s : State) : Host.Outcome State Fault Refusal :=
  .next (if s.discovers then s.markLost serial else s)

/-- The start of discovery (R654). -/
def State.beginDiscovery (s : State) : State :=
  let g := s.heath
  (s.onFabric (fun f => { f with state := 1, candidate := none, candSince := s.timeBase, gw0 := g, gw1 := g })).hear []

/-- FRESCAN: every ID, route and epoch is discarded, and every operation in flight ends with code 0x05 (R659). The nodes it
reaches are told. DESIGN CHOICE (log 50). -/
def cmdFrescan (s : State) (_ : SynryReq) : CmdEnd :=
  if !s.fabricOn then .done St.ok [] s
  else
    let s := s.flood Ctl.rescan []
    let ops := s.fabric.ops
    let colls := s.fabric.colls
    let s := colls.foldl (fun s c => s.collFail c 0x05 s.fabric.node) (ops.foldl State.opTimeout s)
    let anyUp := (List.range 8).any (fun p => (s.fport p).up && (s.fport p).mode == 1)
    let s := s.onFabric (fun f =>
      { f with node := 0xFFFF, disc := false, coord := false, coordSer := none, epoch := false, phase := 0, answers := [],
               assigned := [], bank0 := [], bank1 := [], gw0 := [], gw1 := [], seqOut := [], seqIn := [], parked := [],
               inbuf := [], badPuts := [], held := [], early := [], credits := [], chStep := 0, chWait := [], chDone := [],
                 chNext := [],
               firstUp := if anyUp then some s.timeBase else none,
               ports := f.ports.map (fun p => (p.1, { p.2 with fenced := false })) })
    .done St.ok [] s.beginDiscovery

/-- FRESCAN, as a command. -/
def execFrescan (c : SynryReq) (s : State) : Host.Outcome State Fault Refusal := .next (s.command 0x501 cmdFrescan c)

/-! ### Changing routes by epoch (R665, R666, R688) -/

/-- Writes one entry into bank 1 or bank 0. -/
def Fabric.writeRoute (f : Fabric) (one : Bool) (w : RouteWrite) : Fabric :=
  if w.gateway then
    if one then { f with gw1 := FMap.put f.gw1 (w.index % 8) w.entry } else { f with gw0 := FMap.put f.gw0 (w.index % 8) w.entry }
  else if one then { f with bank1 := FMap.put f.bank1 (w.index % 8192) w.entry }
  else { f with bank0 := FMap.put f.bank0 (w.index % 8192) w.entry }

/-- The coordinator's message to a node, by its ID.
DESIGN CHOICE (log 50). -/
def State.order (s : State) (kind node : Nat) : State := s.flood kind [node]

/-- This node's acknowledgement. -/
def State.ackChange (s : State) (kind : Nat) : State := s.flood kind [s.fabric.node]

/-- ROUTE_BANK_WRITE: into bank 0 before COMMIT, into the inactive bank afterwards, acknowledged (R654, R656, R665 step 1).
DESIGN CHOICE (log 50). -/
def execRouteBankWrite (ws : List RouteWrite) (s : State) : Host.Outcome State Fault Refusal :=
  .next (if !s.discovers then s
    else if !s.fabric.disc then s.onFabric (fun f => ws.foldl (fun f w => f.writeRoute false w) f)
    else if 1 < s.fabric.phase then s
    else
      (s.onFabric (fun f => { ws.foldl (fun f w => f.writeRoute (!f.epoch) w) f with phase := 1 })).ackChange Ctl.ack)

/-- BUFFER_DIVIDE: each VC buffer in two epoch classes (R664, R665 step 2). -/
def execBufferDivide (s : State) : Host.Outcome State Fault Refusal :=
  .next (if s.fabric.phase = 1 then (s.onFabric (fun f => { f with phase := 2 })).ackChange Ctl.ack else s)

/-- EPOCH_FLIP: packets injected from now on carry the other epoch (R665 step 3). -/
def execEpochFlip (s : State) : Host.Outcome State Fault Refusal :=
  .next (if s.fabric.phase = 2 then
      ((s.onFabric (fun f => { f with phase := 3, epoch := !f.epoch })).ackChange Ctl.ack).reroute
    else s)

/-- EPOCH_DRAIN_REPORT: the node holds no packet of the old epoch (R665 step 4). -/
def execEpochDrainReport (s : State) : Host.Outcome State Fault Refusal :=
  let f := s.fabric
  .next (if f.phase = 3 ∧ (f.held ++ f.parked ++ f.inbuf).all (fun p => p.epoch == f.epoch) then
      (s.onFabric (fun f => { f with phase := 4 })).ackChange Ctl.drain
    else s)

/-- ROUTE_BANK_RETIRE: the classes merge, CHANGE := 0, and source 0x2F1 is raised (R665 step 5). -/
def execRouteBankRetire (s : State) : Host.Outcome State Fault Refusal :=
  .next (if s.fabric.phase = 4 then
      (s.onFabric (fun f => { f with phase := 0, retired := f.retired + 1 })).raiseAll (s.domsWithRoot 5) 0x2F1
    else s)

/-- The IDs the coordinator has assigned, ascending. -/
def State.nodeList (s : State) : List Nat :=
  (s.fabric.assigned.map (·.2)).foldl (fun l n => l.filter (· < n) ++ [n] ++ l.filter (n < ·)) []

/-- Begins a route change with its bank writes, those of a ROUTESET or, for none, routes computed anew: step 1 of R665 to every
node. -/
def State.startChange (s : State) (ws : List Byte) : State :=
  let l := s.nodeList
  let s := s.onFabric (fun f => { f with chStep := 1, chWait := l })
  if ws.isEmpty then s.sendBanks s.fabric.assigned else s.flood Ctl.bank (ws.map (·.toNat))

/-- A route change: begun by the coordinator when none is in progress, else kept until the one in progress ends; another
node passes it to the coordinator (R665, R688). -/
def State.routeChange (s : State) (ws : List Byte) : State :=
  if !s.fabric.coord then s.flood Ctl.routeset (ws.map (·.toNat))
  else if s.fabric.chStep = 0 then s.startChange ws
  else s.onFabric (fun f => { f with chNext := f.chNext ++ [ws] })

/-- LINK_STATE_ANSWER: the coordinator keeps it, and one that shows other links than before starts a change (R666); another node
passes it on. DESIGN CHOICE (log 50). -/
def execLinkStateAnswer (l : LinkState) (s : State) : Host.Outcome State Fault Refusal :=
  .next (if !s.discovers then s
    else if s.fabric.coord then
      let old := s.fabric.answers.find? (fun x => x.serial == l.serial)
      let s := s.onFabric (fun f => { f with answers := f.answers.filter (fun x => x.serial != l.serial) ++ [l] })
      if s.fabric.disc && !s.fabric.assigned.isEmpty && old.any (fun x => x.links != l.links) then s.routeChange [] else s
    else s.flood Ctl.links (linkData l))

/-- Is a packet one that routes carry? Control messages go from link to link. -/
def routedPacket (p : Packet) : Bool := match p.body with | .control _ _ => false | _ => true

/-- A port goes down (R646, R666): entries whose PRI used the link take ALT at once, the last `unacked` packets sent on it go back
to the router, and the coordinator starts a change, or is told. DESIGN CHOICE (log 50). -/
def State.linkFalls (s : State) (port unacked : Nat) : State :=
  let x := s.fport port
  let sent := (s.fabric.out.filter (fun o => o.1 == port && routedPacket o.2)).map (·.2)
  let s := s.onFport port (fun x => { x with up := false, x4 := false, fails := 0 })
  let s := (sent.drop (sent.length - unacked)).foldl (fun s p => s.forward { p with crossed := p.crossed && x.mode != 3 }) s
  if !(s.fabric.disc && x.mode == 1) then s
  else if s.fabric.coord then s.routeChange []
  else s.flood Ctl.links (linkData s.myLinks)

/-- LINK_DOWN. -/
def execLinkDown (x : LinkFall) (s : State) : Host.Outcome State Fault Refusal :=
  .next (if (s.fport x.port).up then s.linkFalls x.port x.unacked else s)

/-- FLIT_REPLAY: a flit that failed, the same that the last replay was of when `again`, is replayed; after 16 replays in a row
that failed its port goes down (R646). REPLAY wraps. DESIGN CHOICE (log 13). -/
def execFlitReplay (x : FlitFail) (s : State) : Host.Outcome State Fault Refusal :=
  let n := if x.again then (s.fport x.port).fails else 0
  .next (if !(s.fport x.port).up then s
    else if 16 ≤ n then s.linkFalls x.port x.unacked
    else s.onFport x.port (fun p => { p with replay := (p.replay + 1) % 2 ^ 32, fails := n + 1 }))

/-- The coordinator's next step once every answer of the one before has come. -/
def State.nextStep (s : State) : State :=
  let l := s.nodeList
  match s.fabric.chStep with
  | 1 => (s.onFabric (fun f => { f with chStep := 2, chWait := l })).flood Ctl.divide []
  | 2 =>
    match l with
    | n :: r => (s.onFabric (fun f => { f with chStep := 3, chWait := [n], chDone := r })).order Ctl.flip n
    | [] => s
  | 3 =>
    match s.fabric.chDone with
    | n :: r => (s.onFabric (fun f => { f with chWait := [n], chDone := r })).order Ctl.flip n
    | [] => s.onFabric (fun f => { f with chStep := 4, chWait := l })
  | 4 =>
    let s := (s.onFabric (fun f => { f with chStep := 0, chWait := [] })).flood Ctl.retire []
    match s.fabric.chNext with
    | ws :: r => (s.onFabric (fun f => { f with chNext := r })).startChange ws
    | [] => s
  | _ => s

/-- EPOCH_CHANGE_ACK: a node's answer to a bank write, division, flip or drain (R665). -/
def execEpochChangeAck (node : Nat) (s : State) : Host.Outcome State Fault Refusal :=
  .next (if s.fabric.coord && s.fabric.chWait.contains node then
      let s := s.onFabric (fun f => { f with chWait := f.chWait.filter (· != node) })
      if s.fabric.chWait.isEmpty then s.nextStep else s
    else s)

end Sys2Proof.Machine
end

