-- ==== Sys2Proof/Machine/LoamKeep.lean ====
section
/-!
DEFINITION. Loam keeping (chapter 13): volumes, update sessions and COMMIT, the freeing of revisions, programs and erases,
compaction, wear, read disturb, patrol, and the settling of the journal.
-/

namespace Sys2Proof.Machine

/-! ### Statuses of Table 13-5 -/

def St.noVol : Nat := 0x40
def St.busy : Nat := 0x41
def St.noSession : Nat := 0x42
def St.grant : Nat := 0x43
def St.unitRange : Nat := 0x44
def St.source : Nat := 0x45
def St.noSpace : Nat := 0x46
def St.readOnly : Nat := 0x47
def St.failed : Nat := 0x48
def St.overlap : Nat := 0x49
def St.grantRange : Nat := 0x4A

/-- Is some stack in a state? Every volume has units on every stack. -/
def State.stackIn (s : State) (st : Nat) : Bool := (List.range 8).any (fun n => (s.stack n).state == st)

/-- READONLY or FAILED, when a stack is so.
DESIGN CHOICE (log 42). -/
def State.stackStatus (s : State) : Option Nat :=
  if s.stackIn 2 then some St.failed else if s.stackIn 1 then some St.readOnly else none

/-! ### Root records (Table 13-4) -/

/-- A map entry naming a page, or V = 0 (Table 12-2). -/
def mapEntry (p : Option Nat) : Nat := match p with | some a => a + 2 ^ 26 | none => 0

/-- The payload of the root record of volume `v` with `r` as its committed revision. -/
def Volume.root (x : Volume) (v : Nat) (r : Option Revision) : List Byte :=
  leBytes 4 (v + natOf r.isSome * 2 ^ 10 + natOf x.deleting * 2 ^ 11) ++ leBytes 4 ((r.map (·.number)).getD 0) ++
    leBytes 8 x.vbase ++ leBytes 8 x.vlen ++
    (List.range 8).flatMap (fun n => leBytes 4 (mapEntry (r.bind (fun r => FMap.find r.tops n))))

/-- The current revision of a volume. -/
def Volume.now (x : Volume) : Option Revision := x.current.bind x.rev

/-- Writes the root record of a volume as it stands. -/
def State.writeRoot (s : State) (v : Nat) : State :=
  { s with seed := s.seed.write1 s.timeBase (Part.loamroot + 2 * v) ((s.volume v).root v (s.volume v).now) }

/-! ### Freeing (R530) -/

/-- The revisions that hold pages of volume `v`: its own, and those that a COMMIT and an internal commit under way make. -/
def State.holdersOf (s : State) (v : Nat) : List Revision :=
  (s.volume v).revs ++ (s.loam.sessions.filter (fun z => z.volume == v)).filterMap (·.made) ++
    (s.loam.compacts.filter (fun z => z.volume == v)).map (·.made)

/-- Is a COMMIT or an internal commit of a volume under way? What would change the volume meanwhile holds.
DESIGN CHOICE (log 42). -/
def State.volumeBusy (s : State) (v : Nat) : Bool :=
  s.loam.sessions.any (fun z => z.volume == v && z.commit) || s.loam.compacts.any (fun z => z.volume == v)

/-- Makes stale every page that `r` uses and no revision of `keep` does. -/
def State.stalePages (s : State) (r : Revision) (keep : List Revision) : State :=
  let s := r.units.foldl (fun s p =>
    if keep.any (fun k => FMap.find k.units p.1 == some p.2) then s else s.pageDead (p.1 % 8) p.2) s
  let s := r.leaves.foldl (fun s p =>
    if keep.any (fun k => FMap.find k.leaves p.1 == some p.2) then s else s.pageDead (p.1 / 4096) p.2) s
  r.tops.foldl (fun s p => if keep.any (fun k => FMap.find k.tops p.1 == some p.2) then s else s.pageDead p.1 p.2) s

/-- Frees a revision of a volume. -/
def State.freeRevision (s : State) (v n : Nat) : State :=
  match (s.volume v).rev n with
  | none => s
  | some r =>
    let s := s.onVolume v (fun x => { x with revs := x.revs.filter (fun y => y.number != n) })
    s.stalePages r (s.holdersOf v)

/-- Frees the extent and every page of a volume (R522). -/
def State.freeVolume (s : State) (v : Nat) : State :=
  let s := s.abandonWhere (fun z => z.volume == v)
  let s := (s.volume v).revs.foldl (fun s r => s.freeRevision v r.number) s
  (s.onVolume v (fun _ => Volume.reset)).writeRoot v

/-- Does no request for a revision wait or read at any stack? Its pages are not freed under one (R507, R530). -/
def State.revisionIdle (s : State) (v r : Nat) : Bool :=
  s.loam.stackMap.all (fun p => p.2.reads.all (fun e => !(e.volume == v && e.rev == r)) &&
    p.2.waiting.all (fun q => !(q.volume == v && q.revision == r)))

/-! ### Volumes (R522) -/

/-- Does an extent overlap that of a volume other than `v`? -/
def State.extentMeets (s : State) (v base len : Nat) : Bool :=
  s.loam.volumes.any (fun p => p.1 != v && rangesMeet base len p.2.vbase p.2.vlen)

/-- Is an extent one that the Loam range holds (R488)? -/
def extentOk (base len : Nat) : Bool :=
  base % 0x200000 == 0 && len % 0x200000 == 0 && decide (0 < len) && decide (len ≤ 2 ^ 41) && decide (base + len ≤ 2 ^ 42)

/-- LVCREATE: volume, VBASE, VLEN.
DESIGN CHOICE (log 42). -/
def cmdLvcreate (s : State) (c : SynryReq) : CmdEnd :=
  let v := leAt c.params 0 2
  let base := leAt c.params 2 8
  let len := leAt c.params 10 8
  if 1024 ≤ v ∨ !extentOk base len then .done St.badParam [] s
  else if (s.volume v).vlen ≠ 0 ∨ s.extentMeets v base len then .done St.overlap [] s
  else match s.stackStatus with
    | some st => .done st [] s
    | none => .done St.ok [] ((s.onVolume v (fun _ => { Volume.reset with vbase := base, vlen := len })).writeRoot v)

/-- New copies of the leaf pages `keys` of stack `n` of a revision, and of the stack's top page (R527, R539); the old ones
become stale unless another revision keeps them. None when the stack has no page for them. -/
def State.rewriteMap (s : State) (r : Revision) (n : Nat) (keys : List Nat) : Option (Revision × List Nat × State) :=
  let step (a : Option (Revision × List Nat × State)) (k : Nat) : Option (Revision × List Nat × State) :=
    match a with
    | none => none
    | some (r, l, s) =>
      if r.units.any (fun p => 4096 * (p.1 % 8) + p.1 / 32768 == k) then
        ((s.stack n).allocMap).map (fun t =>
          ({ r with leaves := FMap.put r.leaves k t.1 }, l ++ [t.1], s.onStack n (fun _ => t.2)))
      else some ({ r with leaves := FMap.erase r.leaves k }, l, s)
  match keys.foldl step (some (r, [], s)) with
  | none => none
  | some (r, l, s) =>
    if r.leaves.any (fun p => p.1 / 4096 == n) then
      ((s.stack n).allocMap).map (fun t =>
        ({ r with tops := FMap.put r.tops n t.1 }, l ++ [t.1], s.onStack n (fun _ => t.2)))
    else some ({ r with tops := FMap.erase r.tops n }, l, s)

/-- `rewriteMap` over every stack that a list of units touches, with the pages programmed by stack. -/
def State.rewriteMaps (s : State) (r : Revision) (units : List Nat) : Option (Revision × FMap (List Nat) × State) :=
  (List.range 8).foldl (fun a n =>
    match a with
    | none => none
    | some (r, m, s) =>
      let mine := units.filter (fun u => u % 8 == n)
      if mine.isEmpty then some (r, m, s)
      else (s.rewriteMap r n ((mine.map (fun u => 4096 * n + u / 32768)).eraseDups)).map (fun t =>
        (t.1, FMap.put m n t.2.1, t.2.2))) (some (r, [], s))

/-- Programs pages by stack. -/
def State.programAll (s : State) (m : FMap (List Nat)) (what : ProgFor) : State :=
  m.foldl (fun s p => s.program p.1 p.2 what) s

/-- Replaces a revision of a volume. -/
def Volume.setRev (x : Volume) (r : Revision) : Volume :=
  { x with revs := x.revs.map (fun y => if y.number == r.number then r else y) }

/-! ### Internal commits (R522, R539) -/

/-- The root record of an internal commit whose pages are all programmed is written, and its commit requested. -/
def State.writeCompactRoot (s : State) (v : Nat) : State :=
  match s.loam.compacts.find? (fun z => z.volume == v && z.root.isNone) with
  | some z =>
    if (List.range 8).any (fun n => (s.stack n).programs.any (fun g => g.what == .compact v)) then s
    else
      let x := s.volume v
      let b := s.seed.write1 s.timeBase (Part.loamroot + 2 * v) (({ x with vlen := z.vlen.getD x.vlen }).root v (some z.made))
      { s with
        seed := b.ask s.timeBase
        loam := { s.loam with
          compacts := s.loam.compacts.map (fun y => if y.volume = v then { y with root := some b.openBuf.cseq } else y) } }
  | none => s

/-- An internal commit begins: journaled as COMPACT, its pages programmed, its root record written after the last. -/
def State.startCompact (s : State) (z : Compact) (pages : FMap (List Nat)) : State :=
  let s := pages.foldl (fun s p => s.journalStart p.1 Jop.compact 0 ((FMap.find z.made.tops p.1).getD 0) z.volume) s
  let s : State := { s with loam := { s.loam with compacts := s.loam.compacts ++ [z] } }
  (s.programAll pages (.compact z.volume)).writeCompactRoot z.volume

/-- An internal commit past its commit point: the revision it made takes the place of the one it copied, with its number and
attachments, and what only the old one used becomes stale. -/
def State.endCompact (s : State) (z : Compact) : State :=
  let old := (s.volume z.volume).now
  let s := s.onVolume z.volume (fun x =>
    { x.setRev { z.made with pins := (old.map (·.pins)).getD 0 } with vlen := z.vlen.getD x.vlen })
  let s := z.made.tops.foldl (fun s p => s.journalEnd p.1 Jop.compact p.2) s
  let s : State := { s with loam := { s.loam with compacts := s.loam.compacts.filter (fun y => y.volume != z.volume) } }
  match old with | some r => s.stalePages r (s.holdersOf z.volume) | none => s

/-- The shrink of a volume to `len` for a command (R522): the units at or past `len` drop from the current revision by an internal
commit, which answers the command. None without a revision, or while a page is wanting. -/
def State.shrink (s : State) (v len : Nat) (reply : Reply × List Byte) : Option State :=
  match (s.volume v).now with
  | none => none
  | some r =>
    let gone := (r.units.filter (fun p => decide (len ≤ p.1 * 16384))).map (·.1)
    let r1 : Revision :=
      { r with units := r.units.filter (fun p => decide (p.1 * 16384 < len)), bytes := r.bytes.filter (fun p => decide (p.1 < len)) }
    (s.rewriteMaps r1 gone).map (fun t =>
      t.2.2.startCompact { volume := v, made := t.1, vlen := some len, reply := some reply, root := none } t.2.1)

/-- Does a LOAM root grant of the volume reach beyond `len` in some domain? -/
def State.rootBeyond (s : State) (v len : Nat) : Bool :=
  s.domList.any (fun d => (s.domain d).roots.any (fun i =>
    let e := (s.domain d).grant i
    e.kind == 1 && e.object == v && decide (len < e.base + e.len)))

/-- LVRESIZE: volume, VLEN (R522). A shrink refused for an open session ends with BUSY.
DESIGN CHOICE (log 42). -/
def cmdLvresize (s : State) (c : SynryReq) : CmdEnd :=
  let v := leAt c.params 0 2
  let len := leAt c.params 2 8
  let x := s.volume v
  if 1024 ≤ v ∨ !extentOk x.vbase len then .done St.badParam [] s
  else if x.vlen = 0 ∨ x.deleting then .done St.noVol [] s
  else if s.volumeBusy v then .hold
  else if x.vlen ≤ len then
    match if x.vlen < len then s.stackStatus else none with
    | some st => .done st [] s
    | none =>
      if s.extentMeets v x.vbase len then .done St.overlap [] s
      else .done St.ok [] ((s.onVolume v (fun x => { x with vlen := len })).writeRoot v)
  else if s.rootBeyond v len then .done St.grantRange [] s
  else if s.loam.sessions.any (fun z => z.volume == v) then .done St.busy [] s
  else if x.now.isNone then .done St.ok [] ((s.onVolume v (fun x => { x with vlen := len })).writeRoot v)
  else match s.shrink v len ({ iface := c.iface, tag := c.tag, code := 0x207 }, c.params) with
    | none => .hold
    | some s => .run s

/-- LVDELETE: volume.
DESIGN CHOICE (log 42). -/
def cmdLvdelete (s : State) (c : SynryReq) : CmdEnd :=
  let v := leAt c.params 0 2
  let x := s.volume v
  if x.vlen = 0 ∨ x.deleting then .done St.noVol [] s
  else if s.volumeBusy v then .hold
  else if x.revs.all (fun r => r.pins == 0) then .done St.ok [] (s.freeVolume v)
  else .done St.ok [] ((s.onVolume v (fun x => { x with deleting := true })).writeRoot v)

/-! ### Sessions (R523 to R526) -/

/-- The grant entry of the submitting thread's window `n`, when it is a live LOAM window of volume `v` with U that covers
`count` units from `first`; LOPEN, LCOMMIT and LABORT name no unit (R188, R523).
DESIGN CHOICE (log 42). -/
def State.sessionWindow (s : State) (d g n v first count : Nat) : Option Nat :=
  if !s.inDomain g d then none
  else match FMap.find (s.thread g).gw n with
    | some w =>
      let base := 0x100000000000 + (s.volume v).vbase + first * 16384
      if w.kind == 1 && w.object == v && w.rights.getLsbD 1 && s.winLive d w &&
          (count == 0 || decide (w.base ≤ base) && decide (base + count * 16384 ≤ w.limit)) then some w.index else none
    | none => none

/-- LOPEN: volume, window. -/
def cmdLopen (s : State) (c : SynryReq) : CmdEnd :=
  let v := leAt c.params 0 2
  let x := s.volume v
  if 1024 ≤ v ∨ x.vlen = 0 ∨ x.deleting then .done St.noVol [] s
  else
    let grant := match c.iface with
      | .mailbox d _ _ g => (s.sessionWindow d g (leAt c.params 2 1) v 0 0).map some
      | _ => some none
    match grant with
    | none => .done St.grant [] s
    | some e =>
      if s.stackIn 1 then .done St.readOnly [] s
      else if s.loam.sessions.any (fun z => z.volume == v) ∨ 128 ≤ s.loam.sessions.length then .done St.busy [] s
      else
        let n := s.loam.nextSession
        let z : Session :=
          { number := n, volume := v, domain := c.iface.domain, grant := e.getD 0, staged := [], bytes := [], ops := [],
            nextOp := 0, commit := false, reply := none, made := none, root := none }
        .done St.ok (leBytes 2 n)
          { s with loam := { s.loam with sessions := s.loam.sessions ++ [z], nextSession := if n = 65535 then 1 else n + 1 } }

/-- The session a command of an interface names, while its COMMIT has not begun. -/
def State.sessionOf (s : State) (c : SynryReq) : Option Session :=
  s.loam.sessions.find? (fun z => z.number == leAt c.params 0 2 && z.domain == c.iface.domain && !z.commit)

/-- Replaces a session. -/
def State.setSession (s : State) (z : Session) : State :=
  { s with loam := { s.loam with sessions := s.loam.sessions.map (fun y => if y.number == z.number then z else y) } }

/-- Has the submitting thread a window of the session's grant with U that covers the units a command names (R188, R523)?
DESIGN CHOICE (log 42). -/
def State.mayUpdate (s : State) (c : SynryReq) (z : Session) (first count : Nat) : Bool :=
  match c.iface with
  | .mailbox d _ _ g => (List.range 8).any (fun n => s.sessionWindow d g n z.volume first count == some z.grant)
  | _ => true

/-- The grant and range checks of a command that names `count` units from `first` of a session. -/
def State.unitsCheck (s : State) (c : SynryReq) (z : Session) (first count : Nat) : Option Nat :=
  if (s.volume z.volume).vlen < (first + count) * 16384 then some St.unitRange
  else if !s.mayUpdate c z first count then some St.grant
  else none

/-- Lies `[a, a + n)` wholly in DRAM windows of the domain; for the management port, which has no domain, in installed DRAM
(R524)? DESIGN CHOICE (log 42). -/
def State.sourceOk (s : State) (d a n : Nat) : Bool :=
  if d = 64 then decide (a + n ≤ 0x060000000000) && (n == 0 || (s.installed a && s.installed (a + n - 1)))
  else
    let ws := (s.domain d).windows.filter (fun w => !(s.domain d).cutWin.contains w.1)
    -- windows are whole GiB: each GiB piece of the range lies in one window
    (List.range ((a % 2 ^ 30 + n + 2 ^ 30 - 1) / 2 ^ 30)).all (fun i =>
      let p := (a / 2 ^ 30 + i) * 2 ^ 30
      ws.any (fun w => decide (w.2.base ≤ p) && decide (p < w.2.limit)))

/-- `m` with `[lo, hi)` replaced by cells that lie there. -/
def Mem.paste (m : Mem) (lo hi : Nat) (cells : Mem) : Mem :=
  m.filter (fun p => decide (p.1 < lo)) ++ cells ++ m.filter (fun p => decide (hi ≤ p.1))

/-- Takes a page for each unit of a list, each on its stack. -/
def State.takePages (s : State) (units : List Nat) : Option (FMap Nat × State) :=
  units.foldl (fun a u => match a with
    | none => none
    | some (m, s) => ((s.stack (u % 8)).alloc false).map (fun t => (FMap.put m u t.1, s.onStack (u % 8) (fun _ => t.2))))
    (some ([], s))

/-- Pages staged before for units of a list become stale. -/
def State.unstage (s : State) (z : Session) (units : List Nat) : State :=
  units.foldl (fun s u => match FMap.find z.staged u with
    | some (some p) => s.pageDead (u % 8) p
    | _ => s) s

/-- LSTAGE: session, first unit, unit count, source physical address (R524, R525).
DESIGN CHOICE (log 42). -/
def cmdLstage (s : State) (c : SynryReq) : CmdEnd :=
  let first := leAt c.params 2 4
  let count := leAt c.params 6 4
  let src := leAt c.params 10 8
  match s.sessionOf c with
  | none => .done St.noSession [] s
  | some z =>
    match s.unitsCheck c z first count with
    | some st => .done st [] s
    | none =>
      if !s.sourceOk c.iface.domain src (count * 16384) then .done St.source [] s
      else match s.stackStatus with
      | some st => .done st [] s
      | none =>
        let units := upFrom first count
        if (List.range 8).any (fun n =>
            decide (headroomMax < s.headroom n + (units.filter (fun u => u % 8 == n)).length)) then .done St.noSpace [] s
        else if count = 0 then .done St.ok [] s
        else match s.takePages units with
        | none => .hold
        | some (pages, s) =>
          let s := s.unstage z units
          let z' : Session :=
            { z with staged := pages.foldl (fun m p => FMap.put m p.1 (some p.2)) z.staged
                     bytes := Mem.paste z.bytes (first * 16384) ((first + count) * 16384) (Mem.slice s.dram src (src + count * 16384) (first * 16384))
                     ops := FMap.put z.ops z.nextOp { iface := c.iface, tag := c.tag, code := 0x202 }
                     nextOp := z.nextOp + 1 }
          let s := s.setSession z'
          .run ((List.range 8).foldl (fun s n =>
            s.program n ((pages.filter (fun p => p.1 % 8 == n)).map (·.2)) (.stage z.number z.nextOp)) s)

/-- LZERO: session, first unit, unit count. -/
def cmdLzero (s : State) (c : SynryReq) : CmdEnd :=
  let first := leAt c.params 2 4
  let count := leAt c.params 6 4
  match s.sessionOf c with
  | none => .done St.noSession [] s
  | some z =>
    match s.unitsCheck c z first count with
    | some st => .done st [] s
    | none =>
      if s.stackIn 1 then .done St.readOnly [] s
      else
        let units := upFrom first count
        .done St.ok [] ((s.unstage z units).setSession
          { z with staged := units.foldl (fun m u => FMap.put m u none) z.staged,
                   bytes := Mem.clear z.bytes (first * 16384) ((first + count) * 16384) })

/-- LABORT: session. -/
def cmdLabort (s : State) (c : SynryReq) : CmdEnd :=
  match s.sessionOf c with
  | none => .done St.noSession [] s
  | some z => if s.mayUpdate c z 0 0 then .done St.ok [] (s.abandonSession z) else .done St.grant [] s

/-! ### COMMIT (R527 to R529) -/

/-- The revision that a session's staged state makes of the current one, its map pages still those of the old. -/
def Volume.staged (x : Volume) (z : Session) : Revision :=
  let old : Revision := x.now.getD { number := 0, units := [], tops := [], leaves := [], bytes := [], pins := 0 }
  let units := z.staged.foldl (fun m p => match p.2 with | some g => FMap.put m p.1 g | none => FMap.erase m p.1) old.units
  let bytes := z.staged.foldl (fun m p =>
    let lo := p.1 * 16384
    Mem.paste m lo (lo + 16384) (Mem.slice z.bytes lo (lo + 16384) lo)) old.bytes
  { old with
    number := if x.lastRev ≥ 0xFFFFFFFF then 1 else x.lastRev + 1
    units := units
    bytes := bytes
    pins := 0 }

/-- Do page programs of a session remain? -/
def State.programsOf (s : State) (z : Nat) : Bool :=
  (List.range 8).any (fun n => (s.stack n).programs.any (fun g => match g.what with
    | .stage k _ => k == z
    | .map k => k == z
    | .compact _ => false))

/-- Step 2 of R527, once every page of the session is programmed: the root record is written and its commit requested. -/
def State.writeCommitRoot (s : State) (n : Nat) : State :=
  match s.loam.sessions.find? (fun z => z.number == n && z.commit && z.root.isNone) with
  | some z =>
    if s.programsOf n then s
    else
      let b := s.seed.write1 s.timeBase (Part.loamroot + 2 * z.volume) ((s.volume z.volume).root z.volume z.made)
      let s := s.setSession { z with root := some b.openBuf.cseq }
      { s with seed := b.ask s.timeBase }
  | none => s

/-- LCOMMIT: session.
DESIGN CHOICE (log 42). -/
def cmdLcommit (s : State) (c : SynryReq) : CmdEnd :=
  match s.sessionOf c with
  | none => .done St.noSession [] s
  | some z =>
    if !s.mayUpdate c z 0 0 then .done St.grant [] s
    else match s.stackStatus with
    | some st => .done st [] s
    | none =>
      if s.volumeBusy z.volume then .hold
      else match s.rewriteMaps ((s.volume z.volume).staged z) (z.staged.map (·.1)) with
      | none => .hold
      | some (r, pages, s) =>
        let s := s.setSession { z with commit := true, made := some r, root := none,
                                       reply := some { iface := c.iface, tag := c.tag, code := 0x204 } }
        let s := pages.foldl (fun s p => s.journalStart p.1 Jop.commit 0 ((FMap.find r.tops p.1).getD 0) z.volume) s
        .run ((s.programAll pages (.map z.number)).writeCommitRoot z.number)

/-- The walk of L3 at a switch (R466): lines of the volume with another revision's tag go. -/
def State.walkL3 (s : State) (v rev : Nat) : State :=
  let x := s.volume v
  let mine (l : Nat × Nat) : Bool := x.ownsLine l.2 l && l.2 != rev % 65536
  { s with l3 := s.l3.filter (fun e => !mine (e.line, e.tag)) }

/-- Steps 3 and 4 of R527 for a session: the revision becomes current everywhere and the session ends. -/
def State.switch (s : State) (z : Session) (r : Revision) : State :=
  let s := s.onVolume z.volume (fun x => { x with current := some r.number, lastRev := r.number, revs := x.revs ++ [r] })
  let s := s.walkL3 z.volume r.number
  let s := r.tops.foldl (fun s p => s.journalEnd p.1 Jop.commit p.2) s
  { s with loam := { s.loam with sessions := s.loam.sessions.filter (fun y => y.number != z.number) } }

/-! ### LPARAM and LHEALTH -/

/-- Are LPARAM values in range (Table 13-3)? -/
def lparamOk (hours bits planes : Nat) : Bool :=
  decide (6 ≤ hours) && decide (hours ≤ 168) && decide (8 ≤ bits) && decide (bits ≤ 120) && decide (1 ≤ planes) &&
    decide (planes ≤ 128)

/-- LPARAM: PATROL_HOURS, REFRESH_BITS, PGMPLANES, kept in PARAM. -/
def cmdLparam (s : State) (c : SynryReq) : CmdEnd :=
  let h := leAt c.params 0 1
  let r := leAt c.params 1 1
  let p := leAt c.params 2 1
  if !lparamOk h r p then .done St.badParam [] s
  else
    let s := { s with seed := s.seed.write1 s.timeBase (pwPage 90) c.params }
    .done St.ok [] { s with loam := { s.loam with patrolHours := h, refreshBits := r, pgmPlanes := p } }

/-- The cycle counts of the wear pool: every slot that is not retired. -/
def Stack.poolCycles (x : Stack) : List Nat := (x.blocks.filter (fun b => b.2.st != .retired)).map (fun b => b.2.cycles)

/-- The mean of the cycle counts over the wear pool of 22,860 blocks. -/
def Stack.meanCycles (x : Stack) : Nat := x.poolCycles.sum / 22860

/-- LHEALTH: stack (Table 13-9, R549): its fields packed in the table's order.
DESIGN CHOICE (log 41). -/
def cmdLhealth (s : State) (c : SynryReq) : CmdEnd :=
  let n := leAt c.params 0 1
  let x := s.stack n
  if 8 ≤ n then .done St.badParam [] s
  else .done St.ok
    (leBytes 1 x.state ++ leBytes 1 (natOf x.ready) ++ leBytes 2 x.temp ++ leBytes 4 x.spares ++ leBytes 4 x.spare0 ++
      leBytes 4 x.grown ++ leBytes 4 (x.poolCycles.foldl max 0) ++ leBytes 4 x.meanCycles ++
      leBytes 4 (x.poolCycles.filter (fun k => decide (500 < k))).length ++ leBytes 8 x.unc ++ leBytes 4 x.rfDist ++
      leBytes 4 x.rfPatrol ++ leBytes 8 x.passTime ++ leBytes 4 (s.headroom n)) s

/-! ### The commands of Tables 13-2 and 13-3 -/

def execLvcreate (c : SynryReq) (s : State) : Host.Outcome State Fault Refusal := .next (s.command 0x206 cmdLvcreate c)
def execLvresize (c : SynryReq) (s : State) : Host.Outcome State Fault Refusal := .next (s.command 0x207 cmdLvresize c)
def execLvdelete (c : SynryReq) (s : State) : Host.Outcome State Fault Refusal := .next (s.command 0x208 cmdLvdelete c)
def execLopen (c : SynryReq) (s : State) : Host.Outcome State Fault Refusal := .next (s.command 0x201 cmdLopen c)
def execLstage (c : SynryReq) (s : State) : Host.Outcome State Fault Refusal := .next (s.command 0x202 cmdLstage c)
def execLzero (c : SynryReq) (s : State) : Host.Outcome State Fault Refusal := .next (s.command 0x203 cmdLzero c)
def execLcommit (c : SynryReq) (s : State) : Host.Outcome State Fault Refusal := .next (s.command 0x204 cmdLcommit c)
def execLabort (c : SynryReq) (s : State) : Host.Outcome State Fault Refusal := .next (s.command 0x205 cmdLabort c)
def execLparam (c : SynryReq) (s : State) : Host.Outcome State Fault Refusal := .next (s.command 0x209 cmdLparam c)
def execLhealth (c : SynryReq) (s : State) : Host.Outcome State Fault Refusal := .next (s.command 0x20A cmdLhealth c)

/-- LCLR (R504): a store to the domain's slice. -/
def execLclr (w : CsStore) (s : State) : Host.Outcome State Fault Refusal :=
  .next (match csLocate w.offset with
    | .lc n d off => if s.csReaches w (fun _ => off == 0x040) then s.lcWrite n d off w.value.toNat else s
    | _ => s)

end Sys2Proof.Machine
end

