-- ==== Sys2Proof/Machine/SeedOps.lean ====
section
/-!
DEFINITION. Seedbank as its clients use it (R571, R580 to R593): domain windows, passwords, the Synry commands of Table
14-9, page programs, patrol and power-up recovery.
-/

namespace Sys2Proof.Machine

def St.noPart : Nat := 0x50
def St.range : Nat := 0x51
def St.badPw : Nat := 0x53
def St.locked : Nat := 0x54

/-- Changes partition `p`'s open state. -/
def Seedbank.onPart (b : Seedbank) (p : Nat) (f : SbPart → SbPart) : Seedbank :=
  { b with parts := FMap.put b.parts p (f (b.part p)) }

/-- Changes Seedbank. -/
def State.onSeed (s : State) (f : Seedbank → Seedbank) : State := { s with seed := f s.seed }

/-! ### Passwords (R583 to R585) -/

/-- A presentation: the status it ends with, and Seedbank after it (R584). -/
def Seedbank.present (b : Seedbank) (p : Nat) (write : Bool) (pw : Nat) : Nat × Seedbank :=
  if 10 ≤ (b.part p).fails then (St.locked, b)
  else if b.password p write = pw then
    (St.ok, b.onPart p (fun x => if write then { x with wrOpen := true, fails := 0 } else { x with rdOpen := true, fails := 0 }))
  else (St.badPw, b.onPart p (fun x => { x with fails := x.fails + 1 }))

/-- Sets a password of a partition (R585). -/
def Seedbank.setPassword (b : Seedbank) (now p : Nat) (write : Bool) (pw : Nat) : Seedbank :=
  let rd := if write then b.password p false else pw
  let wr := if write then pw else b.password p true
  b.write1 now (pwPage p) (leBytes 8 rd ++ leBytes 8 wr)

/-- Closes both of a partition's open states. -/
def Seedbank.close (b : Seedbank) (p : Nat) : Seedbank := b.onPart p (fun x => { x with rdOpen := false, wrOpen := false })

/-! ### Domain windows (R571, R591, R592) -/

/-- The images of domain partition pages in the open buffer: those of domain `d`, and all. -/
def Seedbank.domImages (b : Seedbank) (d : Nat) : Nat :=
  (b.openBuf.images.filter (fun p => decide (Part.domain d ≤ p.1) && decide (p.1 < Part.domain (d + 1)))).length
def Seedbank.allImages (b : Seedbank) : Nat := (b.openBuf.images.filter (fun p => decide (Part.domain 0 ≤ p.1))).length

/-- Is there room within the domain's share for a write to its page `i` (R571)? -/
def Seedbank.domRoom (b : Seedbank) (d i : Nat) : Bool :=
  FMap.has b.openBuf.images i || (b.room i && decide (b.domImages d < 8) && decide (b.allImages < 48))

/-- A write of bytes to the page region by a client, in the open buffer, as the latest of its partition. -/
def Seedbank.clientWrite (b : Seedbank) (now off : Nat) (bs : List Byte) : Seedbank :=
  let pages := (List.range ((off % 64 + bs.length + 63) / 64)).map (fun k => off / 64 + k)
  let b := pages.foldl (fun b i =>
    let old := b.readPage i
    let img := (List.range 64).zipWith (fun k o => if off ≤ 64 * i + k ∧
      64 * i + k < off + bs.length then bs.getD (64 * i + k - off) 0 else o) old
    b.image now i img) b
  let cseq := b.openBuf.cseq
  (b.onPart (partOfPage (off / 64)) (fun x => { x with ticket := cseq })).kick now

/-- A load of a register of domain `d`'s window (Table 14-8). -/
def State.seedReg (s : State) (d off : Nat) : Nat :=
  let b := s.seed
  let p := b.part d
  match off with
  | 0x000 =>
    natOf (b.isOpen d false) + natOf (b.isOpen d true) * 2 + natOf (decide (10 ≤ p.fails)) * 4 + p.fails * 2 ^ 3 +
      natOf p.refused * 2 ^ 7 + b.domImages d * 2 ^ 8
  | 0x028 => p.ticket
  | 0x030 => b.done
  | _ => 0

/-- The grant check of a store to SBUNLK, SBSETPW or SBCOMMIT (R592): the right it needs, of the partition's byte 0; its
fault subcode when it fails. -/
def State.seedGrant (s : State) (g d off v : Nat) : Option Nat :=
  let need (bit : Nat) : Option Nat := match s.grantAt g d 3 (0xFE0002004000 + d * 0x10000) [bit] none with
    | .error c => some c
    | .ok _ => none
  if off = 0x010 then
    match (if bitOf v 0 then need 0 else none) with
    | some c => some c
    | none => if bitOf v 1 then need 1 else none
  else if off = 0x018 ∨ off = 0x020 then need 1
  else none

/-- Presents the thread's SBPWD. -/
def State.unlock (s : State) (g d : Nat) (write : Bool) : State :=
  s.onSeed (fun b => (b.present d write (s.thread g).sbpwd.toNat).2)

/-- Sets a password of the domain's partition to the thread's SBPWD, or refuses it. -/
def State.domSetPw (s : State) (g d : Nat) (write : Bool) : State :=
  s.onSeed (fun b =>
    if b.isOpen d true then
      let b := b.setPassword s.timeBase d write (s.thread g).sbpwd.toNat
      let cseq := b.openBuf.cseq
      b.onPart d (fun x => { x with ticket := cseq })
    else b.onPart d (fun x => { x with refused := true }))

/-- SBPWD of a thread is zeroed. -/
def State.clearPwd (s : State) (g : Nat) : State := s.onThread g (fun t => { t with sbpwd := 0 })

/-- A store to a register of the window whose grant check has passed; none when it holds for room in a buffer. -/
def State.seedStore (s : State) (g d off v : Nat) : Option State :=
  match off with
  | 0x000 => some (if bitOf v 7 then s.onSeed (fun b => b.onPart d (fun x => { x with refused := false })) else s)
  | 0x008 => some (s.onThread g (fun t => { t with sbpwd := BitVec.ofNat 64 v }))
  | 0x010 =>
    some (if v % 8 = 4 then (s.onSeed (fun b => b.close d)).clearPwd g
      else if bitOf v 2 then s
      else
        let s1 := if bitOf v 0 then s.unlock g d false else s
        let s2 := if bitOf v 1 then s1.unlock g d true else s1
        s2.clearPwd g)
  | 0x018 =>
    if v % 4 = 0 then some (s.clearPwd g)
    else if !s.seed.room (pwPage d) ∧ !s.seed.room (pwPage d + 1) then none
    else
      let s1 := if bitOf v 0 then s.domSetPw g d false else s
      let s2 := if bitOf v 1 then s1.domSetPw g d true else s1
      some (s2.clearPwd g)
  | 0x020 => some (if bitOf v 0 then (s.onSeed (fun b => b.ask s.timeBase)).answerWaiters else s)
  | _ => some s

/-- Byte offset in the Page region of an aperture offset of domain `d`. -/
def apertureAt (d off : Nat) : Nat := 0x300000 + 0x4000 * d + (off - 0x4000)

/-- The fault of a closed partition (R592). -/
def seedClosed (va : Word) : Flt := Flt.mk' 0x06 0x43 va

/-- The machine check of an uncorrectable page read by a load (R582). -/
def seedError (g : Nat) : HwError := { thread := g, unit := 8, unitIdx := 0, kind := 1, corrupt := false, paddr := none }

/-- An aperture load whose grant check has passed: its value, or the state its failure leaves. -/
def State.apertureLoad (s : State) (g d off : Nat) (va : Word) : Except State Nat :=
  if !s.seed.isOpen d false then .error (s.fault g (seedClosed va))
  else if s.seed.unreadable (apertureAt d off) 8 then .error (s.machineCheck (seedError g))
  else .ok (leNat (s.seed.readBytes (apertureAt d off) 8))

/-- An aperture store whose grant check has passed; none when it holds at its share of the buffer (R571). -/
def State.apertureStore (s : State) (g d off v : Nat) (va : Word) : Option State :=
  if !s.seed.isOpen d true then some (s.fault g (seedClosed va))
  else if s.seed.domRoom d (apertureAt d off / 64) then
    some (s.onSeed (fun b => b.clientWrite s.timeBase (apertureAt d off) (leBytes 8 v))).answerWaiters
  else none

/-- Runs a window access of a thread whose domain owns the window, behind no TFENCE and no store that holds (R304, R461). -/
def State.seedRow (s : State) (thread : Nat) (f : Nat → State) : State :=
  match s.domOf thread with
  | some d =>
    if (s.thread thread).run == .running && decide (thread < 256) && s.seed.recovered && (s.fenceWait thread).isNone then f d else s
  | none => s

/-- A store of `v` to a register of the thread's own window, with its grant check. -/
def State.regRow (s : State) (thread off v : Nat) : State :=
  s.seedRow thread (fun d =>
    match s.seedGrant thread d off v with
    | some c => s.fault thread (Flt.mk' 0x0C c (BitVec.ofNat 64 (0xFE0002000000 + d * 0x10000 + off)))
    | none => (s.seedStore thread d off v).getD (s.holdStore thread .seedbankBuffer (0x2000000 + d * 0x10000 + off) v))

def execSbunlkRd (thread : Nat) (s : State) : Host.Outcome State Fault Refusal := .next (s.regRow thread 0x010 1)
def execSbunlkWr (thread : Nat) (s : State) : Host.Outcome State Fault Refusal := .next (s.regRow thread 0x010 2)
def execSbunlkClose (thread : Nat) (s : State) : Host.Outcome State Fault Refusal := .next (s.regRow thread 0x010 4)
def execSbsetpwRd (thread : Nat) (s : State) : Host.Outcome State Fault Refusal := .next (s.regRow thread 0x018 1)
def execSbsetpwWr (thread : Nat) (s : State) : Host.Outcome State Fault Refusal := .next (s.regRow thread 0x018 2)
def execSbcommitGo (thread : Nat) (s : State) : Host.Outcome State Fault Refusal := .next (s.regRow thread 0x020 1)

/-- SEEDBANK_APERTURE_ACCESS (R592): the grant check first, then the partition's open state. -/
def execSeedbankApertureAccess (a : CsAccess) (s : State) : Host.Outcome State Fault Refusal :=
  let pa := BitVec.ofNat 64 (0xFE0000000000 + a.offset)
  .next (match csLocate a.offset with
    | .seed e off =>
      s.seedRow a.thread (fun d =>
        if !(e == d && decide (0x4000 ≤ off) && decide (off < 0x8000) && a.width == 8) then s
        else match s.grantAt a.thread d 3 pa.toNat [natOf a.store] none with
          | .error c => s.fault a.thread (Flt.mk' 0x0C c pa)
          | .ok _ =>
            if a.store then (s.apertureStore a.thread d off a.value.toNat pa).getD
              (s.holdStore a.thread .seedbankBuffer a.offset a.value.toNat)
            else match s.apertureLoad a.thread d off pa with
              | .ok v => s.onThread a.thread (fun t => t.setReg a.reg (BitVec.ofNat 64 v))
              | .error s => s)
    | _ => s)

/-! ### Synry commands (Table 14-9) -/

/-- Does a byte range meet the password table, which no interface reads (R583)? -/
def inPwTable (off n : Nat) : Bool := rangesMeet off n (64 * pwPage 0) (64 * (pwPage 74 - pwPage 0))

/-- SBREAD: partition, offset, length. -/
def cmdSbread (s : State) (c : SynryReq) : CmdEnd :=
  let p := leAt c.params 0 1
  let off := leAt c.params 1 4
  let n := leAt c.params 5 2
  match partRange p with
  | none => .done St.noPart [] s
  | some (o, z) =>
    if 256 < n then .done St.badParam [] s
    else if z < off + n then .done St.range [] s
    else if inPwTable (o + off) n then .done St.notPermitted [] s
    else if !s.seed.isOpen p false then .done St.closed [] s
    else if s.seed.unreadable (o + off) n then .done St.worn [] s
    else .done St.ok (s.seed.readBytes (o + off) n) s

/-- Is a partition protected by WP_N against a write (R586)? -/
def State.protects (s : State) (p : Nat) : Bool := !s.pins.wpN && (p == 0x40 || p == 0x41 || p == 0x42 || p == 0x49)

/-- SBWRITE: partition, offset, bytes. -/
def cmdSbwrite (s : State) (c : SynryReq) : CmdEnd :=
  let p := leAt c.params 0 1
  let off := leAt c.params 1 4
  let bs := c.params.drop 5
  match partRange p with
  | none => .done St.noPart [] s
  | some (o, z) =>
    if z < off + bs.length then .done St.range [] s
    else if inPwTable (o + off) bs.length then .done St.notPermitted [] s
    else if !s.seed.isOpen p true then .done St.closed [] s
    else if s.protects p then .done St.wprot [] s
    else if !s.seed.failed.isEmpty then .done St.worn [] s
    else if s.seed.openBuf.images.length + ((List.range ((off % 64 + bs.length + 63) / 64)).filter (fun k =>
        !FMap.has s.seed.openBuf.images ((o + off) / 64 + k))).length ≤ 64 then
      .done St.ok [] (s.onSeed (fun b => b.clientWrite s.timeBase (o + off) bs))
    else .hold

/-- SBCOMMIT: its response carries CSEQ once the commit point is reached.
DESIGN CHOICE (log 39). -/
def cmdSbcommit (s : State) (c : SynryReq) : CmdEnd :=
  let q := s.seed.openBuf.cseq
  let w : SbWait := { cseq := q, reply := { iface := c.iface, tag := c.tag, code := 0x303 }, results := leBytes 4 q }
  .run (s.onSeed (fun b => { b with waiters := b.waiters ++ [w] }.ask s.timeBase))

/-- SBUNLOCK: partition, RD or WR, password. -/
def cmdSbunlock (s : State) (c : SynryReq) : CmdEnd :=
  let p := leAt c.params 0 1
  let k := leAt c.params 1 1
  if (partRange p).isNone then .done St.noPart [] s
  else if 1 < k then .done St.badParam [] s
  else
    let (st, b) := s.seed.present p (k == 1) (leAt c.params 2 8)
    .done st [] { s with seed := b }

/-- SBSETPW: partition, RD or WR, password. -/
def cmdSbsetpw (s : State) (c : SynryReq) : CmdEnd :=
  let p := leAt c.params 0 1
  let k := leAt c.params 1 1
  if (partRange p).isNone then .done St.noPart [] s
  else if 1 < k then .done St.badParam [] s
  else if !s.seed.isOpen p true then .done St.closed [] s
  else .done St.ok [] (s.onSeed (fun b => b.setPassword s.timeBase p (k == 1) (leAt c.params 2 8)))

/-- SBCLOSE: partition. -/
def cmdSbclose (s : State) (c : SynryReq) : CmdEnd :=
  let p := leAt c.params 0 1
  if (partRange p).isNone then .done St.noPart [] s else .done St.ok [] (s.onSeed (fun b => b.close p))

/-- The pages of a ring of `n` pages from page `i` that hold a valid record. -/
def Seedbank.ringPages (b : Seedbank) (i n : Nat) : List Nat :=
  let written := ((b.page.filter (fun p => decide (64 * i ≤ p.1) && decide (p.1 < 64 * (i + n)))).map (fun p => p.1 / 64)).eraseDups
  let images := (b.openBuf.images.filter (fun p => decide (i ≤ p.1) && decide (p.1 < i + n))).map (·.1)
  let images2 := match b.commit with
    | some c => (c.images.filter (fun p => decide (i ≤ p.1) && decide (p.1 < i + n))).map (·.1)
    | none => []
  ((written ++ images ++ images2).eraseDups).filter (fun k => pageValid (b.readPage k))

/-- The records of a ring whose SEQ is one of `n` from `first` on; a response holds at most seven, the whole records that 480
bytes of results hold (R716). DESIGN CHOICE (log 39). -/
def Seedbank.ringRead (b : Seedbank) (i size first n : Nat) : List Byte :=
  let pages := b.ringPages i size
  ((List.range (min n 7)).filterMap (fun k =>
    (pages.find? (fun p => pageSeq (b.readPage p) == (first + k) % 2 ^ 32)).map b.readPage)).flatten

/-- SBAUDIT and SBLOG: first SEQ, count. -/
def cmdRing (i size : Nat) (s : State) (c : SynryReq) : CmdEnd :=
  let n := leAt c.params 4 1
  if 16 < n then .done St.badParam [] s else .done St.ok (s.seed.ringRead i size (leAt c.params 0 4) n) s

/-- SBAUDITCLR: the ring is emptied. -/
def cmdSbauditclr (s : State) (_ : SynryReq) : CmdEnd :=
  if !s.pins.wpN then .done St.wprot [] s
  else .done St.ok [] (s.onSeed (fun b =>
    let b := b.commitNow.finishNow
    { b with page := Mem.clear b.page (64 * Part.audit) (64 * (Part.audit + 12288)), auditHead := 0, auditLive := 0 }))

/-- SBCOUNT: counter. -/
def cmdSbcount (s : State) (c : SynryReq) : CmdEnd :=
  let n := leAt c.params 0 1
  if 64 ≤ n then .done St.badParam [] s else .done St.ok (leBytes 8 (s.seed.counter n)) s

/-- SBHEALTH: spares left, pages failed, commits replayed, time of the last patrol pass, weak pages rewritten. -/
def cmdSbhealth (s : State) (_ : SynryReq) : CmdEnd :=
  let b := s.seed
  .done St.ok (leBytes 2 (1024 - b.sparesUsed) ++ leBytes 2 b.failed.length ++ leBytes 4 b.replayed ++ leBytes 8 b.patrolAt ++
    leBytes 4 b.weak) s

def execSbread (c : SynryReq) (s : State) : Host.Outcome State Fault Refusal := .next (s.command 0x301 cmdSbread c)
def execSbwrite (c : SynryReq) (s : State) : Host.Outcome State Fault Refusal := .next (s.command 0x302 cmdSbwrite c).answerWaiters
def execSbcommit (c : SynryReq) (s : State) : Host.Outcome State Fault Refusal := .next (s.command 0x303 cmdSbcommit c).answerWaiters
def execSbunlock (c : SynryReq) (s : State) : Host.Outcome State Fault Refusal := .next (s.command 0x304 cmdSbunlock c)
def execSbsetpw (c : SynryReq) (s : State) : Host.Outcome State Fault Refusal := .next (s.command 0x305 cmdSbsetpw c).answerWaiters
def execSbclose (c : SynryReq) (s : State) : Host.Outcome State Fault Refusal := .next (s.command 0x306 cmdSbclose c)
def execSbaudit (c : SynryReq) (s : State) : Host.Outcome State Fault Refusal := .next (s.command 0x307 (cmdRing Part.audit 12288) c)
def execSblog (c : SynryReq) (s : State) : Host.Outcome State Fault Refusal := .next (s.command 0x308 (cmdRing Part.log 4096) c)
def execSbauditclr (c : SynryReq) (s : State) : Host.Outcome State Fault Refusal := .next (s.command 0x309 cmdSbauditclr c).answerWaiters
def execSbcount (c : SynryReq) (s : State) : Host.Outcome State Fault Refusal := .next (s.command 0x30A cmdSbcount c)
def execSbhealth (c : SynryReq) (s : State) : Host.Outcome State Fault Refusal := .next (s.command 0x30B cmdSbhealth c)

/-! ### Page programs and spares (R576, R581) -/

/-- Record `k` of the spare map in PARAM: fourteen pairs of a page and its spare. -/
def spareRecord (k : Nat) : Nat := pwPage (96 + k)

/-- Record `k` of the failed pages in PARAM: twenty-eight pages. -/
def failedRecord (k : Nat) : Nat := pwPage (176 + k)

/-- The rest of a commit after its first page is dealt with. -/
def Seedbank.nextPage (b : Seedbank) : Seedbank :=
  match b.commit with
  | some c => if (c.todo.drop 1).isEmpty then b.finish else { b with commit := some { c with todo := c.todo.drop 1, tries := 0 } }
  | none => b

/-- The first page left of a commit programs, or fails its verify.
DESIGN CHOICE (log 39). -/
def State.pageProgrammed (s : State) (verified : Bool) : State :=
  match s.seed.commit with
  | none => s
  | some c =>
    match c.todo with
    | [] => s.onSeed (fun b => b.finish)
    | (i, img) :: _ =>
      if verified then s.onSeed (fun b => (b.program i img).nextPage)
      else if c.tries < 2 then s.onSeed (fun b => { b with commit := some { c with tries := c.tries + 1 } })
      else if s.seed.sparesUsed < 1024 then
        let k := s.seed.sparesUsed
        let s := s.onSeed (fun b =>
          ({ b with spareMap := FMap.put b.spareMap i k, sparesUsed := k + 1 }.program i img).nextPage)
        let s := s.onSeed (fun b => (List.range (b.spareMap.length / 14 + 1)).foldl (fun b j =>
          let part := (b.spareMap.drop (14 * j)).take 14
          if part.any (fun p => p.1 == i) then
            b.write1 s.timeBase (spareRecord j) (part.flatMap (fun p => leBytes 2 p.1 ++ leBytes 2 (p.2 + 1)))
          else b) b)
        s.log 0x0009 (partOfPage i) (leBytes 4 i ++ leBytes 4 k)
      else
        let s := s.onSeed (fun b => { b with failed := b.failed ++ [i] }.nextPage)
        let k := (s.seed.failed.length - 1) / 28
        let s := s.onSeed (fun b => b.write1 s.timeBase (failedRecord k) (((b.failed.drop (28 * k)).take 28).flatMap (fun p => leBytes 2 p)))
        s.log 0x000A (partOfPage i) (leBytes 4 i)

/-! ### Recovery (R577) -/

/-- Step 1: the journal's commit is replayed when its header checks and it is not done. The commits replayed are counted. -/
def Seedbank.replay (b : Seedbank) : Seedbank :=
  let h := Mem.block b.ferric commitAt 64
  let n := leAt h 4 4
  let dir := Mem.block b.ferric (commitAt + 0x40) (4 * n)
  let img := Mem.block b.ferric (commitAt + 0x140) (64 * n)
  if n ≤ 64 ∧ leAt h 60 4 = crc32c (h.take 56 ++ dir ++ img) ∧ leAt h 56 4 ≠ doneWord then
    let b := (List.range n).foldl (fun b i => b.program (leAt dir (4 * i) 2) ((img.drop (64 * i)).take 64)) b
    { b.finish with replayed := 1 }
  else { b with replayed := 0 }

/-- The one-page records of the part, as pairs of pages: FACTORY, CALIB, PARAM, counter bases, LOAMROOT and LOAMTAB. -/
def recordPages (b : Seedbank) : List Nat :=
  let pages := ((b.page.map (fun p => p.1 / 64)).eraseDups).filter (fun i =>
    decide (i < Part.overlay) || (decide (Part.param ≤ i) && decide (i < Part.train)) ||
      (decide (Part.counters + 32 ≤ i) && decide (i < Part.log)))
  (pages.map (fun i => i / 2 * 2)).eraseDups

/-- Offset within its partition of a page. -/
def pageOffset (i : Nat) : Nat := match partRange (partOfPage i) with | some (o, _) => 64 * i - o | none => 0

/-- The log records of a record found absent, or whose newer copy is invalid (R567). -/
def State.logRecord (s : State) (i : Nat) : State :=
  let b := s.seed
  let a := b.readPage i
  let c := b.readPage (i + 1)
  let rolled (used bad : List Byte) : State :=
    if seqLarger (pageSeq bad) (pageSeq used) then
      s.log 0x0007 (partOfPage i) (leBytes 4 (pageOffset i) ++ leBytes 4 (pageSeq used) ++ leBytes 4 (pageSeq bad))
    else s
  match b.copySeq i 1, b.copySeq (i + 1) 1 with
  | none, none => s.log 0x0008 (partOfPage i) (leBytes 4 (pageOffset i))
  | some _, none => if c.all (· == 0) then s else rolled a c
  | none, some _ => if a.all (· == 0) then s else rolled c a
  | some _, some _ => s

/-- The next page of a ring: past its valid record of the largest SEQ (R587). -/
def Seedbank.ringHead (b : Seedbank) (i n : Nat) : Nat :=
  match (b.ringPages i n).foldl (fun best p => match best with
      | none => some p
      | some q => if seqLarger (pageSeq (b.readPage p)) (pageSeq (b.readPage q)) then some p else best) none with
  | some p => (p - i + 1) % n
  | none => 0

/-- The spare map and the failed pages as PARAM holds them. -/
def Seedbank.loadParam (b : Seedbank) : Seedbank :=
  let spares := (List.range 74).flatMap (fun k => match b.rec1 (spareRecord k) with
    | some p => (List.range 14).filterMap (fun j =>
      if leAt p (4 * j + 2) 2 = 0 then none else some (leAt p (4 * j) 2, leAt p (4 * j + 2) 2 - 1))
    | none => [])
  { b with spareMap := spares.foldl (fun m p => FMap.put m p.1 p.2) b.spareMap, sparesUsed := max b.sparesUsed spares.length }

/-- Recovery, in order: replay, the next CSEQ, the records, the rings; then the records the SMC held are logged. -/
def State.recoverSeed (s : State) : State :=
  let s := s.onSeed (fun b =>
    let b := b.replay
    let q := leNat (Mem.block b.ferric commitAt 4)
    let b := { b with
      openBuf := { cseq := (q + 1) % 2 ^ 32, images := [], first := none, asked := false }
      commit := none
      done := q
      parts := []
      waiters := [] }
    let b := b.loadParam
    { b with
      recovered := true
      auditHead := b.ringHead Part.audit 12288
      logHead := b.ringHead Part.log 4096
      auditLive := (b.ringPages Part.audit 12288).length })
  let s := if s.seed.replayed = 1 then s.onSeed (fun b => (b.increment s.timeBase 4).commitNow) else s
  let s := (recordPages s.seed).foldl (fun s i => s.logRecord i) s
  let q := s.smc.logQ
  q.foldl (fun s l => s.log l.1 l.2.1 l.2.2) { s with smc := { s.smc with logQ := [] } }

/-- What patrol finds of a page (R580, R582): a weak page, or one that only a normal reading corrects, is rewritten through a
commit, joining an image a client has of it (R601); one that no reading corrects is uncorrectable until it is written. -/
def State.patrolPage (s : State) (page : Nat) (found : PageFound) : State :=
  if !s.seed.recovered ∨ 65536 ≤ page then s
  else
    let s := match found with
      | .good => s
      | .weak => s.onSeed (fun b => { b.smcPut s.timeBase page (b.readPage page) with weak := b.weak + 1 }.kick s.timeBase)
      | .lost => s.onSeed (fun b => if b.bad.contains page then b else { b with bad := b.bad ++ [page] })
    if page = 65535 then s.onSeed (fun b => { b with patrolAt := s.timeBase }) else s

end Sys2Proof.Machine
end

