-- ==== Sys2Proof/Machine/DomainCfg.lean ====
section
/-!
DEFINITION. Domain configuration (R605 to R608, Tables 15-1, 15-4 and 18-6): the fields of change-set items, what each item
takes away and gives, the rules a configuration meets, the checks of a set (R613, R629), and the DOMAINS and GRANTS
sections.
-/

namespace Sys2Proof.Machine

/-- Statuses of Table 15-5. -/
def Ds.accepted : Nat := 0x60
def Ds.invalid : Nat := 0x61
def Ds.conflict : Nat := 0x62
def Ds.notOwner : Nat := 0x63
def Ds.noRes : Nat := 0x64
def Ds.setBusy : Nat := 0x65
def Ds.noSet : Nat := 0x66
def Ds.notRun : Nat := 0x67
def Ds.forced : Nat := 0x68
def Ds.deferred : Nat := 0x69
def Ds.persistFail : Nat := 0x6A

/-- Item codes (Table 17-7). -/
def It.dcreate : Nat := 0x411
def It.ddestroy : Nat := 0x412
def It.tmove : Nat := 0x413
def It.winadd : Nat := 0x414
def It.windel : Nat := 0x415
def It.wayset : Nat := 0x416
def It.shareset : Nat := 0x417
def It.guardset : Nat := 0x418
def It.rootadd : Nat := 0x419
def It.rootdel : Nat := 0x41A
def It.portadd : Nat := 0x41B
def It.portdel : Nat := 0x41C
def It.powerset : Nat := 0x41D
def It.routeset : Nat := 0x41E
def It.divset : Nat := 0x41F
def It.resetcfg : Nat := 0x420
def It.fepset : Nat := 0x421
def It.fepdel : Nat := 0x422
def It.fqset : Nat := 0x423
def It.fqdel : Nat := 0x424
def It.fgrpset : Nat := 0x425
def It.fgrpdel : Nat := 0x426

/-- The class of an item (Tables 15-4 and 16-5): 1 A, 2 E, 3 Q, 4 D; 0 for a code that is no item. -/
def itemClass (code : Nat) : Nat :=
  match code with
  | 0x412 | 0x413 | 0x415 | 0x41C => 3
  | 0x41E | 0x41F | 0x425 | 0x426 => 2
  | 0x420 => 4
  | 0x411 | 0x414 | 0x416 | 0x417 | 0x418 | 0x419 | 0x41A | 0x41B | 0x41D | 0x421 | 0x422 | 0x423 | 0x424 => 1
  | _ => 0

/-- Field of `n` bytes at offset `o` of an item's parameters.
DESIGN CHOICE (log 44). -/
def Item.p (i : Item) (o n : Nat) : Nat := leAt i.params o n

/-- The length of an item's parameters; none when it varies.
DESIGN CHOICE (log 44). -/
def itemLen (code : Nat) : Option Nat :=
  match code with
  | 0x411 => some 9 | 0x412 => some 1 | 0x413 => some 13 | 0x414 => some 6 | 0x415 => some 6 | 0x416 => some 3
  | 0x417 => some 4 | 0x418 => some 2 | 0x419 => some 23 | 0x41A => some 2 | 0x41B => some 4 | 0x41C => some 4
  | 0x41D => some 3 | 0x41F => some 2 | 0x421 => some 28 | 0x422 => some 2 | 0x424 => some 2 | 0x426 => some 2
  | _ => none

/-- Start IP of a TMOVE that names HALT. -/
def tmoveHalt : Nat := 2 ^ 64 - 1

/-- The grace period of an item in SCLK cycles (R619): 100 ms when it names none.
DESIGN CHOICE (log 45). -/
def Item.grace (i : Item) : Nat :=
  let ms := if i.code = It.tmove then i.p 3 2 else if i.code = It.portdel then i.p 2 2 else 0
  (if ms = 0 then 100 else ms) * 100000

/-- The window that WINADD or WINDEL names. -/
def Item.window (i : Item) : DWin := { base := gib (i.p 2 2), limit := gib (i.p 2 2 + i.p 4 2) }

/-- Bit `n` of a 64-bit mask set or cleared. -/
def bitSet (m : BitVec 64) (n : Nat) (b : Bool) : BitVec 64 :=
  if b then m ||| BitVec.ofNat 64 (2 ^ n) else m &&& ~~~ BitVec.ofNat 64 (2 ^ n)

/-- Bit `n` of a 16-bit mask set or cleared. -/
def portSet (m : BitVec 16) (n : Nat) (b : Bool) : BitVec 16 :=
  if b then m ||| BitVec.ofNat 16 (2 ^ n) else m &&& ~~~ BitVec.ofNat 16 (2 ^ n)

/-- A domain of a configuration. -/
def cfgDom (m : FMap Domain) (d : Nat) : Domain := FMap.get m d Domain.reset

/-- Changes an existing domain of a configuration. -/
def cfgOn (m : FMap Domain) (d : Nat) (f : Domain → Domain) : FMap Domain :=
  if (cfgDom m d).valid then FMap.put m d (f (cfgDom m d)) else m

/-! ### What an item takes away and gives (R616) -/

/-- The part of a class A item that narrows a domain, on the configuration. -/
def Item.narrow (i : Item) (m : FMap Domain) : FMap Domain :=
  let d := i.p 0 1
  match i.code with
  | 0x416 => cfgOn m d (fun x => { x with ways := x.ways &&& BitVec.ofNat 16 (i.p 1 2) })
  | 0x417 =>
    let (r, c) := shareIn m d (i.p 1 1)
    cfgOn m d (fun x => { x with rsv := FMap.put x.rsv (i.p 1 1) (min r (i.p 2 1)),
                                 cap := FMap.put x.cap (i.p 1 1) (min c (i.p 3 1)) })
  | 0x418 => if i.p 1 1 = 1 then cfgOn m d (fun x => { x with specguard := true }) else m
  | 0x41D => cfgOn m d (fun x => { x with power := min x.power (i.p 1 2) })
  | _ => m

/-- The part of a class Q item that takes its resource away, on the configuration. -/
def Item.take (i : Item) (m : FMap Domain) : FMap Domain :=
  match i.code with
  | 0x412 => FMap.erase m (i.p 0 1)
  | 0x413 => cfgOn m (i.p 1 1) (fun x => { x with tiles := bitSet x.tiles (i.p 0 1) false })
  | 0x415 => cfgOn m (i.p 0 1) (fun x => { x with windows := FMap.erase x.windows (i.p 1 1),
                                                  cutWin := x.cutWin.filter (· != i.p 1 1) })
  | 0x41C => cfgOn m (i.p 0 1) (fun x => { x with ports := portSet x.ports (i.p 1 1) false })
  | _ => m

/-- The part of an item that gives or widens, on the configuration. -/
def Item.give (i : Item) (m : FMap Domain) : FMap Domain :=
  let d := i.p 0 1
  match i.code with
  | 0x411 =>
    let x : Domain := { Domain.reset with valid := true, tiles := BitVec.ofNat 64 (i.p 1 8), bootDone := true }
    FMap.put m d { x with holder := x.bootThread, srcBoot := x.bootThread }
  | 0x413 => cfgOn m (i.p 2 1) (fun x => { x with tiles := bitSet x.tiles (i.p 0 1) true })
  | 0x414 => cfgOn m d (fun x => { x with windows := FMap.put x.windows (i.p 1 1) i.window })
  | 0x416 => cfgOn m d (fun x => { x with ways := BitVec.ofNat 16 (i.p 1 2) })
  | 0x417 => cfgOn m d (fun x => { x with rsv := FMap.put x.rsv (i.p 1 1) (i.p 2 1), cap := FMap.put x.cap (i.p 1 1) (i.p 3 1) })
  | 0x418 => cfgOn m d (fun x => { x with specguard := i.p 1 1 == 1 })
  | 0x41B => cfgOn m d (fun x => { x with ports := portSet x.ports (i.p 1 1) true })
  | 0x41D => cfgOn m d (fun x => { x with power := i.p 1 2 })
  | _ => m

/-- Does the class A part of an item narrow something of the configuration as it stands? -/
def Item.narrows (i : Item) (m : FMap Domain) : Bool :=
  i.code == It.rootdel || i.code == It.fepdel || i.code == It.fqdel || decide (i.narrow m ≠ m)

/-- Has an item a removal part of class Q? -/
def Item.quiesces (i : Item) : Bool := itemClass i.code == 3 && !(i.code == It.tmove && i.p 1 1 == 64)

/-- Has an item a removal part that completes with its drain, or with its old version's retirement (R192, R669)? -/
def Item.drains (i : Item) : Bool :=
  i.code == It.rootdel || i.code == It.fepdel || i.code == It.fqdel || i.code == It.fgrpdel

/-- Has an item an addition part of class A or E? -/
def Item.adds (i : Item) : Bool :=
  i.code == It.tmove ||
    (itemClass i.code == 1 && !i.drains) || (itemClass i.code == 2 && !i.drains)

/-! ### The rules a configuration meets (R265, R445, R606, R607, Table 15-1) -/

/-- Do two windows share an address? -/
def DWin.meets (a b : DWin) : Bool := decide (a.base < b.limit) && decide (b.base < a.limit)

/-- Is every GiB of a window installed (R52)? -/
def State.windowInstalled (s : State) (w : DWin) : Bool :=
  (List.range ((w.limit - w.base) / 2 ^ 30)).all (fun k => s.installed (w.base + gib k) && s.installed (w.base + gib k + 0x3FFFFFFF))

/-- Is a window apart from every other window of a configuration, its own number `n` of domain `d` aside (R606)? -/
def windowApart (m : FMap Domain) (d n : Nat) (w : DWin) : Bool :=
  m.all (fun p => !p.2.valid || p.2.windows.all (fun q => (p.1 == d && q.1 == n) || !q.2.meets w))

/-- Is tile `t` available and of no domain but `d` (R605, R758)? -/
def State.tileFree (s : State) (m : FMap Domain) (d t : Nat) : Bool :=
  (s.clk t).avail && m.all (fun p => !p.2.valid || p.1 == d || !p.2.tiles.getLsbD t)

/-- The tiles of a mask. -/
def tilesIn (x : BitVec 64) : List Nat := (List.range 64).filter (fun t => x.getLsbD t)

/-- Do the reserves of a class fit its bound, and every RSV its CAP (R265)? -/
def sharesFit (m : FMap Domain) (cls : Nat) : Bool :=
  let v := m.filter (fun p => p.2.valid)
  decide ((v.map (fun p => (shareIn m p.1 cls).1)).sum ≤ (if cls = 2 then 62 else 64)) &&
    v.all (fun p => decide ((shareIn m p.1 cls).1 ≤ (shareIn m p.1 cls).2) && decide ((shareIn m p.1 cls).2 ≤ 64))

/-- Is a root port there, and of no domain but `d`? -/
def State.portFree (s : State) (m : FMap Domain) (d p : Nat) : Bool :=
  (s.port p).exists_ && m.all (fun q => !q.2.valid || q.1 == d || !q.2.ports.getLsbD p)

/-- The status of the first rule that domain `d` breaks in a configuration, 0 when it breaks none. -/
def State.domainFault (s : State) (m : FMap Domain) (d : Nat) : Nat :=
  let x := cfgDom m d
  if x.tiles = 0 then Ds.noRes
  else if !(tilesIn x.tiles).all (s.tileFree m d) then Ds.conflict
  else if x.windows.any (fun w => !s.windowInstalled w.2) then Ds.invalid
  else if x.windows.any (fun w => !windowApart m d w.1 w.2) then Ds.conflict
  else if x.ways = 0 then Ds.noRes
  else if !(List.range 4).all (sharesFit m) then Ds.noRes
  else if !((List.range 16).filter (fun p => x.ports.getLsbD p)).all (s.portFree m d) then Ds.conflict
  else if x.power < 10 ∨ 520 < x.power then Ds.noRes
  else 0

/-! ### The checks of an item (R613, R629) -/

/-- The key of an interface that sets are bound to (R611). -/
def ifaceKey (i : Iface) : Nat := match i with | .mgmt => 0 | .vc3 n => 1 + n | .mailbox d _ _ _ => 65537 + d

/-- The interface of a key as an audit record gives it (Table 14-6). -/
def keyAudit (k : Nat) : Nat := if k = 0 then 1 else if k < 65537 then 3 + (k - 1) * 2 ^ 16 else 2 + (k - 65537) * 2 ^ 8

/-- Does an item only narrow domain `d`, as its mailbox may ask (Table 15-7)? -/
def State.onlyNarrows (s : State) (d : Nat) (i : Item) : Bool :=
  let x := s.domain d
  let own := i.p 0 1 == d
  match i.code with
  | 0x415 | 0x41A | 0x41C => own
  | 0x416 => own && BitVec.ofNat 16 (i.p 1 2) &&& x.ways == BitVec.ofNat 16 (i.p 1 2)
  | 0x417 => own && decide (i.p 2 1 ≤ (s.share d (i.p 1 1)).1) && decide (i.p 3 1 ≤ (s.share d (i.p 1 1)).2)
  | 0x418 => own && i.p 1 1 == 1
  | 0x41D => own && decide (i.p 1 2 ≤ x.power)
  | 0x413 => i.p 1 1 == d && i.p 2 1 == 64
  | _ => false

/-- Is a byte range inside one DRAM window of a domain? -/
def inWindows (x : Domain) (base len : Nat) : Bool :=
  x.windows.any (fun w => decide (w.2.base ≤ base) && decide (base + len ≤ w.2.limit))

/-- The sender entries of an FQSET: node range, domain and quota, 9 bytes each. -/
def Item.senders (i : Item) : List Sender :=
  (List.range (i.p 13 1)).map (fun k =>
    { nodeLo := i.p (14 + 9 * k) 2, nodeHi := i.p (16 + 9 * k) 2, domain := i.p (18 + 9 * k) 1, quota := i.p (19 + 9 * k) 4 })

/-- Is a right field one its grant kind defines, of the roots a domain may be given (Tables 4-8 and 15-1)?
DESIGN CHOICE (log 45). -/
def rootOk (d kind object rights base len : Nat) : Bool :=
  decide (1 ≤ kind) && decide (kind ≤ 5) && rights &&& kindRights kind == rights && decide (0 < len) &&
    base % kindGranule kind == 0 && len % kindGranule kind == 0 &&
    (match kind with
    | 1 => decide (object < 1024)
    | 2 => object &&& 0xF3F == object
    | 3 => object == d && decide (base + len ≤ 16384)
    | 4 => decide (object < 4) && base == 0 && len == 1
    | _ => decide (1 ≤ epKind object) && decide (epKind object ≤ 3) && decide (object < 2 ^ 31) &&
        (epKind object == 1 || (base == 0 && len == 1)))

/-- The well-formedness of an item by itself.
DESIGN CHOICE (log 44). -/
def State.itemFormed (s : State) (i : Item) : Bool :=
  let len := i.params.length
  (match itemLen i.code with | some n => len == n | none => itemClass i.code != 0) &&
  (match i.code with
  | 0x411 | 0x412 | 0x416 | 0x419 | 0x41A | 0x41D => decide (i.p 0 1 < 64)
  | 0x413 => decide (i.p 0 1 < 64) && decide (i.p 1 1 ≤ 64) && decide (i.p 2 1 ≤ 64) && i.p 1 1 != i.p 2 1 &&
      decide (i.p 3 2 ≤ 10000) && (i.p 5 8 == tmoveHalt || decide (i.p 5 8 < 2 ^ 48))
  | 0x414 | 0x415 => decide (i.p 0 1 < 64) && decide (i.p 1 1 < 16) && decide (0 < i.p 4 2)
  | 0x417 => decide (i.p 0 1 < 64) && decide (i.p 1 1 < 4) && decide (i.p 2 1 ≤ 64) && decide (i.p 3 1 ≤ 64)
  | 0x418 => decide (i.p 0 1 < 64) && decide (i.p 1 1 ≤ 1)
  | 0x41B | 0x41C => decide (i.p 0 1 < 64) && decide (i.p 1 1 < 16) && decide (i.p 2 2 ≤ 10000)
  | 0x41E => decide (0 < len) && len % 9 == 0 && s.fabricOn
  | 0x41F => decide (i.p 0 1 < 64) && decide (i.p 1 1 < 4)
  | 0x420 => decide (2 ≤ len) && decide (1 ≤ i.p 0 2) && decide (i.p 0 2 ≤ 11) && i.p 0 2 != Ty.domains && i.p 0 2 != Ty.grants
  | 0x421 => decide (i.p 0 2 < 4096) && decide (i.p 2 1 < 64) && decide (i.p 3 1 ≤ 1) && decide (i.p 20 1 < 128) &&
      decide (i.p 21 1 < 16) && decide (i.p 22 2 ≤ i.p 24 2) && decide (i.p 26 1 ≤ 64) && decide (i.p 27 1 < 4)
  | 0x422 | 0x424 => decide (i.p 0 2 < 4096)
  | 0x423 => decide (14 ≤ len) && len == 14 + 9 * i.p 13 1 && decide (i.p 0 2 < 4096) && decide (i.p 2 1 < 64) &&
      i.p 3 8 % 256 == 0 && decide (i.p 11 1 ≤ 12) && decide (i.p 12 1 ≤ 0xEF)
  | 0x425 => decide (4 ≤ len) && decide (i.p 0 2 < 256) && decide (1 ≤ i.p 2 2) && len == 4 + 3 * i.p 2 2
  | 0x426 => decide (i.p 0 2 < 256)
  | _ => false)

/-- The check of one item against the configuration before the set, after its removal pass and after the whole set: the
status of the first check it fails, 0 when it passes.
DESIGN CHOICE (log 45). -/
def State.itemCheck (s : State) (set : ChangeSet) (m0 m1 m2 : FMap Domain) (i : Item) : Nat :=
  let d := i.p 0 1
  let must (d : Nat) (k : Nat) : Nat := if !(cfgDom m2 d).valid then Ds.invalid else k
  if !s.itemFormed i then Ds.invalid
  else if 65537 ≤ set.iface ∧ !s.onlyNarrows (set.iface - 65537) i then Ds.notOwner
  else match i.code with
  | 0x411 => if (cfgDom m1 d).valid then Ds.conflict else s.domainFault m2 d
  | 0x412 => if (cfgDom m0 d).valid then 0 else Ds.invalid
  | 0x413 =>
    let t := i.p 0 1
    if i.p 1 1 < 64 ∧ !(cfgDom m0 (i.p 1 1)).tiles.getLsbD t then Ds.conflict
    else if i.p 1 1 < 64 ∧ (cfgDom m1 (i.p 1 1)).valid ∧ (cfgDom m1 (i.p 1 1)).tiles = 0 then Ds.noRes
    else if i.p 2 1 = 64 then 0
    else must (i.p 2 1) (if s.tileFree m2 (i.p 2 1) t && s.tileFree m1 64 t then 0 else Ds.conflict)
  | 0x414 =>
    must d (if FMap.has (cfgDom m1 d).windows (i.p 1 1) then Ds.conflict
      else if !s.windowInstalled i.window then Ds.invalid
      else if windowApart m2 d (i.p 1 1) i.window then 0 else Ds.conflict)
  | 0x415 => if FMap.find (cfgDom m0 d).windows (i.p 1 1) = some i.window then 0 else Ds.invalid
  | 0x416 => must d (if i.p 1 2 = 0 then Ds.noRes else 0)
  | 0x417 => must d (if sharesFit m1 (i.p 1 1) && sharesFit m2 (i.p 1 1) then 0 else Ds.noRes)
  | 0x418 => must d 0
  | 0x419 =>
    let adds := (set.items.filter (fun j => j.code == It.rootadd && j.p 0 1 == d)).length
    let dels := (set.items.filter (fun j => j.code == It.rootdel && j.p 0 1 == d)).length
    must d (if !rootOk d (i.p 1 1) (i.p 2 4) (i.p 6 1) (i.p 7 8) (i.p 15 8) then Ds.invalid
      else if 128 < (cfgDom m2 d).roots.length + adds - dels then Ds.noRes
      else 0)
  | 0x41A => if i.p 1 1 < (cfgDom m0 d).roots.length then 0 else Ds.invalid
  | 0x41B => must d (if !(s.port (i.p 1 1)).exists_ then Ds.invalid
      else if s.portFree m2 d (i.p 1 1) && s.portFree m1 64 (i.p 1 1) then 0 else Ds.conflict)
  | 0x41C => if (cfgDom m0 d).ports.getLsbD (i.p 1 1) then 0 else Ds.invalid
  | 0x41D => must d (if i.p 1 2 < 10 ∨ 520 < i.p 1 2 then Ds.noRes else 0)
  | 0x420 => if set.persist then 0 else Ds.invalid
  | 0x421 =>
    let x := cfgDom m2 (i.p 2 1)
    must (i.p 2 1) (if i.p 3 1 = 0 then
        (if i.p 4 8 % 4096 = 0 ∧ 0 < i.p 12 8 ∧ inWindows x (i.p 4 8) (i.p 12 8) then 0 else Ds.conflict)
      else if !x.tiles.getLsbD (i.p 20 1 / 2) then Ds.conflict
      else if i.p 4 8 + i.p 12 8 ≤ 0x80000 ∧ 0 < i.p 12 8 then 0 else Ds.invalid)
  | 0x422 => if FMap.has s.fabric.endpoints (i.p 0 2) then 0 else Ds.invalid
  | 0x423 =>
    let slots := 16 * 2 ^ i.p 11 1
    must (i.p 2 1) (if !inWindows (cfgDom m2 (i.p 2 1)) (i.p 3 8) (256 * slots) then Ds.conflict
      else if 8 < i.p 13 1 ∨ slots < (i.senders.map (·.quota)).sum then Ds.noRes
      else 0)
  | 0x424 => if FMap.has s.fabric.queues (i.p 0 2) then 0 else Ds.invalid
  | 0x425 => if 8192 < i.p 2 2 then Ds.noRes else 0
  | 0x426 => if FMap.has s.fabric.groups (i.p 0 2) then 0 else Ds.invalid
  | _ => 0

/-- The configurations after the removal pass and after the whole set. -/
def setStates (m : FMap Domain) (l : List Item) : FMap Domain × FMap Domain :=
  let m1 := l.foldl (fun m i => i.take (i.narrow m)) m
  (m1, l.foldl (fun m i => i.give m) m1)

/-- R613: the status of every item, 0 for one that passes. A set that as a whole breaks a rule no item answers for fails in
its last item.
DESIGN CHOICE (log 45). -/
def State.validate (s : State) (set : ChangeSet) : List Nat :=
  let (m1, m2) := setStates s.domains set.items
  let l := set.items.map (s.itemCheck set s.domains m1 m2)
  let whole := ((m2.filter (fun p => p.2.valid)).map (fun p => s.domainFault m2 p.1)).find? (· != 0)
  let l := if l.all (· == 0) then (match whole with | some st => l.dropLast ++ [st] | none => l) else l
  let last := if set.persist ∧ !s.pins.wpN then St.wprot else if s.auditFull then St.auditFull else 0
  l.map (fun st => if st = 0 then last else st)

/-! ### The DOMAINS and GRANTS sections (Table 18-6) -/

/-- A DOMAINS entry of 98 bytes. -/
def domainEntry (d : Nat) (x : Domain) : List Byte :=
  leBytes 1 d ++ leBytes 8 x.tiles.toNat ++
    (List.range 16).flatMap (fun w => match FMap.find x.windows w with
      | some v => leBytes 2 (v.base / 2 ^ 30) ++ leBytes 2 ((v.limit - v.base) / 2 ^ 30)
      | none => leBytes 4 0) ++
    leBytes 2 x.ways.toNat ++ (List.range 4).flatMap (fun c => leBytes 1 (FMap.get x.rsv c 0) ++ leBytes 1 (FMap.get x.cap c 0)) ++
    leBytes 1 (natOf x.specguard) ++ leBytes 2 x.ports.toNat ++ leBytes 2 x.power ++ leBytes 2 x.bootVol ++ leBytes 4 x.bootOff ++
    leBytes 4 x.loadOff

/-- The domain of a DOMAINS entry; a window of length 0 and a share of RSV and CAP 0 are not given.
DESIGN CHOICE (log 44). -/
def entryDomain (b : List Byte) : Nat × Domain :=
  let wins := (List.range 16).foldl (fun (m : FMap DWin) w =>
    let base := leAt b (9 + 4 * w) 2
    let len := leAt b (11 + 4 * w) 2
    if len = 0 then m else FMap.put m w { base := gib base, limit := gib (base + len) }) []
  let given := (List.range 4).filter (fun c => leAt b (75 + 2 * c) 2 != 0)
  let x : Domain :=
    { Domain.reset with
      valid := true, tiles := BitVec.ofNat 64 (leAt b 1 8), windows := wins,
      ways := if leAt b 73 2 = 0 then 0 else BitVec.ofNat 16 (leAt b 73 2),
      rsv := given.foldl (fun m c => FMap.put m c (leAt b (75 + 2 * c) 1)) [],
      cap := given.foldl (fun m c => FMap.put m c (leAt b (76 + 2 * c) 1)) [],
      specguard := leAt b 83 1 != 0, ports := BitVec.ofNat 16 (leAt b 84 2), power := leAt b 86 2, bootVol := leAt b 88 2,
      bootOff := leAt b 90 4, loadOff := leAt b 94 4 }
  (leAt b 0 1, { x with holder := x.bootThread, srcBoot := x.bootThread })

/-- The entries of a DOMAINS section, in order. -/
def domainEntries (b : List Byte) : List (Nat × Domain) :=
  (List.range (b.length / 98)).map (fun i => entryDomain ((b.drop (98 * i)).take 98))

/-- A root grant as GRANTS and ROOTADD give it: kind, object, rights, base and length, 22 bytes.
DESIGN CHOICE (log 44). -/
def rootGrant (b : List Byte) : Grant :=
  { Grant.reset with kind := leAt b 0 1, object := leAt b 1 4, rights := BitVec.ofNat 8 (leAt b 5 1), base := leAt b 6 8,
                     len := leAt b 14 8 }

/-- The bytes of a root grant. -/
def rootBytes (e : Grant) : List Byte :=
  leBytes 1 e.kind ++ leBytes 4 e.object ++ leBytes 1 e.rights.toNat ++ leBytes 8 e.base ++ leBytes 8 e.len

/-- The root grants of each domain in a GRANTS section: domain, count, then that many grants.
DESIGN CHOICE (log 44). -/
def grantEntries (b : List Byte) (fuel : Nat) : List (Nat × List Grant) :=
  match fuel with
  | 0 => []
  | k + 1 =>
    if b.length < 2 then []
    else
      let n := leAt b 1 1
      (leAt b 0 1, (List.range n).map (fun i => rootGrant ((b.drop (2 + 22 * i)).take 22))) ::
        grantEntries (b.drop (2 + 22 * n)) k

/-- The DOMAINS section of the configuration in force. -/
def State.domainsSection (s : State) : List Byte := s.domList.flatMap (fun d => domainEntry d (s.domain d))

/-- The GRANTS section of the configuration in force. -/
def State.grantsSection (s : State) : List Byte :=
  s.domList.flatMap (fun d =>
    let x := s.domain d
    leBytes 1 d ++ leBytes 1 x.roots.length ++ x.roots.flatMap (fun i => rootBytes (x.grant i)))

/-- Mints a root grant for a domain, held by its holding thread (R191). -/
def Domain.mintRoot (x : Domain) (e : Grant) : Domain :=
  match x.store.freeEntry with
  | some i => { x with store := x.store.mint i { e with holder := some x.holder, depth := 0, parent := 0 }, roots := x.roots ++ [i] }
  | none => x

/-! ### The boot overlay (R626 to R628, R751) -/

/-- A copy of the overlay at a page: its SEQ and its bytes, by the LENGTH of its image header. -/
def Seedbank.overlayCopy (b : Seedbank) (a : Nat) : Option (Nat × List Byte) :=
  let pg := b.readPage a
  let len := leAt pg 8 4
  let n := max 1 ((len + 55) / 56)
  if pageValid pg && decide (n ≤ 2048) then
    (b.copySeq a n).map (fun q => (q, ((List.range n).flatMap (fun k => (b.readPage (a + k)).take 56)).take len))
  else none

/-- The overlay R567 selects: the page its copy starts at, its SEQ and its bytes. -/
def Seedbank.overlay (b : Seedbank) : Option (Nat × Nat × List Byte) :=
  match b.overlayCopy Part.overlay, b.overlayCopy (Part.overlay + 2048) with
  | some x, some y => if seqLarger y.1 x.1 then some (Part.overlay + 2048, y) else some (Part.overlay, x)
  | some x, none => some (Part.overlay, x)
  | none, some y => some (Part.overlay + 2048, y)
  | none, none => none

/-- Writes an overlay image into the copy not selected, its first page last, and increments OVERLAYGEN in the same commit. -/
def Seedbank.writeOverlay (b : Seedbank) (now : Nat) (img : List Byte) : Seedbank :=
  let (dest, seq) := match b.overlay with
    | some (p, q, _) => (if p = Part.overlay then Part.overlay + 2048 else Part.overlay, (q + 1) % 2 ^ 32)
    | none => (Part.overlay, 1)
  let n := max 1 ((img.length + 55) / 56)
  (((b.putPages now (dest + 1) seq (img.drop 56) (n - 1)).smcPut now dest (framePage (img.take 56) seq)).increment now 3).commitNow

end Sys2Proof.Machine
end

