-- ==== Sys2Proof/Machine/Domains.lean ====
section
/-!
DEFINITION. Change sets and their apply (R609 to R643): building and ending sets, the removal and addition passes, quiescing,
halting and scrubbing tiles, persisting, and the direct commands DRELEASE, DSTART, OVCLEAR and THRESTART.
-/

namespace Sys2Proof.Machine

/-! ### Threads that start and stop -/

/-- The physical address of a domain's readback slice. -/
def readbackAt (d : Nat) : Nat := 0xFE0004000000 + d * 0x40000

/-- Thread `g` runs from `ip` in the state of a released boot thread (Table 18-7) with `ws` in w0 and on; every other
register is at reset. Grants waiting in its mailbox stay. -/
def State.release (s : State) (g ip : Nat) (ws : List Nat) : State :=
  let t : Thread := { Thread.reset g with run := .running, ip := BitVec.ofNat 48 ip, gmail := (s.thread g).gmail }
  s.setThread g (((List.range ws.length).zip ws).foldl (fun t p => t.setReg p.1 (BitVec.ofNat 64 p.2)) t)

/-- Aborts every busy Stream engine descriptor of a core (R426): those with requests in flight end with them. -/
def State.abortDescs (s : State) (c : Nat) : State :=
  (List.range 16).foldl (fun s n =>
    if (s.core c).descBusy n then (s.withdraw c n).onCore c (fun x => x.descEnds n 0x07 none) else s) s

/-- Stops a thread at a boundary: what it had in flight behind it is discarded, and its Tile Queue; its collective ends, its
windows are detached with park. A store that has retired is still performed. -/
def State.haltThread (s : State) (g : Nat) : State :=
  let s := (s.squash g).onThread g (fun t =>
    { t with run := .halted,
             tile := { t.tile with queue := [], waiting := false, move := none, resume := 0, timed := [], clock := 0 } })
  let s := (s.endGetWait g).onFabric (fun f => { f with
    ops := f.ops.filter (fun o => !(o.thread == g && o.kind == fabPut && decide (o.done < o.nrow))),
    colls := f.colls.filter (fun c => c.thread != g) })
  (List.range 8).foldl (fun s n => s.detachPark g n) s

/-- Revokes an entry of a domain and its descendants, when it is still in use. -/
def State.revokeTree (s : State) (d i : Nat) : State :=
  let st := (s.domain d).store
  if (st.entry i).inUse then s.revokeList d (i :: st.below i 16) else s

/-- Drops the root grants that have been revoked from the listing of a domain.
DESIGN CHOICE (log 48). -/
def State.pruneRoots (s : State) (d : Nat) : State :=
  s.onDomain d (fun x => { x with roots := x.roots.filter (fun i => (x.grant i).inUse && (x.grant i).depth == 0) })

/-- The thread that becomes the domain's holding thread when tile `t` leaves: the lowest-numbered of the tiles that remain. -/
def Domain.nextHolder (x : Domain) (t : Nat) : Nat :=
  let rest := (tilesIn x.tiles).filter (fun u => u != t && !x.evict.getLsbD u)
  match rest.head?.or ((tilesIn x.tiles).filter (· != t)).head? with
  | some u => 4 * u
  | none => x.holder

/-- Halts tile `t` of domain `d` (R620). `move` is false when the whole domain goes. -/
def State.haltTile (s : State) (d t : Nat) (move : Bool) : State :=
  let gs := upFrom (4 * t) 4
  let s := gs.foldl State.haltThread s
  let s := (s.abortDescs (2 * t)).abortDescs (2 * t + 1)
  let held := ((s.domain d).store.entries.filter (fun p =>
    p.2.inUse && ((decide (0 < p.2.depth) &&
      p.2.holder.any gs.contains) || gs.any (fun g => (s.thread g).gmail.contains p.1)))).map (·.1)
  let s := (held.foldl (fun s i => s.revokeTree d i) s).pruneRoots d
  if !move then s
  else s.onDomain d (fun x =>
    let h := x.nextHolder t
    let own (e : Grant) : Bool := e.inUse && e.depth == 0 && e.holder.any gs.contains
    { x with holder := if gs.contains x.holder then h else x.holder
             store := { x.store with entries := x.store.entries.map (fun p => if own p.2 then (p.1,
                                     { p.2 with holder := some h }) else p) } })

/-- Is a core without a coherence request, a writeback or a Stream engine descriptor in progress, and are the stores of its
threads performed (R620)? -/
def State.quiet (s : State) (c : Nat) : Bool :=
  let x := s.core c
  x.want.isEmpty && x.wb.isEmpty && x.later.isEmpty && !(List.range 16).any x.descBusy &&
    (s.thread (2 * c)).stq.isNone && (s.thread (2 * c + 1)).stq.isNone

/-- Writes back and invalidates the lines of DRAM of a core that `p` picks; one whose home is not idle leaves with a notice. -/
def State.flushCore (s : State) (c : Nat) (p : Nat → Bool) : State :=
  ((s.core c).l2use.filter (fun k => k.2 == dramTag && p k.1)).foldl (fun s k => (s.evict2 c k).getD s) s

/-- Does a core hold a line of DRAM that `p` picks? -/
def Core.holds (c : Core) (p : Nat → Bool) : Bool := c.l2use.any (fun k => k.2 == dramTag && p k.1)

/-- The cores of a tile. -/
def coresOf (t : Nat) : List Nat := upFrom (2 * t) 2

/-- The scrub of a tile (R621, R324), its caches written back: its threads and cores as at reset.
DESIGN CHOICE (log 47). -/
def State.scrubTile (s : State) (t : Nat) : State :=
  let s := (coresOf t).foldl (fun s c => s.setCore c Core.reset) s
  let s := (upFrom (4 * t) 4).foldl (fun s g => s.setThread g (Thread.reset g)) s
  s.onFabric (fun f => { f with threads := f.threads.filter (fun p => p.1 / 4 != t) })

/-! ### Eviction notices and cut-off (R619, Table 15-6) -/

/-- The domain a class Q item takes from. -/
def Item.loser (i : Item) : Nat := if i.code = It.tmove then i.p 1 1 else i.p 0 1

/-- The tiles a class Q item takes. -/
def State.itemTiles (s : State) (i : Item) : List Nat :=
  if i.code = It.tmove then [i.p 0 1] else if i.code = It.ddestroy then tilesIn (s.domain (i.p 0 1)).tiles else []

/-- The windows a class Q item takes. -/
def State.itemWindows (s : State) (i : Item) : List Nat :=
  if i.code = It.windel then [i.p 1 1] else if i.code = It.ddestroy then (s.domain (i.p 0 1)).windows.map (·.1) else []

/-- The root ports a class Q item takes. -/
def State.itemPorts (s : State) (i : Item) : List Nat :=
  if i.code = It.portdel then [i.p 1 1]
  else if i.code = It.ddestroy then (List.range 16).filter (fun p => (s.domain (i.p 0 1)).ports.getLsbD p)
  else []

/-- An applied item changes a slice: GEN counts it (R610). -/
def State.bumpGen (s : State) (d : Nat) : State :=
  if (s.domain d).valid then s.onDomain d (fun x => { x with gen := (x.gen + 1) % 2 ^ 32 }) else s

/-- The set being applied. -/
def State.applying (s : State) : Option ChangeSet := s.smc.sets.find? (fun x => x.st == .removal || x.st == .addition)

/-- Changes the set being applied. -/
def State.onApply (s : State) (f : ChangeSet → ChangeSet) : State :=
  { s with smc := { s.smc with sets := s.smc.sets.map (fun x => if x.st == .removal || x.st == .addition then f x else x) } }

/-- Item `k` of the set being applied. -/
def State.applyItem (s : State) (k : Nat) : Option Item := s.applying.bind (fun x => (x.items.drop k).head?)

/-- Replaces item `k` of the set being applied. -/
def State.setItem (s : State) (k : Nat) (i : Item) : State := s.onApply (fun x => { x with items := listSet x.items k i })

/-- The numbered items of the set being applied. -/
def State.itemsNow (s : State) : List (Nat × Item) :=
  match s.applying with | some x => (List.range x.items.length).zip x.items | none => []

/-- EVDL of a domain: the end of the grace period of its earliest pending notice. -/
def State.setEvdl (s : State) (d : Nat) : State :=
  let l := (s.itemsNow.filter (fun p =>
    p.2.phase != 0 && p.2.phase != 4 && p.2.loser == d && p.2.quiesces)).map (fun p => p.2.deadline)
  s.onDomain d (fun x => { x with evdl := match l with | [] => 0 | a :: r => r.foldl min a })

/-- EVICTION_NOTICE: step 1 of R619 for item `k`. -/
def State.notice15 (s : State) (k : Nat) : State :=
  match s.applyItem k with
  | none => s
  | some i =>
    let d := i.loser
    let s := s.setItem k { i with phase := 1, deadline := s.timeBase + i.grace }
    let s := s.onDomain d (fun x => { x with evict := (s.itemTiles i).foldl (fun m t => bitSet m t true) x.evict })
    ((s.setEvdl d).bumpGen d).raise d 0x000

/-- Revokes every DRAMSH grant that names a window, in every domain (R638). -/
def State.revokeShares (s : State) (d w : Nat) : State :=
  s.domList.foldl (fun s e =>
    let l := ((s.domain e).store.entries.filter (fun p => p.2.inUse && p.2.kind == 2 && p.2.object == d + w * 2 ^ 8)).map (·.1)
    (l.foldl (fun s i => s.revokeTree e i) s).pruneRoots e) s

/-- The cut-off of a root port: bus mastering off, and its pending MSI sources cleared.
DESIGN CHOICE (log 47). -/
def State.cutPort (s : State) (d p : Nat) : State :=
  let l := (s.port p).msi
  let s := s.onDomain d (fun x => l.foldl (fun x n => x.setSrc (0x300 + n) { x.src (0x300 + n) with pend := false }) x)
  s.onPort p (fun x => { x with msi := [], cfg := Mem.setByte x.cfg 4 (Mem.byte x.cfg 4 &&& 0xFB) })

/-- The cut-off of a class Q item at the end of its grace period (R619 step 3): the tiles are halted, grants on the windows
revoked, the ports cut. -/
def State.cutOff (s : State) (k : Nat) (forced : Bool) : State :=
  match s.applyItem k with
  | none => s
  | some i =>
    let d := i.loser
    let tiles := s.itemTiles i
    let wins := s.itemWindows i
    let s := s.setItem k { i with phase := 2, forced := forced, todo := tiles ++ wins.map (64 + ·) }
    let s := tiles.foldl (fun s t => s.haltTile d t (i.code == It.tmove)) s
    let s := (s.itemPorts i).foldl (fun s p => s.cutPort d p) s
    wins.foldl (fun s w => s.revokeShares d w) s

/-- Does a DRAM window hold a line? -/
def DWin.hasLine (v : DWin) (l : Nat) : Bool := decide (v.base ≤ 64 * l) && decide (64 * l < v.limit)

/-- The edge at which a window has no target for its domain: its lines leave the caches of the domain's cores. -/
def State.cutWindow (s : State) (d w : Nat) : State :=
  match FMap.find (s.domain d).windows w with
  | none => s
  | some v =>
    let s := s.onDomain d (fun x => { x with cutWin := w :: x.cutWin.filter (· != w) })
    ((tilesIn (s.domain d).tiles).flatMap coresOf).foldl (fun s c => s.flushCore c v.hasLine) s

/-! ### Records of progress (R618, R632) -/

/-- Base of the SMC journal in Ferric.
DESIGN CHOICE (log 40). -/
def smcJournal : Nat := 0x9200

/-- The journal of a set as its apply begins: active, set number, items, then each item's code, class, done mark and first
parameters.
DESIGN CHOICE (log 40). -/
def ChangeSet.journal (x : ChangeSet) : List Byte :=
  padTo 16 (leBytes 2 1 ++ leBytes 2 x.number ++ leBytes 2 x.items.length) ++
    x.items.flatMap (fun i => leBytes 2 i.code ++ leBytes 1 (itemClass i.code) ++ leBytes 5 0 ++ padTo 24 i.params)

/-- Writes Ferric bytes.
DESIGN CHOICE (log 40). -/
def State.ferricPut (s : State) (off : Nat) (bs : List Byte) : State :=
  { s with seed := { s.seed with ferric := Mem.splice s.seed.ferric off bs } }

/-- The audit record of item `k` (R588, R632). -/
def State.auditItem (s : State) (x : ChangeSet) (k : Nat) (i : Item) (status : Nat) : State :=
  s.audit (keyAudit x.iface) i.code x.number k status (itemClass i.code) i.params

/-- The audit record of item `k` of the set being applied, and its mark in the journal. -/
def State.record15 (s : State) (k : Nat) (status : Nat) : State :=
  match s.applying, s.applyItem k with
  | some x, some i => (s.auditItem x k i status).ferricPut (smcJournal + 16 + 32 * k + 3) [1]
  | _, _ => s

/-- At power-up every unfinished item of a set gets an audit record NOTRUN from the SMC (R632, R640).
DESIGN CHOICE (log 40). -/
def State.settleSets (s : State) : State :=
  let f := s.seed.ferric
  if Mem.byte f smcJournal = 1 then
    let number := leNat (Mem.read f (smcJournal + 2) 2)
    let n := leNat (Mem.read f (smcJournal + 4) 2)
    let s := (List.range n).foldl (fun s k =>
      let e := Mem.read f (smcJournal + 16 + 32 * k) 32
      if leAt e 3 1 = 0 then s.audit 5 (leAt e 0 2) number k Ds.notRun (leAt e 2 1) (e.drop 8) else s) s
    s.ferricPut smcJournal [0]
  else s

/-! ### The end of a quiesce -/

/-- R226: sources 0x000 to 0x00F that target a leaving thread go to the thread that holds the domain's roots. -/
def Domain.retarget (x : Domain) (t : Nat) : Domain :=
  (List.range 16).foldl (fun x n =>
    let c := x.src n
    if c.target / 4 = t then x.setSrc n { c with target := x.holder } else x) x

/-- Zeroes a domain's Seedbank partition and both its passwords (R585). -/
def Seedbank.wipe (b : Seedbank) (now d : Nat) : Seedbank :=
  let b := (List.range 256).foldl (fun b k => b.smcPut now (Part.domain d + k) (List.replicate 64 0)) b
  ((b.write1 now (pwPage d) (leBytes 16 0)).commitNow).onPart d (fun _ => SbPart.reset)

/-- The end of DDESTROY, its roots revoked and drained: partition and passwords zeroed, distributor and slices reset, VALID := 0.
DESIGN CHOICE (log 47). -/
def State.destroy (s : State) (d : Nat) : State :=
  let s := { s with seed := s.seed.wipe s.timeBase d }
  { s with domains := FMap.erase s.domains d, tileDom := s.tileDom.filter (fun p => p.2 != d),
           smc := { s.smc with slots := s.smc.slots.filter (fun p => p.1 / 16 != d) },
           loam := { s.loam with stackMap := s.loam.stackMap.map (fun p => (p.1, { p.2 with slices := FMap.erase p.2.slices d })) } }

/-- Steps 4 of R619: the audit record, then the resource leaves the domain's tables at one edge. -/
def State.takeAway (s : State) (k : Nat) : State :=
  match s.applyItem k with
  | none => s
  | some i =>
    let d := i.loser
    let status := if i.forced then Ds.forced else St.ok
    let s := s.record15 k status
    let s := s.setItem k { i with phase := 4, status := if i.code = It.tmove ∧ i.p 2 1 ≠ 64 then St.pending else status,
                                  removed := true }
    if i.code = It.ddestroy then s.destroy d
    else
      let s := { s with domains := i.take s.domains }
      let s := if i.code = It.tmove then
          { s with tileDom := FMap.erase s.tileDom (i.p 0 1) }.onDomain d (fun x =>
            { x with evict := bitSet x.evict (i.p 0 1) false }.retarget (i.p 0 1))
        else s
      (s.setEvdl d).bumpGen d

/-- Deletes the fabric object of FEPDEL, FQDEL or FGRPDEL. Sends that wait for a deleted queue are told (R693). -/
def State.fabricDelete (s : State) (i : Item) : State :=
  let n := i.p 0 2
  match i.code with
  | 0x422 => s.onFabric (fun f => { f with endpoints := FMap.erase f.endpoints n })
  | 0x424 =>
    let slots := match FMap.find s.fabric.queues n with | some q => q.slots.eraseDups | none => []
    let s := s.onFabric (fun f => { f with queues := FMap.erase f.queues n })
    slots.foldl (fun s x => s.sendPacket x.1 1 x.2 (.creditReturn x.2 n 0 0x04)) s
  | _ => s.onFabric (fun f => { f with groups := FMap.erase f.groups n })

/-- Item `k` moves on as far as it can. Its drain ended, its windows lose their target; nothing left to scrub or zero, its
resource is taken away, that of DDESTROY once the drain of its roots has ended too (R192). ROOTDEL, FEPDEL and FQDEL complete when
their drain ends, FGRPDEL with the group gone. DEDUCED (log 46). -/
def State.progress (s : State) (k : Nat) : State :=
  let s : State := match s.applyItem k with
    | some i =>
      if i.quiesces && i.phase == 2 && (i.todo.isEmpty || s.domList.all s.drained) then
        let s := s.setItem k { i with phase := 3 }
        (i.todo.filter (64 ≤ ·)).foldl (fun (s : State) w => s.cutWindow i.loser (w - 64)) s
      else if i.drains && i.phase == 2 && (i.code != It.rootdel || s.drained (i.p 0 1)) then
        let s := s.setItem k { i with phase := 4, status := St.ok, removed := true }
        if i.code == It.fgrpdel then (s.record15 k St.ok).fabricDelete i else s
      else s
    | none => s
  let s : State := match s.applyItem k with
    | some i =>
      if i.quiesces && i.phase == 3 && i.todo.isEmpty then
        let s := s.setItem k { i with phase := 5 }
        if i.code = It.ddestroy then (s.domain i.loser).roots.foldl (fun s r => s.revokeTree i.loser r) s else s
      else s
    | none => s
  match s.applyItem k with
  | some i => if i.phase == 5 && (i.code != It.ddestroy || s.drained i.loser) then s.takeAway k else s
  | none => s

/-- Ends the grace period of item `k`. -/
def State.endGrace (s : State) (k : Nat) (forced : Bool) : State := (s.cutOff k forced).progress k

/-! ### The removal pass (R616) -/

/-- What an item of class A that lowers or raises acts on: its code, its domain, and the class of a SHARESET. -/
def Item.target (i : Item) : Nat × List Byte := (i.code, i.params.take (if i.code = It.shareset then 2 else 1))

/-- Does an item only narrow, alone of its set in what it acts on? It is then whole at the removal edge. -/
def State.narrowsOnly (s : State) (i : Item) : Bool :=
  decide (i.narrow s.domains = i.give s.domains) && (s.itemsNow.filter (fun p => decide (p.2.target = i.target))).length == 1

/-- The class A edge and class E part of the removal pass for item `k`, its record made first when the item is whole there (R618).
-/
def State.removeEdge (s : State) (k : Nat) : State :=
  match s.applyItem k with
  | none => s
  | some i =>
    let d := i.p 0 1
    if i.code = It.rootdel then
      let s := s.record15 k St.ok
      let root := ((s.domain d).roots.drop (i.p 1 1)).head?
      let s := s.setItem k { i with phase := 2 }
      match root with
      | some r => ((s.revokeTree d r).bumpGen d)
      | none => s
    else if i.code = It.fepdel ∨ i.code = It.fqdel then ((s.record15 k St.ok).setItem k { i with phase := 2 }).fabricDelete i
    else if i.code = It.fgrpdel then s.setItem k { i with phase := 2 }
    else if i.narrows s.domains then
      let s := if s.narrowsOnly i then (s.record15 k St.ok).setItem k { i with added := true, status := St.ok } else s
      { s with domains := i.narrow s.domains }.bumpGen d
    else s

/-- REMOVAL_PASS: class A parts at one edge, class E parts, then the eviction notices of the class Q parts.
DEDUCED (log 46). -/
def State.removalPass (s : State) : State :=
  let ks := s.itemsNow.map (·.1)
  let doms := (s.itemsNow.filter (fun p => p.2.code == It.rootdel)).map (fun p => p.2.p 0 1)
  let s := ks.foldl State.removeEdge s
  let s := doms.foldl State.pruneRoots s
  (s.itemsNow.filter (fun p => p.2.quiesces)).foldl (fun s p => s.notice15 p.1) s

/-- Has every removal part been taken? -/
def State.removalDone (s : State) : Bool :=
  s.itemsNow.all (fun p => p.2.removed || !(p.2.quiesces || p.2.drains))

/-! ### The addition pass (R616) -/

/-- Has the fill of R755 passed a range of DRAM? -/
def State.fillPassed (s : State) (lo hi : Nat) : Bool :=
  (s.ddr.fills.isEmpty && !s.ddr.rest) || s.ddr.filled.any (fun r => decide (r.1 ≤ lo) && decide (hi ≤ r.2))

/-- A fabric object given by FEPSET, FQSET or FGRPSET. -/
def State.fabricGive (s : State) (i : Item) : State :=
  let n := i.p 0 2
  match i.code with
  | 0x421 =>
    let e : Endpoint :=
      { domain := i.p 2 1, base := i.p 4 8, len := i.p 12 8, core := if i.p 3 1 = 0 then none else some (i.p 20 1), rcnt := i.p 21 1,
        nodeLo := i.p 22 2, nodeHi := i.p 24 2, initDom := i.p 26 1, rights := BitVec.ofNat 8 (i.p 27 1) }
    s.onFabric (fun f => { f with endpoints := FMap.put f.endpoints n e })
  | 0x423 =>
    let q : RecvQueue :=
      { domain := i.p 2 1, base := i.p 3 8, sz := i.p 11 1, isrc := i.p 12 1, senders := i.senders, head := 0, tail := 0,
        slots := [] }
    s.putQueue n q
  | _ =>
    let l := List.range (i.p 2 2)
    let g : Group := { members := l.map (fun k => i.p (4 + 3 * k) 2), domains := l.map (fun k => i.p (6 + 3 * k) 1), seq := 0 }
    s.onFabric (fun f => { f with groups := FMap.put f.groups n g })

/-- Puts the tiles of a domain under its number. -/
def State.ownTiles (s : State) (d : Nat) (l : List Nat) : State :=
  { s with tileDom := l.foldl (fun m t => FMap.put m t d) s.tileDom }

/-- The start registers of a thread that a TMOVE releases: w0 the domain, w1 its readback slice, w4 NROOT. -/
def State.moveRegs (s : State) (d : Nat) : List Nat := [d, readbackAt d, 0, 0, (s.domain d).roots.length]

/-- The class A addition of item `k`, its record made before.
DEDUCED (log 46). -/
def State.addEdge (s : State) (k : Nat) : State :=
  match s.applyItem k with
  | none => s
  | some i =>
    let d := i.p 0 1
    if i.added then s
    else if i.code = It.tmove then
      if i.p 2 1 = 64 then s
      else
        let t := i.p 0 1
        let e := i.p 2 1
        let s := s.setItem k { i with added := true, status := if i.forced then Ds.forced else St.ok }
        let s := ({ s with domains := i.give s.domains }.ownTiles e [t]).bumpGen e
        let s := s.onDomain e (fun x => { x with srcs := x.srcs.filter (fun p => !(decide (0x100 ≤ p.1) && decide (p.1 < 0x200) &&
                                                 (p.1 - 0x100) / 4 == t)) })
        if i.p 5 8 = tmoveHalt then s
        else (upFrom (4 * t) 4).foldl (fun s g => s.release g (i.p 5 8) (s.moveRegs e)) s
    else if itemClass i.code = 1 ∧ i.adds then
      let s := s.setItem k { i with added := true, status := St.ok }
      match i.code with
      | 0x411 =>
        let s := ({ s with domains := i.give s.domains }.ownTiles d (tilesIn (BitVec.ofNat 64 (i.p 1 8)))).bumpGen d
        { s with loam := { s.loam with stackMap := s.loam.stackMap.map (fun p => (p.1,
                                       { p.2 with slices := FMap.erase p.2.slices d })) } }
      | 0x419 => (s.onDomain d (fun x => x.mintRoot (rootGrant (i.params.drop 1)))).bumpGen d
      | 0x421 | 0x423 => s.fabricGive i
      | 0x418 =>
        let s := { s with domains := i.give s.domains }.bumpGen d
        if i.p 1 1 = 0 then s.releaseGuard d else s
      | _ => if i.give s.domains = s.domains then s else { s with domains := i.give s.domains }.bumpGen d
    else s

/-- The class E addition of item `k`, begun. -/
def State.addVersion (s : State) (k : Nat) : State :=
  match s.applyItem k with
  | none => s
  | some i =>
    match i.code with
    | 0x41E => (s.setItem k { i with phase := 2, deadline := s.fabric.retired }).routeChange i.params
    | 0x41F => (s.setItem k { i with phase := 2 }).divset (i.p 0 1) (i.p 1 1)
    | 0x425 => ((s.record15 k St.ok).setItem k { i with added := true, status := St.ok }).fabricGive i
    | _ => s

/-- Completes a class E item whose old version is retired (R665, R702). -/
def State.endVersion (s : State) (k : Nat) : State :=
  match s.applyItem k with
  | none => s
  | some i =>
    let done := (i.code == It.routeset && decide (i.deadline < s.fabric.retired)) ||
      (i.code == It.divset && (s.clk (i.p 0 1)).target.isNone)
    if i.phase = 2 ∧ !i.added ∧ done then (s.record15 k St.ok).setItem k { i with added := true, status := St.ok, phase := 4 }
    else s

/-- The addition edge: every class A addition at once, once the fill has passed the ranges of its windows (R614, R755), then
the class E additions. -/
def State.additionEdge (s : State) : State :=
  let l := s.itemsNow
  let ready := l.all (fun p => p.2.code != It.winadd || s.fillPassed p.2.window.base p.2.window.limit)
  match s.applying with
  | some x =>
    if x.st == .removal && s.removalDone && ready then
      let s := s.onApply (fun x => { x with st := .addition, edge := true })
      let s := (l.filter (fun p => itemClass p.2.code == 1 && p.2.adds && !p.2.added)).foldl (fun s p => s.record15 p.1 St.ok) s
      let s := l.foldl (fun s p => s.addEdge p.1) s
      l.foldl (fun s p => s.addVersion p.1) s
    else s
  | none => s

/-- OVERLAY_WRITE: DOMAINS and GRANTS as they stand, every class D section, and the rest of the overlay before (R626). -/
def State.overlayWrite (s : State) (l : List Item) : State :=
  let old := match s.seed.overlay with | some (_, _, img) => sectMap img | none => []
  let own := FMap.put (FMap.put old Ty.domains s.domainsSection) Ty.grants s.grantsSection
  let all := (l.filter (fun i => i.code == It.resetcfg)).foldl (fun m i => FMap.put m (i.p 0 2) (i.params.drop 2)) own
  { s with seed := s.seed.writeOverlay s.timeBase (buildImage s.smc.imgGen all) }

/-- The finish of a set whose parts have all been applied (R616, R626). -/
def State.finishSet (s : State) : State :=
  match s.applying with
  | some x =>
    let l := (List.range x.items.length).zip x.items
    if x.st == .addition && x.items.all (fun i => i.added || !i.adds) then
      let s := (l.filter (fun p => p.2.code == It.resetcfg)).foldl (fun s p =>
        (s.record15 p.1 Ds.deferred).setItem p.1 { p.2 with status := Ds.deferred, added := true }) s
      let s := s.ferricPut smcJournal [0]
      let refused := x.persist && !s.pins.wpN
      let s := if x.persist && s.pins.wpN then s.overlayWrite x.items else s
      s.onApply (fun x => { x with st := .finished, status := if refused then Ds.persistFail else St.ok })
    else s
  | none => s

/-- The pass moves on: drains, versions and the finish.
DEDUCED (log 46). -/
def State.advance (s : State) (add : Bool) : State :=
  let ks := s.itemsNow.map (·.1)
  let s := ks.foldl State.progress s
  let s := if add then s.additionEdge else s
  (ks.foldl State.endVersion s).finishSet

/-! ### The rows of an apply -/

/-- CHANGE_SET_VALIDATE: the set at the head of the queue is validated whole; a failure rejects it, otherwise CSEND is
answered and its removal pass begins (R613, R616).
DEDUCED (log 46). -/
def execChangeSetValidate (s : State) : Host.Outcome State Fault Refusal :=
  .next (match s.applying, s.smc.sets.find? (fun x => x.st == .queued) with
    | none, some x =>
      let put (s : State) (y : ChangeSet) : State :=
        { s with smc := { s.smc with sets := s.smc.sets.map (fun z => if z.number = y.number then y else z) } }
      let answer (s : State) (status : Nat) (results : List Byte) : State :=
        match x.reply with | some r => s.answer r status results | none => s
      let l := s.validate x
      let l := if x.items.isEmpty then [Ds.invalid] else l
      match ((List.range l.length).zip l).find? (fun p => p.2 != 0) with
      | some (k, st) =>
        let items := List.zipWith (fun (i : Item) v => { i with status := if v = 0 then Ds.notRun else v }) x.items l
        let s := if s.auditFull then s
          else ((List.range items.length).zip items).foldl (fun s p => s.auditItem x p.1 p.2 p.2.status) s
        answer (put s { x with st := .rejected, status := st, items := items, reply := none }) st (leBytes 1 k ++ leBytes 1 st)
      | none =>
        let s := (answer (put s { x with st := .removal, status := Ds.accepted, edge := false,
                                         reply := none }) Ds.accepted []).ferricPut
          smcJournal x.journal
        s.removalPass
    | _, _ => s)

/-- GRACE_PERIOD_EXPIRY: the grace period of an item ends without DRELEASE, and its resource is cut off FORCED (R619). -/
def execGracePeriodExpiry (item : Nat) (s : State) : Host.Outcome State Fault Refusal :=
  .next (match s.applyItem item with
    | some i => if i.quiesces && i.phase == 1 && decide (i.deadline ≤ s.timeBase) then s.endGrace item true else s
    | none => s)

/-- The item being quiesced that still has a tile (below 64) or window (64 + w) of a domain to leave. -/
def State.todoItem (s : State) (x : Nat) (p : Item → Bool) : Option (Nat × Item) :=
  s.itemsNow.find? (fun q => q.2.quiesces && q.2.phase == 3 && q.2.todo.contains x && p q.2)

/-- The scrub of a halted tile: its caches are written back, and it completes once its cores hold no request and no line; the
removal edge follows (R621, R284). -/
def State.scrubDone (s : State) (tile : Nat) : State :=
  match s.todoItem tile (fun _ => decide (tile < 64)) with
  | some (k, i) =>
    let s := (coresOf tile).foldl (fun s c => s.flushCore c (fun _ => true)) s
    if (coresOf tile).all (fun c => s.quiet c && !(s.core c).holds (fun _ => true)) then
      ((s.scrubTile tile).setItem k { i with todo := i.todo.filter (· != tile) }).progress k
    else s
  | none => s

/-- Does the tile of a thread await its scrub? -/
def State.awaitsScrub (s : State) (g : Nat) : Bool :=
  s.itemsNow.any (fun q => q.2.quiesces && decide (2 ≤ q.2.phase) && q.2.todo.contains (g / 4))

/-- WINDOW_ZERO_DONE: a removed window, whose lines have left the domain's caches, reads as zero (Table 15-6). -/
def execWindowZeroDone (domain window : Nat) (s : State) : Host.Outcome State Fault Refusal :=
  .next (match s.todoItem (64 + window) (fun i => i.loser == domain), FMap.find (s.domain domain).windows window with
    | some (k, i), some w =>
      let cores := (tilesIn (s.domain domain).tiles).flatMap coresOf
      let s := cores.foldl (fun s c => s.flushCore c w.hasLine) s
      if cores.any (fun c => (s.core c).holds w.hasLine) then s
      else
        (({ s with dram := Mem.clear s.dram w.base w.limit }).setItem k { i with todo := i.todo.filter (· != 64 + window) }).progress k
    | _, _ => s)

/-- ADDITION_PASS (R616).
DEDUCED (log 46). -/
def execAdditionPass (s : State) : Host.Outcome State Fault Refusal := .next (s.advance true)

/-- An item's step: its removal part moves on; once the removal pass is complete, an item that gives takes its addition
edge with every class A item of the pass (R614). -/
def State.itemRow (s : State) (code k : Nat) : State :=
  match s.applyItem k with
  | some i => if i.code = code then s.advance (i.adds || i.code == It.resetcfg) else s
  | none => s

def execDcreate (item : Nat) (s : State) : Host.Outcome State Fault Refusal := .next (s.itemRow It.dcreate item)
def execDdestroy (item : Nat) (s : State) : Host.Outcome State Fault Refusal := .next (s.itemRow It.ddestroy item)
def execTmove (item : Nat) (s : State) : Host.Outcome State Fault Refusal := .next (s.itemRow It.tmove item)
def execWinadd (item : Nat) (s : State) : Host.Outcome State Fault Refusal := .next (s.itemRow It.winadd item)
def execWindel (item : Nat) (s : State) : Host.Outcome State Fault Refusal := .next (s.itemRow It.windel item)
def execWayset (item : Nat) (s : State) : Host.Outcome State Fault Refusal := .next (s.itemRow It.wayset item)
def execShareset (item : Nat) (s : State) : Host.Outcome State Fault Refusal := .next (s.itemRow It.shareset item)
def execGuardset (item : Nat) (s : State) : Host.Outcome State Fault Refusal := .next (s.itemRow It.guardset item)
def execRootadd (item : Nat) (s : State) : Host.Outcome State Fault Refusal := .next (s.itemRow It.rootadd item)
def execRootdel (item : Nat) (s : State) : Host.Outcome State Fault Refusal := .next (s.itemRow It.rootdel item)
def execPortadd (item : Nat) (s : State) : Host.Outcome State Fault Refusal := .next (s.itemRow It.portadd item)
def execPortdel (item : Nat) (s : State) : Host.Outcome State Fault Refusal := .next (s.itemRow It.portdel item)
def execPowerset (item : Nat) (s : State) : Host.Outcome State Fault Refusal := .next (s.itemRow It.powerset item)
def execRouteset (item : Nat) (s : State) : Host.Outcome State Fault Refusal := .next (s.itemRow It.routeset item)
def execDivset (item : Nat) (s : State) : Host.Outcome State Fault Refusal := .next (s.itemRow It.divset item)
def execResetcfg (item : Nat) (s : State) : Host.Outcome State Fault Refusal := .next (s.itemRow It.resetcfg item)
def execFepset (item : Nat) (s : State) : Host.Outcome State Fault Refusal := .next (s.itemRow It.fepset item)
def execFepdel (item : Nat) (s : State) : Host.Outcome State Fault Refusal := .next (s.itemRow It.fepdel item)
def execFqset (item : Nat) (s : State) : Host.Outcome State Fault Refusal := .next (s.itemRow It.fqset item)
def execFqdel (item : Nat) (s : State) : Host.Outcome State Fault Refusal := .next (s.itemRow It.fqdel item)
def execFgrpset (item : Nat) (s : State) : Host.Outcome State Fault Refusal := .next (s.itemRow It.fgrpset item)
def execFgrpdel (item : Nat) (s : State) : Host.Outcome State Fault Refusal := .next (s.itemRow It.fgrpdel item)

/-! ### Building and ending sets (R611, R612) -/

/-- A set of an interface that is not yet ended. -/
def State.openSet (s : State) (key n : Nat) : Option ChangeSet :=
  s.smc.sets.find? (fun x => x.number == n && x.iface == key && x.st == .building)

/-- Replaces a set by its number. -/
def State.putSet (s : State) (y : ChangeSet) : State :=
  { s with smc := { s.smc with sets := s.smc.sets.map (fun z => if z.number = y.number then y else z) } }

/-- CSBEGIN. -/
def cmdCsbegin (s : State) (c : SynryReq) : CmdEnd :=
  if 4 ≤ (s.smc.sets.filter (fun x => x.st == .building)).length then .done Ds.setBusy [] s
  else
    let n := s.smc.nextSet % 65536
    let y : ChangeSet :=
      { number := n, iface := ifaceKey c.iface, persist := c.flags.getLsbD 0, items := [], st := .building, status := St.pending,
        edge := false, reply := none }
    .done St.ok (leBytes 2 n)
      { s with smc := { s.smc with sets := s.smc.sets.filter (fun x => x.number != n) ++ [y], nextSet := n + 1 } }

/-- CSITEM: appended, nothing checked yet; a set holds at most 256 items.
DESIGN CHOICE (log 45). -/
def cmdCsitem (s : State) (c : SynryReq) : CmdEnd :=
  match s.openSet (ifaceKey c.iface) (c.p 0 2) with
  | none => .done Ds.noSet [] s
  | some x =>
    if 256 ≤ x.items.length then .done Ds.invalid [] s
    else
      let i : Item :=
        { code := c.p 2 2, params := c.params.drop 4, status := St.pending, phase := 0, deadline := 0, forced := false, todo := [],
          removed := false, added := false }
      .done St.ok [] (s.putSet { x with items := x.items ++ [i] })

/-- CSEND: the set joins the queue behind at most four others; it is answered when it has been validated.
DESIGN CHOICE (log 45). -/
def cmdCsend (s : State) (c : SynryReq) : CmdEnd :=
  match s.openSet (ifaceKey c.iface) (c.p 0 2) with
  | none => .done Ds.noSet [] s
  | some x =>
    if 5 ≤ (s.smc.sets.filter (fun y => y.st == .queued || y.st == .removal || y.st == .addition)).length then
      .done Ds.setBusy [] s
    else
      let r : Reply := { iface := c.iface, tag := c.tag, code := 0x403 }
      .run { s with smc := { s.smc with sets := s.smc.sets.filter (fun y => y.number != x.number) ++
                                        [{ x with st := .queued, reply := some r }] } }

/-- CSABORT. -/
def cmdCsabort (s : State) (c : SynryReq) : CmdEnd :=
  match s.openSet (ifaceKey c.iface) (c.p 0 2) with
  | none => .done Ds.noSet [] s
  | some x => .done St.ok [] { s with smc := { s.smc with sets := s.smc.sets.filter (fun y => y.number != x.number) } }

/-- The number of a set's state in CSSTATUS. -/
def SetSt.num (x : SetSt) : Nat :=
  match x with | .building => 0 | .queued => 1 | .removal => 2 | .addition => 3 | .finished => 4 | .rejected => 5

/-- CSSTATUS: the set's state and status, and the status of every item. -/
def cmdCsstatus (s : State) (c : SynryReq) : CmdEnd :=
  match s.smc.sets.find? (fun x => x.number == c.p 0 2 && x.iface == ifaceKey c.iface) with
  | none => .done Ds.noSet [] s
  | some x => .done St.ok (leBytes 1 x.st.num ++ leBytes 1 x.status ++ x.items.flatMap (fun i => leBytes 1 i.status)) s

/-! ### Direct commands (R623, R628, R723) -/

/-- Does a class Q item in its grace period take a resource of a domain? -/
def Item.releases (i : Item) (d kind index : Nat) : Bool :=
  i.quiesces && i.phase == 1 && i.loser == d &&
    (match kind with
    | 0 => i.code == It.tmove && i.p 0 1 == index
    | 1 => i.code == It.windel && i.p 1 1 == index
    | 2 => i.code == It.portdel && i.p 1 1 == index
    | _ => i.code == It.ddestroy)

/-- DRELEASE (Table 15-8): the grace period of the resource ends at once. -/
def cmdDrelease (s : State) (c : SynryReq) : CmdEnd :=
  let d := c.iface.domain
  let kind := c.b 0
  let n := c.b 1
  let x := s.domain d
  let most := match kind with | 0 => 63 | 1 => 15 | 2 => 15 | _ => 0
  let owns := match kind with
    | 0 => x.tiles.getLsbD n
    | 1 => FMap.has x.windows n
    | 2 => x.ports.getLsbD n
    | _ => x.valid
  if 3 < kind ∨ most < n then .done St.badParam [] s
  else if !owns then .done Ds.notOwner [] s
  else match s.itemsNow.find? (fun p => p.2.releases d kind n) with
    | none => .done Ds.invalid [] s
    | some (k, _) => .done St.ok [] (s.endGrace k false)

/-- DSTART (Table 15-8): a halted thread of the domain starts at IP; the scrub of its tile comes first.
DESIGN CHOICE (log 47). -/
def cmdDstart (s : State) (c : SynryReq) : CmdEnd :=
  let d := c.iface.domain
  let g := c.b 0
  let ip := c.p 8 8
  if 2 ^ 48 ≤ ip then .done St.badParam [] s
  else if s.awaitsScrub g then .hold
  else if !s.inDomain g d then .done Ds.notOwner [] s
  else if (s.thread g).run ≠ .halted then .done St.notStopped [] s
  else .done St.ok [] (s.release g ip [d, readbackAt d])

/-- OVCLEAR: an empty overlay, refused while WP_N is low (R628). -/
def cmdOvclear (s : State) (_ : SynryReq) : CmdEnd :=
  if !s.pins.wpN then .done St.wprot [] s
  else .done St.ok [] { s with seed := s.seed.writeOverlay s.timeBase (buildImage s.smc.imgGen []) }

/-- THRESTART (R723): one Wedged or halted thread restarts, its windows detached with park; its grants, its core's TSB and
the other thread are unchanged. The scrub of its tile comes first (R734). -/
def cmdThrestart (s : State) (c : SynryReq) : CmdEnd :=
  let g := c.b 0
  let ip := c.p 8 8
  if 2 ^ 48 ≤ ip then .done St.badParam [] s
  else if s.awaitsScrub g then .hold
  else if (fromDomain c.iface).any (fun d => !s.inDomain g d) then .done St.notPermitted [] s
  else if (s.thread g).run = .running then .done St.notStopped [] s
  else
    let s := (List.range 8).foldl (fun s n => s.detachPark g n) s
    let s := s.onCore (g / 2) (fun k => { k with modeDrain := if k.modeDrain = some g then none else k.modeDrain })
    .done St.ok [] (s.release g ip [])

def execCsbegin (c : SynryReq) (s : State) : Host.Outcome State Fault Refusal := .next (s.command 0x401 cmdCsbegin c)
def execCsitem (c : SynryReq) (s : State) : Host.Outcome State Fault Refusal := .next (s.command 0x402 cmdCsitem c)
def execCsend (c : SynryReq) (s : State) : Host.Outcome State Fault Refusal := .next (s.command 0x403 cmdCsend c)
def execCsabort (c : SynryReq) (s : State) : Host.Outcome State Fault Refusal := .next (s.command 0x404 cmdCsabort c)
def execCsstatus (c : SynryReq) (s : State) : Host.Outcome State Fault Refusal := .next (s.command 0x405 cmdCsstatus c)
def execDrelease (c : SynryReq) (s : State) : Host.Outcome State Fault Refusal := .next (s.command 0x406 cmdDrelease c)
def execDstart (c : SynryReq) (s : State) : Host.Outcome State Fault Refusal := .next (s.command 0x407 cmdDstart c)
def execOvclear (c : SynryReq) (s : State) : Host.Outcome State Fault Refusal := .next (s.command 0x408 cmdOvclear c)
def execThrestart (c : SynryReq) (s : State) : Host.Outcome State Fault Refusal := .next (s.command 0x102 cmdThrestart c)

end Sys2Proof.Machine
end

