-- ==== Sys2Proof/Machine/Frames.lean ====
section
/-!
DEFINITION. Synry frames as they come in (R716, R719 to R722): the management port, domain mailboxes and VC3; the commands that
wait for their block; and the Seedbank commits that complete them.
-/

namespace Sys2Proof.Machine

/-- What the command of a code does, none when the code is undefined (Table 17-7). -/
def cmdBody (code : Nat) : Option (State → SynryReq → CmdEnd) :=
  match code with
  | 0x001 => some cmdIdent | 0x002 => some cmdStatus | 0x003 => some cmdTime
  | 0x004 => some cmdSense | 0x005 => some cmdPowerread | 0x006 => some cmdClkread
  | 0x101 => some cmdPkglimit | 0x102 => some cmdThrestart | 0x103 => some cmdVrread
  | 0x201 => some cmdLopen | 0x202 => some cmdLstage | 0x203 => some cmdLzero | 0x204 => some cmdLcommit
  | 0x205 => some cmdLabort | 0x206 => some cmdLvcreate | 0x207 => some cmdLvresize | 0x208 => some cmdLvdelete
  | 0x209 => some cmdLparam | 0x20A => some cmdLhealth
  | 0x301 => some cmdSbread | 0x302 => some cmdSbwrite | 0x303 => some cmdSbcommit | 0x304 => some cmdSbunlock
  | 0x305 => some cmdSbsetpw | 0x306 => some cmdSbclose | 0x307 => some (cmdRing Part.audit 12288)
  | 0x308 => some (cmdRing Part.log 4096) | 0x309 => some cmdSbauditclr | 0x30A => some cmdSbcount | 0x30B => some cmdSbhealth
  | 0x401 => some cmdCsbegin | 0x402 => some cmdCsitem | 0x403 => some cmdCsend | 0x404 => some cmdCsabort
  | 0x405 => some cmdCsstatus | 0x406 => some cmdDrelease | 0x407 => some cmdDstart | 0x408 => some cmdOvclear
  | 0x501 => some cmdFrescan
  | _ => none

/-- What the command of a code does; of an undefined code, BADCODE. -/
def cmdRun (code : Nat) : State → SynryReq → CmdEnd := (cmdBody code).getD (fun s _ => .done St.badCode [] s)

/-- Starts again, in order of arrival, the commands that wait for their block or for room in a buffer (R38, R571). -/
def State.runWaiting (s : State) : State :=
  (s.smc.waiting.foldl (fun (s : State) w =>
    s.runCommand { iface := w.2.iface, tag := w.2.tag, code := w.1 } (cmdRun w.1) w.2)
    { s with smc := { s.smc with waiting := [] } }).answerWaiters

/-- The same, when some command waits: a page, a block or a volume that a command waited for may be free (R533, R558). -/
def State.retryWaiting (s : State) : State := if s.smc.waiting.isEmpty then s else s.runWaiting

/-- SCRUB_DONE (R621): a command that waited for the scrub goes on (R734). -/
def execScrubDone (tile : Nat) (s : State) : Host.Outcome State Fault Refusal := .next (s.scrubDone tile).retryWaiting

/-- Does a frame match its LEN and its CRC-32C? A mailbox frame carries no CRC and fills its slot (R716). -/
def frameOk (frame : List Byte) (crc : Bool) : Bool :=
  let n := 8 + leAt frame 4 2
  decide (leAt frame 4 2 ≤ 480) && (if crc then frame.length == n + 4 &&
    leAt frame n 4 == crc32c (frame.take n) else decide (n ≤ frame.length))

/-- A frame taken in at an interface: a bad one gets BADFRAME under its TAG and nothing else happens; a good one is the command
it carries. One that comes before step 1 completes is taken in then (R38).
DESIGN CHOICE (log 36). -/
def State.frameIn (s : State) (iface : Iface) (frame : List Byte) (crc : Bool) : State :=
  let tag := frame.headD 0
  let code := leAt frame 2 2
  let len := leAt frame 4 2
  let r : Reply := { iface := iface, tag := tag, code := code }
  let pend := match iface with
    | .mailbox _ _ _ _ => false
    | _ => (FMap.find (s.tagsOf iface) tag.toNat).any (fun p => p.pend)
  if !s.smcPowered then s
  else if !s.smc.up then { s with smc := { s.smc with early := s.smc.early ++ [(iface, frame, crc)] } }
  else if frameOk frame crc then
    (s.command code (cmdRun code)
      { iface := iface, tag := tag, flags := (frame.drop 1).headD 0, params := (frame.drop 8).take len }).answerWaiters
  else s.answerAs r pend St.badFrame []

/-- MGMT_WRITE_FRAME (R719): not taken while 16 TAGs are pending. -/
def execMgmtWriteFrame (frame : List Byte) (s : State) : Host.Outcome State Fault Refusal :=
  .next (if 16 ≤ pendingTags s.smc.mgmt then s else s.frameIn .mgmt frame true)

/-- MGMT_READ_RESPONSE (R719): the latest response of a TAG; a TAG that holds none reads as CODE 0 and BADCODE (R736).
DESIGN CHOICE (log 36). -/
def execMgmtReadResponse (tag : Byte) (s : State) : Host.Outcome State Fault Refusal :=
  let out := match FMap.find s.smc.mgmt tag.toNat with
    | some r => responseFrame tag r.status r.code r.results
    | none => responseFrame tag St.badCode 0 []
  .next (if s.smcRuns then { s with smc := { s.smc with mgmtOut := sealFrame out } } else s)

/-- VC3_FRAME (R722). -/
def execVc3Frame (node : Nat) (frame : List Byte) (s : State) : Host.Outcome State Fault Refusal :=
  .next (s.frameIn (.vc3 node) frame true)

/-- A store of `v` to SLOTCTL of slot `n` of class `k` (Table 17-10), once its grant check has passed and the slot is not
busy. -/
def State.slotCtl (s : State) (g d k n v : Nat) : State :=
  if bitOf v 0 then
    let key := slotKey d k n
    let s := s.onSlot key (fun m => { m with ien := bitOf v 1 })
    s.frameIn (.mailbox d k n g) (Mem.block (s.slot key).req 0 512) false
  else s

/-- MAILBOX_GO (R721): SUBMIT is needed; a busy slot holds the store. -/
def execMailboxGo (w : CsStore) (s : State) : Host.Outcome State Fault Refusal :=
  let g := w.thread
  let pa := BitVec.ofNat 64 (0xFE0000000000 + w.offset)
  .next (match csLocate w.offset with
    | .mbox d off =>
      if !(s.csReaches w (fun _ => off % 0x400 == 0x3F8) && bitOf w.value.toNat 0) then s
      else match s.csGrant g d w.offset true none with
        | .error c => s.fault g (Flt.mk' 0x0C c pa)
        | .ok _ =>
          let k := off / 0x1000
          let n := off % 0x1000 / 0x400
          if (s.slot (slotKey d k n)).state = 1 then s.holdStore g .busySlot w.offset w.value.toNat
          else (s.holdAt g .none).slotCtl g d k n w.value.toNat
    | _ => s)

/-! ### Seedbank commits (R569 to R576) and patrol -/

/-- A commit that has begun answers the commands it completes; room it made starts the ones that hold.
DESIGN CHOICE (log 39). -/
def State.afterCommit (s : State) : State := s.answerWaiters.runWaiting

/-- COMMIT_BUFFER_TIMEOUT (R570): the open buffer, its first write 10 ms old, starts when the other is free. -/
def execCommitBufferTimeout (s : State) : Host.Outcome State Fault Refusal :=
  .next (if s.seed.recovered then (s.onSeed (fun b => b.kick s.timeBase)).afterCommit else s)

/-- SEEDBANK_COMMIT (R573): the commit of the open buffer starts when one of the conditions of R570 holds. -/
def execSeedbankCommit (s : State) : Host.Outcome State Fault Refusal :=
  .next (if s.seed.recovered then (s.onSeed (fun b => b.kick s.timeBase)).afterCommit else s)

/-- SEEDBANK_PAGE_PROGRAMMED (R576, R581): the next page of the commit programs or fails its verify; a buffer that frees
lets the other start. -/
def execSeedbankPageProgrammed (verified : Bool) (s : State) : Host.Outcome State Fault Refusal :=
  .next (if s.seed.recovered then ((s.pageProgrammed verified).onSeed (fun b => b.kick s.timeBase)).afterCommit else s)

/-- SEEDBANK_PATROL (R580). -/
def execSeedbankPatrol (page : Nat) (found : PageFound) (s : State) : Host.Outcome State Fault Refusal :=
  .next (s.patrolPage page found).afterCommit

/-- FERRIC_WRITE (R562): an aligned unit of 16 bytes is written whole, or not at all. -/
def execFerricWrite (offset : Nat) (data : List Byte) (completes : Bool) (s : State) : Host.Outcome State Fault Refusal :=
  .next (if completes ∧ offset % 16 = 0 ∧ offset < 0x10000 ∧ data.length = 16 then
      { s with seed := { s.seed with ferric := Mem.splice s.seed.ferric offset data } }
    else s)

/-- SEEDBANK_RECOVERY (R577): step 2, once step 1 is done and VSEED, the third rail of Table 18-2, is within its limits; the log
records that the SMC held, and the items of a change set that a power cut left, are then recorded. Step 3 begins. -/
def execSeedbankRecovery (s : State) : Host.Outcome State Fault Refusal :=
  .next (if s.smcRuns ∧ s.smc.step = 2 ∧ !s.seed.recovered ∧ 3 ∉ s.smc.railBad then
      let s := s.recoverSeed.settleSets
      { s with smc := { s.smc with step := 3, stepBegan := s.timeBase } }
    else s)

end Sys2Proof.Machine
end

