-- ==== Sys2Proof/Machine/Startup.lean ====
section
/-!
DEFINITION. Resets and start-up (R735 to R775, R647 to R652, R785 to R787, R802, R812): what a reset stops and keeps, the
eleven steps in order with their failures, Tussock assembly, the creation of domains and the release of their boot threads.
-/

namespace Sys2Proof.Machine

/-! ### What a reset stops (R736, Table 18-1) -/

/-- A Loam stack as a reset leaves it: its operations end, a cut erase is incomplete (R535, R536), its registers are at reset.
DESIGN CHOICE (log 43). -/
def Stack.cut (x : Stack) : Stack :=
  { x with
    ready := false
    state := 0
    temp := 0
    programs := []
    reads := []
    waiting := []
    buffer := []
    mapTop := []
    mapLeaf := []
    slices := []
    blocks := x.blocks.map (fun b =>
      if b.2.st == .erasing || b.2.st == .suspended then (b.1, { b.2 with st := .incomplete }) else b) }

/-- A session that a reset cut off answers nobody; what it staged is settled at recovery. -/
def Session.cut (z : Session) : Session := { z with ops := [], reply := none }

/-- Seedbank as a reset leaves it: the open buffer and every open state are lost, the journal and the cells stay (R577, R583); the
page that was being programmed fails its check until recovery programs it again (R563). DESIGN CHOICE (log 39). -/
def Seedbank.cut (b : Seedbank) : Seedbank :=
  let torn : List Nat := match b.commit with | some c => (c.todo.take 1).map (fun p => p.1) | none => []
  { b with bad := b.bad ++ torn.filter (fun i => !b.bad.contains i), recovered := false,
           openBuf := { b.openBuf with images := [], first := none, asked := false }, commit := none,
           parts := [], waiters := [] }

/-- The SMC keeps the management port, its sensors, its log queue and the number of the next change set; commands, sets,
mailboxes and the configuration go (R736). -/
def Smc.cut (m : Smc) : Smc :=
  { m with
    step := if m.up then 2 else 1
    fail := 0
    ovlUsed := false
    sigChk := false
    fromCs1 := false
    imgGen := 0
    config := []
    image := []
    mgmt := []
    vc3 := []
    slots := []
    waiting := []
    early := []
    sets := []
    clk := m.clk.map (fun c => (c.1, c.2.stopped))
    ppt := 450
    pptNext := 450
    factor := 1024
    rpll := false }

/-- Every block but the SMC stops (R736). DRAM keeps its bytes.
DESIGN CHOICE (log 4).
DEDUCED (log 54). -/
def State.stopBlocks (s : State) : State :=
  let x := State.reset
  { s with
    threads := []
    cores := []
    lines := []
    msgs := []
    stops := []
    agentWant := []
    missWait := []
    misses := []
    l3 := []
    dirUse := []
    loam := { s.loam with stackMap := s.loam.stackMap.map (fun p => (p.1, p.2.cut)), sessions := s.loam.sessions.map Session.cut,
                           compacts := s.loam.compacts.map (fun z => { z with reply := none }) }
    seed := s.seed.cut
    domains := []
    tileDom := []
    fabric := x.fabric
    ports := []
    ddr := x.ddr
    smc := s.smc.cut
    pins := { s.pins with perstN := 0, spiOwned := true, prochotN := true } }

/-! ### Rails, straps and resets -/

/-- EXTEST, CLAMP and HIGHZ hold the lands only while RESET_N is low (R798, R815). -/
def State.tapUpdate (s : State) : State :=
  let low := !s.pins.resetN
  { s with tap := { s.tap with control := low && (s.tap.ir == 0x00 || s.tap.ir == 0x04), highz := low && s.tap.ir == 0x05 } }

/-- VAUX_RISE (R735, R736, R703): the SMC is reset and the time base cleared. -/
def execVauxRise (s : State) : Host.Outcome State Fault Refusal :=
  .next (if s.pins.vaux && s.smc.up then s
    else
      let s := s.stopBlocks
      { s with timeBase := 0, smc := Smc.reset, pins := { s.pins with vaux := true, thermtripN := true, alertN := true },
               tap := Tap.reset })

/-- VAUX_FALL: everything stops, and what the SMC holds is lost. -/
def execVauxFall (s : State) : Host.Outcome State Fault Refusal :=
  let s := s.stopBlocks
  .next { s with smc := Smc.reset, pins := { s.pins with vaux := false, pwrgood := false, thermtripN := true, alertN := true } }

/-- SMC_BOOT: step 1, once per VAUX rise (R736); the commands that came before it start (R38). -/
def execSmcBoot (s : State) : Host.Outcome State Fault Refusal :=
  .next (if s.pins.vaux && !s.smc.up then
      let s' : State := { s with smc := { s.smc with up := true, step := 2, early := [] } }
      s.smc.early.foldl (fun s f => s.frameIn f.1 f.2.1 f.2.2) s'.runWaiting
    else s)

/-- PWRGOOD_RISE: a cold reset begins (R735). -/
def execPwrgoodRise (s : State) : Host.Outcome State Fault Refusal :=
  .next (if s.pins.pwrgood || !s.pins.vaux then s
    else
      ({ s with pins := { s.pins with pwrgood := true, pwrgoodAt := s.timeBase, spiOwned := true },
                smc := { s.smc with warm := false, railBad := [], refLost := false } } : State).setAlert)

/-- PWRGOOD_FALL (R736). -/
def execPwrgoodFall (s : State) : Host.Outcome State Fault Refusal :=
  .next (if s.pins.pwrgood then
      let s := s.stopBlocks
      ({ s with pins := { s.pins with pwrgood := false } } : State).setAlert
    else s)

/-- RESET_N_FALL (R736). -/
def execResetNFall (s : State) : Host.Outcome State Fault Refusal :=
  .next (if !s.pins.resetN then s
    else
      let s := ({ s with pins := { s.pins with resetN := false } } : State).tapUpdate
      if s.pins.pwrgood then
        let s := s.stopBlocks
        ({ s with smc := { s.smc with warm := true } } : State).setAlert
      else s)

/-- RESET_N_RISE (R739): the straps are sampled; a member puts ports 0 to 3 in Tussock mode (R647). -/
def execResetNRise (bootSrc tussockId : BitVec 2) (s : State) : Host.Outcome State Fault Refusal :=
  .next (if s.pins.resetN then s
    else
      let s : State :=
        { s with pins := { s.pins with resetN := true, bootSrc := bootSrc, tussockId := tussockId },
                 smc := { s.smc with refLost := false } }
      let s := if tussockId = 0 then s else (List.range 4).foldl (fun s p => s.onFport p (fun x => { x with mode := 2 })) s
      s.setAlert.tapUpdate)

/-- RAIL_UNDERVOLT (R802): a rail of Table 18-2 below its minimum while PWRGOOD is high is a fall of PWRGOOD.
DEDUCED (log 54). -/
def execRailUndervolt (rail : Nat) (s : State) : Host.Outcome State Fault Refusal :=
  .next (if s.pins.pwrgood ∧ 2 ≤ rail ∧ rail ≤ 7 then
      let s := s.stopBlocks
      let s := (({ s with pins := { s.pins with pwrgood := false } } : State).log 0x000D rail [])
      ({ s with smc := { s.smc with railBad := rail :: s.smc.railBad.filter (· != rail) } } : State).setAlert
    else s)

/-- REFCLK_LOSS (R812): every clock but SCLK and the time base stops, until a reset.
DEDUCED (log 54). -/
def execRefclkLoss (s : State) : Host.Outcome State Fault Refusal :=
  .next (if s.smcRuns ∧ !s.smc.refLost then
      let m := s.smc
      let s := s.stopBlocks
      let s := ({ s with smc := { m with rpll := false, refLost := true, clk := m.clk.map (fun c => (c.1,
                                         c.2.stopped)) } } : State).log 0x000E 0 []
      s.setAlert
    else s)

/-- The temperature that trips for a sensor, 0–63 tile or 64–71 I/O die, when it has read 115 °C twice running (Table 17-4). -/
def State.tripTemp (s : State) (sensor : Nat) : Option Int :=
  if sensor < 64 then (if (s.clk sensor).tempHot then some (s.clk sensor).temp else none)
  else if s.smc.ioHot.contains (sensor - 64) then some (FMap.get s.smc.ioTemp (sensor - 64) 0) else none

/-- THERMAL_TRIP (R710): THERMTRIP_N, and every clock stops until VAUX is cycled.
DEDUCED (log 54). -/
def execThermalTrip (sensor : Nat) (s : State) : Host.Outcome State Fault Refusal :=
  .next (if !s.smcRuns then s
    else match s.tripTemp sensor with
      | none => s
      | some t =>
        let s := (s.log 0x000B sensor (leBytes 2 (t % 65536).toNat)).stopBlocks
        { s with smc := { s.smc with tripped := true }, pins := { s.pins with thermtripN := false } })

/-! ### Steps 3 and 4: the image and the overlay -/

/-- Is step `k` in progress, with nothing that holds start-up? -/
def State.atStep (s : State) (k : Nat) : Bool :=
  s.smcRuns && s.smc.step == k && s.smc.fail == 0 && !s.smc.refLost && s.pins.pwrgood && s.pins.resetN

/-- A failure of Table 18-4 that halts start-up (R741). -/
def State.halt (s : State) (code : Nat) : State :=
  (({ s with smc := { s.smc with fail := code } } : State).log 0x000F s.smc.step (leBytes 1 code)).setAlert

/-- Is a source's image valid (R746, R747)? -/
def sourceValid (x : FlashSource) : Bool := imageChecks x.bytes && signatureOk x.bytes x

/-- The first section of an overlay that fails steps 4 to 6 of R746, by TYPE; none when all pass. -/
def overlayFault (img : List Byte) : Option Nat :=
  let l := sectTable img
  match l.find? (fun t => !t.ok img (leAt img 8 4) l.length) with
  | some t => some t.type
  | none => (upFrom 0 l.length).findSome? (fun i =>
      if sectsApart (l.take (i + 1)) then none else (l.drop i).head?.map (·.type))

/-- The initial passwords of the SEEDBANK section, each where none is set (R749).
DESIGN CHOICE (log 51). -/
def State.initPasswords (s : State) : State :=
  match s.sect Ty.seedbank with
  | none => s
  | some b =>
    let one (x : Seedbank) (k : Nat) (write : Bool) : Seedbank :=
      let pw := leAt b (16 * k + (if write then 8 else 0)) 8
      if pw ≠ 0 ∧ x.password (0x40 + k) write = 0 then x.setPassword s.timeBase (0x40 + k) write pw else x
    s.onSeed (fun x => ((List.range 10).foldl (fun x k => one (one x k false) k true) x).commitNow)

/-- The parameters of LPARAM: the LOAM section, else those kept in PARAM, else the defaults of Table 13-3.
DESIGN CHOICE (log 51, 55). -/
def State.initLparam (s : State) : State :=
  let b := match s.sect Ty.loam with | some b => b | none => (s.seed.rec1 (pwPage 90)).getD []
  let (h, r, p) := (leAt b 0 1, leAt b 1 1, leAt b 2 1)
  let (h, r, p) := if lparamOk h r p then (h, r, p) else (24, 40, 32)
  { s with loam := { s.loam with patrolHours := h, refreshBits := r, pgmPlanes := p } }

/-- Step 4 (R751, R749): the overlay's sections replace the image's unless NOOVL is set or one fails its checks; then the
mandatory sections.
DESIGN CHOICE (log 55). -/
def State.mergeOverlay (s : State) : State :=
  let s : State := { s with smc := { s.smc with step := 4 } }
  let ov := if bitOf (leAt s.smc.image 6 2) 1 then none else s.seed.overlay
  let s : State := match ov with
    | none => s
    | some (_, _, img) =>
      match overlayFault img with
      | some t => s.log 0x0017 0 (leBytes 2 t)
      | none =>
        let m := (sectMap img).foldl (fun m p => FMap.put m p.1 p.2) s.smc.config
        { s with smc := { s.smc with config := m, ovlUsed := !(sectMap img).isEmpty } }
  if [Ty.clocks, Ty.power, Ty.ddr, Ty.domains].all (fun t => (s.sect t).isSome) then
    let s := s.initPasswords.initLparam
    { s with smc := { s.smc with step := 5 } }
  else s.halt 0x02

/-- A valid image is held: its configuration, the management address of STRAPOVR, then step 4. -/
def State.holdImage (s : State) (x : FlashSource) (cs1 : Bool) : State :=
  let img := x.bytes.take (leAt x.bytes 8 4)
  let s : State :=
    { s with smc := { s.smc with image := img, config := sectMap img, imgGen := leAt img 16 4, fromCs1 := cs1,
                                 sigChk := Config.keyHashSet && bitOf (leAt img 6 2) 0 },
             pins := { s.pins with spiOwned := false } }
  let s := s.mergeOverlay
  match s.sect Ty.strapovr with
  | some b => { s with smc := { s.smc with mgmtAddr := leAt b 0 1 % 128 } }
  | none => { s with smc := { s.smc with mgmtAddr := 0x4E } }

/-- SHEAF_READ: steps 3 and 4 of a package that reads its own flash (R743 to R751): the sources in the order of BOOT_SRC.
DESIGN CHOICE (log 55). -/
def execSheafRead (cs0 cs1 : Option FlashSource) (s : State) : Host.Outcome State Fault Refusal :=
  let order : List (Option FlashSource × Bool) := match s.pins.bootSrc.toNat with
    | 0 => [(cs0, false)]
    | 1 => [(cs1, true)]
    | 2 => [(cs0, false), (cs1, true)]
    | _ => [(cs1, true), (cs0, false)]
  .next (if !(s.atStep 3 && s.pins.tussockId == 0) then s
    else match order.find? (fun p => p.1.any sourceValid) with
      | some (some x, c) => s.holdImage x c
      | _ =>
        let s := s.halt 0x01
        { s with pins := { s.pins with spiOwned := false } })

/-! ### A member's image (R649, R650) -/

/-- 10 s in SCLK cycles. -/
def tenSeconds : Nat := 1000000000

/-- TUSSOCK_IMAGE_RECEIVED: a member whose clocks run takes its image from the master (R650). An image that does not pass is not
taken. -/
def execTussockImageReceived (src : FlashSource) (s : State) : Host.Outcome State Fault Refusal :=
  .next (if s.atStep 3 && s.pins.tussockId != 0 && s.smc.rpll && sourceValid src then s.holdImage src false else s)

/-- TUSSOCK_IMAGE_TIMEOUT: no image within 10 s of the end of Seedbank recovery. -/
def execTussockImageTimeout (s : State) : Host.Outcome State Fault Refusal :=
  .next (if s.atStep 3 && s.pins.tussockId != 0 && decide (s.smc.stepBegan + tenSeconds ≤ s.timeBase) then s.halt 0x06 else s)

/-- Is this package a Tussock master (R647)? -/
def State.isMaster (s : State) : Bool := s.pins.tussockId == 0 && (s.sect Ty.tussock).isSome

/-- The members that the TUSSOCK section lists, this package apart. -/
def State.listedMembers (s : State) : List Nat := (upFrom 1 3).filter (fun t => bitOf s.tussockMask t)

/-- The nested images of members `l`, one behind the other, each with its trailer when it is signed (Table 18-6).
DESIGN CHOICE (log 51). -/
def nestedImages (b : List Byte) (l : List Nat) : List (Nat × List Byte) :=
  match l with
  | [] => []
  | t :: r =>
    let n := leAt b 8 4 + (if bitOf (leAt b 6 2) 0 then 196 else 0)
    (t, b.take n) :: nestedImages (b.drop n) r

/-- The image that the TUSSOCK section of this package nests for each listed member. -/
def State.memberImages (s : State) : List (Nat × List Byte) := nestedImages (((s.sect Ty.tussock).getD []).drop 9) s.listedMembers

/-- A master sends each listed member its image over their Tussock link, as VC3 traffic of the SMC (R649, R650).
DESIGN CHOICE (log 51). -/
def State.sendImages (s : State) : State :=
  if !s.isMaster then s
  else s.onFabric (fun f => { f with out := f.out ++ s.memberImages.map (fun m =>
    (m.1, { src := f.node, dst := 0xFFFF, vc := 3, epoch := false, seq := 0, crossed := false, srcDom := 0,
            body := .control Ctl.image (m.2.map BitVec.toNat) })) })

/-! ### Step 5: clocks -/

/-- The mode of link port `p`: Tussock where the direct link to a listed member lies, else as the FABRIC section gives; one that
the section alone calls Tussock leads nowhere and is off (R648). DESIGN CHOICE (log 51). -/
def State.portMode (s : State) (p : Nat) : Nat :=
  let me := s.pins.tussockId.toNat
  if p < 4 ∧ p ≠ me ∧ (s.sect Ty.tussock).isSome ∧ (bitOf s.tussockMask p ∨ p = 0) then 2
  else if s.fabricOn then (let m := leAt s.fabricSect (7 + p) 1 % 4; if m = 2 then 0 else m)
  else 0

/-- Sets the modes of the link ports; a port whose mode changes goes down. -/
def State.setPortModes (s : State) : State :=
  (List.range 8).foldl (fun s p =>
    let m := s.portMode p
    if (s.fport p).mode = m then s else s.onFport p (fun x => { x with mode := m, up := false })) s

/-- Tile `t` at its initial divider (R699), or unavailable (Table 18-4).
DESIGN CHOICE (log 51). -/
def State.initTile (s : State) (failed : List Nat) (t : Nat) : State :=
  let b := leAt ((s.sect Ty.clocks).getD []) t 1
  let bad := failed.contains t
  let r := s.tileRail t
  let c : TileClk :=
    { (s.clk t).stopped with req := bitsOf b 1 0, allow3 := bitOf b 2, vreg := bad || s.smc.vrFault.contains (r.1 * 256 + r.2),
                             avail := !bad }
  let s := s.onClk t (fun _ => c)
  s.onClk t (fun c => { c with eff := s.wanted t })

/-- CLOCK_START: step 5 (R698, R740, Table 18-4). A member locks RPLL before it holds an image and keeps it running (R650).
PRESUMED (log 22). -/
def execClockStart (locks : Bool) (failedTiles : List Nat) (s : State) : Host.Outcome State Fault Refusal :=
  .next (if s.atStep 3 && s.pins.tussockId != 0 then
      (if locks then { s with smc := { s.smc with rpll := true } } else s.halt 0x03)
    else if !s.atStep 5 then s
    else if !locks ∧ !s.smc.rpll then s.halt 0x03
    else
      let s := (List.range 64).foldl (fun s t => s.initTile failedTiles t) s
      let s := (List.range 64).foldl (fun s t => s.setRail (s.tileRail t)) s
      let s := ((List.range 64).filter failedTiles.contains).foldl (fun s t =>
        let r := s.tileRail t
        s.log 0x000C (r.1 * 256 + r.2) (leBytes 2 (FMap.get s.smc.vrStatus (r.1 * 256 + r.2) 0).toNat)) s
      if (List.range 64).all failedTiles.contains then s.halt 0x04
      else
        let tdp := leAt ((s.sect Ty.power).getD []) 0 2
        let s := ({ s with smc := { s.smc with rpll := true, step := 6, ppt := tdp, pptNext := tdp } } : State).setPortModes
        let groups := List.range 4
        let b := (s.sect Ty.pcie).getD []
        -- the root ports of Table 19-7
        let used := groups.flatMap (fun g =>
          match leAt b g 1 with
          | 0 => [4 * g]
          | 1 => [4 * g, 4 * g + 2]
          | 2 => [4 * g, 4 * g + 1, 4 * g + 2, 4 * g + 3]
          | 3 => [4 * g, 4 * g + 2, 4 * g + 3]
          | _ => [])
        if b.isEmpty then s.sendImages
        else used.foldl (fun s p => s.onPort p (fun x =>
          { x with exists_ := true, enabled := bitOf (leAt b 5 2) p, cfg := [(0x0A, 0x04), (0x0B, 0x06), (0x0E,
                   0x01)] })) s.sendImages)

/-! ### Steps 6 and 7: Loam and DDR5 -/

/-- Step 9 begins, or with the fabric off ends at once (R757).
DESIGN CHOICE (log 55). -/
def State.beginStep9 (s : State) : State :=
  if s.fabricOn then ({ s with smc := { s.smc with step := 9 } } : State).setPortModes.beginDiscovery
  else ({ s with smc := { s.smc with step := 10 } } : State).setPortModes

/-- Installed DRAM of this package in GiB. -/
def State.ownGib (s : State) : Nat := s.ddr.caps.foldl (fun n p => n + p.2) 0

/-- A member's own DRAM appears at the base that the TUSSOCK section of its configuration gives (R651). -/
def State.placeMember (s : State) : State :=
  let me := s.pins.tussockId.toNat
  if me = 0 ∨ (s.sect Ty.tussock).isNone then s
  else s.onFabric (fun f => { f with members := [(me, s.ownGib)], memberBase := [(me, s.tussockBase me)], assembled := true })

/-- Steps 6 and 7 are both done: a master waits for its members at step 8, any other package goes on (R757).
DESIGN CHOICE (log 55). -/
def State.leaveTraining (s : State) : State :=
  if s.isMaster then { s with smc := { s.smc with step := 8, stepBegan := s.timeBase } } else s.placeMember.beginStep9

/-- The state that the blocks of a stack put it in (R547, R548). -/
def Stack.worn (x : Stack) : Nat :=
  if x.blocks.any (fun b => b.2.st == .retired && decide (0 < b.2.live)) then 2
  else if x.spares ≤ 243 ∨ x.spareUse.any (fun p => decide (planeSpares p.1 ≤ p.2 + 1)) then 1 else 0

/-- LOAM_READY (R538): once every recovery erase of the stack has ended; a stack that cannot be reached is in the failed
state. The requests that reached it before are then served (R38). With the last stack step 6 ends.
DESIGN CHOICE (log 55). -/
def execLoamReady (stack : Nat) (reachable : Bool) (s : State) : Host.Outcome State Fault Refusal :=
  let x := s.stack stack
  .next (if s.atStep 6 ∧ stack < 8 ∧ s.seed.recovered ∧ !x.ready ∧
        x.blocks.all (fun b => b.2.st != .incomplete && b.2.st != .erasing) then
      let s := s.onStack stack (fun x =>
        { x with ready := true, state := x.worn })
      let s := (if reachable then s else s.stackState stack 2).serveStack stack
      if (List.range 8).all (fun n => (s.stack n).ready) then
        let s : State := { s with smc := { s.smc with step := 7 } }
        if s.ddr.trained then s.leaveTraining else s
      else s
    else s)

/-- The TRAIN record: the speed bin and, of every trained DIMM, channel, position, part number and serial number; eight pages
a copy. -/
def trainPages : Nat := 8
def trainEntry (d : DimmInfo) : List Byte := leBytes 1 d.channel ++ leBytes 1 d.dimm ++ leBytes 8 d.partNo ++ leBytes 8 d.serial
/-- DESIGN CHOICE (log 51). -/
def trainRecord (bin : Nat) (l : List DimmInfo) : List Byte := leBytes 2 bin ++ leBytes 1 l.length ++ l.flatMap trainEntry

/-- The entries of a channel in a TRAIN record of a speed bin. -/
def trainOf (r : List Byte) (bin ch : Nat) : List (List Byte) :=
  if leAt r 0 2 = bin then
    ((List.range (leAt r 2 1)).map (fun i => (r.drop (3 + 18 * i)).take 18)).filter (fun e => leAt e 0 1 == ch)
  else []

/-- The DIMMs of a channel that are not excluded before training, with the ones that are and why (R786, R796). -/
def channelDimms (l : List DimmInfo) (ch : Nat) : List DimmInfo × List (DimmInfo × Nat) :=
  let here := (List.range 2).filterMap (fun k => l.find? (fun d => d.channel == ch && d.dimm == k))
  let clash := here.filter (·.idClash)
  let rest := here.filter (fun d => !d.idClash)
  match rest with
  | [a, b] => if a.partNo = b.partNo then (rest, clash.map (fun d => (d, 3))) else ([a], (b, 2) :: clash.map (fun d => (d, 3)))
  | _ => (rest, clash.map (fun d => (d, 3)))

/-- A channel at step 7 (R753): does it run from the cache, its trained DIMMs and the excluded ones with the reason. -/
def trainChannel (r : List Byte) (bin : Nat) (l : List DimmInfo) (ch : Nat) : Bool × List DimmInfo × List (DimmInfo × Nat) :=
  let (go, out) := channelDimms l ch
  let cached := !go.isEmpty && trainOf r bin ch == go.map trainEntry && go.all (·.verified)
  if cached then (true, go, out)
  else (go.isEmpty, go.filter (·.trained), out ++ (go.filter (fun d => !d.trained)).map (fun d => (d, 1)))

/-- The windows of the DOMAINS section in the order of the fill (R755): ascending domain, then ascending window.
DESIGN CHOICE (log 51). -/
def State.fillOrder (s : State) : List (Nat × Nat × Nat) :=
  let es := domainEntries ((s.sect Ty.domains).getD [])
  (List.range 64).flatMap (fun d => (es.filter (fun e => e.1 == d)).flatMap (fun e =>
    e.2.windows.map (fun w => (d, w.2.base, w.2.limit))))

/-- The end of step 7 with the trained DIMMs `l`, of at most 256 GiB each (R39, R754, R785, R755). With ZEROFILL no byte of DRAM
is seen before it is zero, so DRAM reads as zero from here; the fill that follows gates who may use it. After a cold reset without
it the bytes are those of a memory that nothing has written. DESIGN CHOICE (log 3, 55). -/
def State.endTraining (s : State) (present l : List DimmInfo) : State :=
  let sect := (s.sect Ty.ddr).getD []
  let zero := leAt sect 4 1 != 0
  let two := (List.range 12).any (fun ch => decide (2 ≤ (present.filter (fun d => d.channel == ch)).length))
  let rated := l.foldl (fun m d => min m d.rating) (leAt sect 0 2)
  let caps := l.foldl (fun (m : FMap Nat) d => FMap.put m d.channel (FMap.get m d.channel 0 + min d.gib 256)) []
  let gibs := caps.foldl (fun n p => n + p.2) 0
  { s with
    dram := if zero || !s.smc.warm then [] else s.dram
    ddr := { s.ddr with trained := true, caps := caps,
                        dimms := l.foldl (fun m d => FMap.put m d.channel (FMap.get m d.channel 0 + 1)) [],
                        two := two, top := gib gibs,
                        speed := if two then min rated 5600 else rated,
                        fills := if zero then s.fillOrder else [], filled := [], rest := zero } }

/-- DDR_TRAINING: step 7, together with step 6 (R753, R754, R785 to R787, R796).
DESIGN CHOICE (log 55). -/
def execDdrTraining (dimms : List DimmInfo) (s : State) : Host.Outcome State Fault Refusal :=
  let sect := (s.sect Ty.ddr).getD []
  let bin := leAt sect 0 2
  let chans := (List.range 12).filter (fun ch => bitOf (leAt sect 2 2) ch)
  let r := (s.seed.record Part.train (Part.train + 1024) trainPages).getD []
  let runs := chans.map (trainChannel r bin dimms)
  let ok := runs.flatMap (fun x => x.2.1)
  let out := runs.flatMap (fun x => x.2.2)
  .next (if !((s.atStep 6 || s.atStep 7) && !s.ddr.trained) then s
    else
      let s := out.foldl (fun s x => s.log 0x0010 (x.1.channel % 256 * 256 + x.1.dimm % 256) (leBytes 1 x.2)) s
      if ok.isEmpty then ({ s with smc := { s.smc with step := 7 } } : State).halt 0x05
      else
        let s := if runs.all (·.1) then s
          else s.onSeed (fun b => (b.write s.timeBase Part.train (Part.train + 1024) trainPages (trainRecord bin ok)).commitNow)
        let s := s.endTraining (dimms.filter (fun d => chans.contains d.channel)) ok
        if s.smc.step = 7 then s.leaveTraining else s)

/-! ### Step 8: Tussock (R649, R651, R652) -/

/-- TUSSOCK_MEMBER_READY: a listed member reports its installed DRAM before assembly. -/
def execTussockMemberReady (tid gibs : Nat) (s : State) : Host.Outcome State Fault Refusal :=
  .next (if s.smcRuns && s.isMaster && decide (s.smc.step ≤ 8) && s.listedMembers.contains tid then
      s.onFabric (fun f => { f with members := FMap.put f.members tid gibs })
    else s)

/-- Do the packages' DRAM lie below 0x0_0600_0000_0000 without overlap (R651)? `l` gives base and size in GiB. -/
def placesOk (l : List (Nat × Nat)) : Bool :=
  match l with
  | [] => true
  | (b, n) :: r => decide (b + n ≤ 0x1800) && r.all (fun p => !rangesMeet b n p.1 p.2) && placesOk r

/-- The DRAM windows that an image's DOMAINS section gives. -/
def imageWindows (img : List Byte) : List (Nat × Nat) :=
  (domainEntries (FMap.get (sectMap img) Ty.domains [])).flatMap (fun e => e.2.windows.map (fun w => (w.2.base, w.2.limit)))

/-- Does no window of a list lie over one of a list before it? -/
def windowsApart (l : List (List (Nat × Nat))) : Bool :=
  match l with
  | [] => true
  | x :: r => r.all (fun y => x.all (fun a => y.all (fun b => !rangesMeet a.1 (a.2 - a.1) b.1 (b.2 - b.1)))) && windowsApart r

/-- The master's check of the DRAM windows of every package present together (R651, R606). Those of one package alone are checked
as it creates its domains (R758).
DESIGN CHOICE (log 51). -/
def State.windowsTogether (s : State) : Bool :=
  let own := s.fillOrder.map (fun w => (w.2.1, w.2.2))
  windowsApart (own :: ((s.memberImages.filter (fun m => FMap.has s.fabric.members m.1)).map (fun m => imageWindows m.2)))

/-- The master tells the members present that it has assembled, with its time base (R703) and their sizes, over their Tussock
links. DESIGN CHOICE (log 51). -/
def State.tellMembers (s : State) : State :=
  let data := s.timeBase :: s.fabric.members.flatMap (fun m => [m.1, m.2])
  s.onFabric (fun f => { f with out := f.out ++ ((f.members.map (·.1)).filter (· != 0)).map (fun k =>
    (k, { src := f.node, dst := 0xFFFF, vc := 3, epoch := false, seq := 0, crossed := false, srcDom := 0,
          body := .control Ctl.assembly data })) })

/-- Assembly from the members present; a section that places them wrongly leaves the master standalone. -/
def State.assemble (s : State) : State :=
  let all := FMap.put s.fabric.members 0 s.ownGib
  let s :=
    if placesOk (all.map (fun m => (s.tussockBase m.1, m.2))) && s.windowsTogether then
      (s.onFabric (fun f =>
        { f with members := all, memberBase := all.map (fun m => (m.1, s.tussockBase m.1)), assembled := true })).tellMembers
    else (s.log 0x0015 0 (leBytes 1 2)).onFabric (fun f => { f with members := [], memberBase := [] })
  s.beginStep9

/-- TUSSOCK_ASSEMBLY: at a master every listed member is ready. At a member, whose DRAM is placed, the master has told it that it
assembled: the member takes its time base (R703) and the packages present with their DRAM.
DESIGN CHOICE (log 51). -/
def execTussockAssembly (s : State) : Host.Outcome State Fault Refusal :=
  .next (if s.atStep 8 && s.listedMembers.all (FMap.has s.fabric.members) then s.assemble
    else match s.fabric.news with
      | some (now, sizes) =>
        if s.smcRuns && s.pins.tussockId != 0 && s.fabric.assembled then
          ({ s with timeBase := now } : State).onFabric (fun f =>
            { f with members := sizes.foldl (fun m p => FMap.put m p.1 p.2) f.members,
                     memberBase := sizes.foldl (fun m p => FMap.put m p.1 (s.tussockBase p.1)) f.memberBase, news := none })
        else s
      | none => s)

/-- TUSSOCK_WAIT_TIMEOUT: 10 s into step 8 the absent members are logged and the Tussock assembled without them. -/
def execTussockWaitTimeout (s : State) : Host.Outcome State Fault Refusal :=
  .next (if s.atStep 8 && decide (s.smc.stepBegan + tenSeconds ≤ s.timeBase) then
      ((s.listedMembers.filter (fun t => !FMap.has s.fabric.members t)).foldl (fun s t => s.log 0x0015 t (leBytes 1 1)) s).assemble
    else s)

/-- Is a line homed on a package of the Tussock? -/
def State.homedOn (s : State) (tid line : Nat) : Bool :=
  let b := gib (FMap.get s.fabric.memberBase tid 0)
  decide (b ≤ line * 64) && decide (line * 64 < b + gib (FMap.get s.fabric.members tid 0))

/-- TUSSOCK_LINK_DOWN (R652): logged once, and a thread whose core holds a line homed beyond it takes a machine check; an access
across it takes one when it is made. DEDUCED (log 26). -/
def execTussockLinkDown (tid thread : Nat) (s : State) : Host.Outcome State Fault Refusal :=
  let mine := s.pins.tussockId.toNat
  .next (if s.fabric.assembled ∧ tid < 4 ∧ tid ≠ mine then
      let s := if s.fabric.badPkgs.contains tid then s
        else (s.onFport tid (fun x => { x with up := false })).onFabric (fun f => { f with badPkgs := tid :: f.badPkgs })
          |>.log 0x0015 tid (leBytes 1 3)
      if (s.thread thread).run == .running && decide (thread < 256) && (s.core (thread / 2)).holds (s.homedOn tid) then
        s.raiseCheck (severedError thread tid)
      else s
    else s)

/-! ### Step 10: domains (R758, R759) -/

/-- The root grants that GRANTS gives a domain, in minting order. -/
def State.rootsFor (s : State) (d : Nat) : List Grant :=
  let b := (s.sect Ty.grants).getD []
  ((grantEntries b b.length).filter (fun e => e.1 == d)).flatMap (·.2)

/-- The status of the first check that an entry of DOMAINS fails, 0 when it passes.
DESIGN CHOICE (log 7). -/
def State.entryFault (s : State) (d : Nat) (x : Domain) : Nat :=
  if 64 ≤ d then Ds.invalid
  else if (s.domain d).valid then Ds.conflict
  else
    let f := s.domainFault (FMap.put s.domains d x) d
    let gs := s.rootsFor d
    if f ≠ 0 then f
    else if 128 < gs.length then Ds.noRes
    else if gs.any (fun e => !rootOk d e.kind e.object e.rights.toNat e.base e.len) then Ds.invalid
    else 0

/-- Creates a domain: tables, distributor block, roots, and the audit record of R759.
DESIGN CHOICE (log 48). -/
def State.createDomain (s : State) (d : Nat) (x : Domain) : State :=
  let x := (s.rootsFor d).foldl (fun x e => x.mintRoot e) x
  let s := s.setDomain d x
  let s : State := { s with tileDom := (tilesIn x.tiles).foldl (fun m t => FMap.put m t d) s.tileDom }
  if s.auditFull then s.log 0x0018 d [] else s.audit 4 It.dcreate 0 0 St.ok 0 (domainEntry d x)

/-- An entry of DOMAINS is created, or rejected whole; the fill then skips the windows of a rejected one.
DESIGN CHOICE (log 48). -/
def State.tryEntry (s : State) (e : Nat × Domain) : State :=
  let f := s.entryFault e.1 e.2
  if f = 0 then s.createDomain e.1 e.2
  else
    let drop (w : Nat × Nat × Nat) : Bool :=
      w.1 == e.1 && e.2.windows.any (fun v => v.2.base == w.2.1 && v.2.limit == w.2.2)
    { s with ddr := { s.ddr with fills := s.ddr.fills.filter (fun w => !drop w) } }.log 0x0012 e.1 (leBytes 1 f)

/-- Step 11 ends once every domain's boot thread is released or held (R764). -/
def State.endStep11 (s : State) : State :=
  if s.smc.step = 11 ∧ s.domList.all (fun d => (s.domain d).bootDone) then
    ({ s with smc := { s.smc with step := 12 } } : State).onSeed (fun b => (b.increment s.timeBase 2).commitNow)
  else s

/-- DOMAIN_CREATION: step 10, in ascending domain number; then the commands that waited start (R742). -/
def execDomainCreation (s : State) : Host.Outcome State Fault Refusal :=
  let es := domainEntries ((s.sect Ty.domains).getD [])
  let order := (List.range 256).flatMap (fun d => es.filter (fun e => e.1 == d))
  .next (if s.atStep 10 then
      let s := order.foldl State.tryEntry s
      ({ s with smc := { s.smc with step := 11 } } : State).endStep11.runWaiting
    else s)

/-! ### The fill and step 11 (R755, R760 to R764) -/

/-- ZERO_FILL: the next window in order, or all of DRAM outside the windows, is passed. -/
def execZeroFill (s : State) : Host.Outcome State Fault Refusal :=
  .next (match s.ddr.fills with
    | w :: r => { s with ddr := { s.ddr with fills := r, filled := (w.2.1, w.2.2) :: s.ddr.filled } }
    | [] => { s with ddr := { s.ddr with rest := false } })

/-- The boot image of a domain, or the reason of R764 that holds its thread: entry IP, load address and the code. `uncorrectable`
says that a codeword of it could not be read. DESIGN CHOICE (log 56). -/
def State.bootImage (s : State) (d : Nat) (uncorrectable : Bool) : Except Nat (Nat × Nat × List Byte) :=
  let x := s.domain d
  let v := s.volume x.bootVol
  if x.bootVol = 0xFFFF then .error 1
  else match v.current.bind v.rev with
    | none => .error 2
    | some r =>
      let at_ := x.bootOff * 16384
      let h := Mem.block r.bytes at_ 64
      let len := leAt h 8 4
      let bad := leAt h 0 4 != 0x54424E48 || leAt h 4 2 != 1 || leAt h 60 4 != crc32c (h.take 60)
      let w := (FMap.find x.windows 0).getD { base := 0, limit := 0 }
      let load := w.base + x.loadOff * 4096
      if uncorrectable then .error 5
      else if bad then .error 3
      else if 64 * 2 ^ 20 < len ∨ w.limit < load + len then .error 4
      else
        let code := Mem.block r.bytes (at_ + 64) len
        if len = 0 ∨ len ≤ leAt h 12 4 ∨ leAt h 16 4 ≠ crc32c code then .error 3 else .ok (load + leAt h 12 4, load, code)

/-- BOOT_IMAGE_COPY (R760, R761, R764): once the fill has passed window 0, the code is copied from the current revision, or the
thread is held and the reason logged.
DESIGN CHOICE (log 48, 56). -/
def execBootImageCopy (domain : Nat) (uncorrectable : Bool) (s : State) : Host.Outcome State Fault Refusal :=
  let x := s.domain domain
  let passed := match FMap.find x.windows 0 with | some w => s.fillPassed w.base w.limit | none => true
  .next (if !(s.atStep 11 && x.valid && !x.bootDone && x.boot.isNone && passed) then s
    else match s.bootImage domain uncorrectable with
      | .error r => ((s.log 0x0013 domain (leBytes 1 r)).onDomain domain (fun x => { x with bootDone := true })).endStep11
      | .ok (ip, load, code) =>
        { s with dram := Mem.splice s.dram load code }.onDomain domain (fun x => { x with boot := some (ip, load, code.length) }))

/-- BOOT_THREAD_RELEASE (R762, Table 18-7). -/
def execBootThreadRelease (domain : Nat) (s : State) : Host.Outcome State Fault Refusal :=
  let x := s.domain domain
  .next (match x.boot with
    | some (ip, load, len) =>
      if s.atStep 11 && x.valid && !x.bootDone then
        let g := x.bootThread
        let s := if (s.thread g).run == .halted then s.release g ip [domain, readbackAt domain, load, len, x.roots.length] else s
        (s.onDomain domain (fun x => { x with bootDone := true })).endStep11
      else s
    | none => s)

/-- PERST_DEASSERT (R790, R791): of a port that exists and is enabled, from the start of step 7 and 100 ms after PWRGOOD rose. -/
def execPerstDeassert (port : Nat) (s : State) : Host.Outcome State Fault Refusal :=
  let x := s.port port
  .next (if s.smcRuns && s.pins.pwrgood && s.pins.resetN && decide (6 ≤ s.smc.step) && s.smc.rpll && x.exists_ && x.enabled &&
      decide (port < 16) && decide (s.pins.pwrgoodAt + 10000000 ≤ s.timeBase) then
      { s with pins := { s.pins with perstN := portSet s.pins.perstN port true } }
    else s)

/-- XLATE_WRITE (R763): XLATE written at PL0, with every translation that the core holds for the thread dropped.
DESIGN CHOICE (log 19). -/
def execXlateWrite (thread : Nat) (value : Word) (s : State) : Host.Outcome State Fault Refusal :=
  .next (if (s.thread thread).issues && (s.thread thread).ring == 0 && decide (thread < 256) then
      s.sysWrite thread Sys.xlate value
    else s)

end Sys2Proof.Machine
end

