-- ==== Sys2Proof/Machine/Interfaces.lean ====
section
/-!
DEFINITION. The interfaces of the part (R788, R791, R792, R797, R798, R814, R821): DIMM temperatures, the PCI Express root
ports, the test access port; and the entries that the bounds of Table 6-2 free (R261).
-/

namespace Sys2Proof.Machine

/-! ### DIMM temperatures (R788) -/

/-- DIMM_THERMAL_READ: a DIMM that passes 95 °C is logged, and every domain with a window on its channel told.
DESIGN CHOICE (log 58). -/
def execDimmThermalRead (channel dimm : Nat) (sixteenths : Int) (s : State) : Host.Outcome State Fault Refusal :=
  let k := 2 * channel + dimm
  let was := FMap.get s.ddr.temps k 0
  .next (if !(s.smcRuns && s.ddr.trained && decide (channel < 12) && decide (dimm < 2)) then s
    else
      let s : State := { s with ddr := { s.ddr with temps := FMap.put s.ddr.temps k sixteenths } }
      if 1520 < sixteenths ∧ was ≤ 1520 then
        (s.log 0x0011 (channel * 256 + dimm) (leBytes 2 (sixteenths % 65536).toNat)).raiseAll
          (s.domList.filter (fun d => (s.domain d).windows.any (fun w => s.onChannel w.2.base w.2.limit channel))) 0x002
      else s)

/-! ### PCI Express -/

/-- The domain that owns a root port.
DESIGN CHOICE (log 57). -/
def State.portOwner (s : State) (p : Nat) : Option Nat := s.domList.find? (fun d => (s.domain d).ports.getLsbD p)

/-- Is a root port cut off by a class Q item (Table 15-6)?
DESIGN CHOICE (log 57). -/
def State.portCut (s : State) (p : Nat) : Bool := s.itemsNow.any (fun i => decide (2 ≤ i.2.phase) && (s.itemPorts i.2).contains p)

/-- May DMA of a domain reach every byte of a range (R608): its DRAM windows and the ranges of its DRAMSH roots?
DESIGN CHOICE (log 57). -/
def State.dmaReaches (s : State) (d a n : Nat) : Bool :=
  let x := s.domain d
  let roots := (x.store.entries.filter (fun e => e.2.inUse && e.2.depth == 0 &&
    e.2.kind == 2)).filterMap (fun e => s.windowFor e.2 e.1)
  (List.range n).all (fun i =>
    s.installed (a + i) && (x.owns (a + i) || roots.any (fun w => decide (w.base ≤ a + i) && decide (a + i < w.limit))))

/-- A DMA read of `n` bytes (R462): a RdNA for each line. The data reach the port at once, or line by line as its homes answer.
DESIGN CHOICE (log 57). -/
def State.dmaRead (s : State) (p d a n : Nat) : State :=
  let lines := upFrom (a / 64) ((a % 64 + n + 63) / 64)
  let put (bs : List Byte) (s : State) : State := s.onPort p (fun x => { x with dmaData := bs })
  match (if lines.all (fun l => s.lineIdle l && s.proxyMay l .rdna) then s.agentReads d lines else none) with
  | some s => put (Mem.read s.dram a n) s
  | none => lines.foldl (fun s l => s.request .rdna { line := l, req := portAgent p, domain := d, off := 0, bytes := [] }) (put [] s)

/-- PCIE_DMA_REQUEST (R462, R608): one outside what the domain may reach is an Unsupported Request, logged, and does nothing.
DESIGN CHOICE (log 57). -/
def execPcieDmaRequest (d : DmaReq) (s : State) : Host.Outcome State Fault Refusal :=
  let n := if d.write then d.data.length else d.len
  .next (if !((s.port d.port).exists_ && (s.port d.port).up) then s
    else match (s.portOwner d.port).filter (fun o => s.dmaReaches o d.addr n && !s.portCut d.port) with
      | some o => if d.write then s.agentWrites (portAgent d.port) o d.addr d.data else s.dmaRead d.port o d.addr n
      | none => s.log 0x0014 d.port (leBytes 8 d.addr))

/-- PCIE_LOAD_ERROR (R792): the load returns all ones, and the loading thread's ring an error record of unit 6.
DESIGN CHOICE (log 58). -/
def execPcieLoadError (port thread addr reg width : Nat) (how : PcieEnd) (s : State) : Host.Outcome State Fault Refusal :=
  let kind := match how with | .timedOut => 5 | _ => 4
  .next (if (s.thread thread).run == .running && decide (thread < 256) && (s.port port).exists_ then
      let s := s.onThread thread (fun t =>
        (t.setReg reg (BitVec.ofNat 64 (2 ^ (8 * min width 8) - 1))).addError s.timeBase 6 port kind false false (some addr))
      s.log 0x0019 port (leBytes 1 kind ++ leBytes 1 thread ++ leBytes 6 0 ++ leBytes 8 addr)
    else s)

/-- The lanes that the bifurcation of its group gives root port `p` (Table 19-7). -/
def State.portLanes (s : State) (p : Nat) : Nat :=
  match leAt ((s.sect Ty.pcie).getD []) (p / 4) 1 with
  | 0 => 16
  | 1 => 8
  | 2 => 4
  | _ => if p % 4 = 0 then 8 else 4

/-- PCIE_LINK_UP: a port out of reset whose link has trained, no faster than the PCIE section lets it and no wider than its lanes
(Table 19-6).
DESIGN CHOICE (log 58). -/
def execPcieLinkUp (port width rate : Nat) (s : State) : Host.Outcome State Fault Refusal :=
  let x := s.port port
  .next (if x.exists_ && x.enabled && s.pins.perstN.getLsbD port && decide (port < 16) then
      s.onPort port (fun x =>
        { x with up := true, width := min width (s.portLanes port), rate := min rate (leAt ((s.sect Ty.pcie).getD []) 4 1),
                 dpc := false })
    else s)

/-- PCIE_LINK_DOWN (R814): the port is contained until its link is up again. -/
def execPcieLinkDown (port : Nat) (s : State) : Host.Outcome State Fault Refusal :=
  .next (if (s.port port).up then s.onPort port (fun x => { x with up := false, dpc := true }) else s)

/-- Does a configuration request reach a bus below its port, by the Type 1 header's secondary and subordinate numbers
(R821)?
PRESUMED (log 22). -/
def RootPort.routes (x : RootPort) : Bool :=
  let bus := bitsOf x.cfgAddr.toNat 27 20
  decide ((Mem.byte x.cfg 0x19).toNat ≤ bus) && decide (bus ≤ (Mem.byte x.cfg 0x1A).toNat)

/-- A thread's access to CFGDATA of a port of its domain, behind no TFENCE and no store that holds (R304, R461).
DESIGN CHOICE (log 58). -/
def State.cfgRow (s : State) (a : CfgAccess) (f : State → Option (BitVec 32) → State) : State :=
  match s.domOf a.thread with
  | none => s
  | some d =>
    if (s.thread a.thread).run == .running && decide (a.thread < 256) && s.csTarget d (.pcie a.port 0x1004) &&
        (s.fenceWait a.thread).isNone then
      let r := if (s.port a.port).routes && (s.port a.port).up then a.result else none
      f (if r.isSome then s else s.onPort a.port (fun x => { x with ur := true })) r
    else s

/-- CFGDATA_LOAD (R821): the dword read, or all ones with UR set. -/
def execCfgdataLoad (a : CfgAccess) (s : State) : Host.Outcome State Fault Refusal :=
  .next (s.cfgRow a (fun s r => s.onThread a.thread (fun t => t.setReg a.reg ((r.getD 0xFFFFFFFF).zeroExtend 64))))

/-- CFGDATA_STORE (R821). -/
def execCfgdataStore (a : CfgAccess) (s : State) : Host.Outcome State Fault Refusal := .next (s.cfgRow a (fun s _ => s))

/-! ### IEEE 1149.1 (R797, R798, Table 19-8) -/

/-- Loads an instruction. -/
def State.tapLoad (s : State) (ir : Byte) (dr : List Bool) : State :=
  ({ s with tap := { s.tap with ir := ir, captured := dr } } : State).tapUpdate

/-- The 32 bits of IDCODE, bit 0 first. -/
def idcodeBits : List Bool := (List.range 32).map (fun i => bitOf 0xB7128A47 i)

/-- EXTEST: while RESET_N is low the preloaded levels are driven; otherwise BYPASS. -/
def execExtest (s : State) : Host.Outcome State Fault Refusal := .next (s.tapLoad 0x00 (if s.pins.resetN then [false] else s.tap.captured))

/-- IDCODE. -/
def execIdcode (s : State) : Host.Outcome State Fault Refusal := .next (s.tapLoad 0x01 idcodeBits)

/-- SAMPLE/PRELOAD: the boundary-scan register takes the levels of the lands, and holds them for EXTEST.
DESIGN CHOICE (log 58). -/
def execSamplePreload (captured : List Bool) (s : State) : Host.Outcome State Fault Refusal :=
  let s := s.tapLoad 0x02 captured
  .next { s with tap := { s.tap with preload := captured } }

/-- CLAMP. -/
def execClamp (s : State) : Host.Outcome State Fault Refusal := .next (s.tapLoad 0x04 [false])

/-- HIGHZ. -/
def execHighz (s : State) : Host.Outcome State Fault Refusal := .next (s.tapLoad 0x05 [false])

/-- BYPASS: one bit that captures 0. -/
def execBypass (s : State) : Host.Outcome State Fault Refusal := .next (s.tapLoad 0xFF [false])

/-! ### Entries freed (R261) -/

/-- The earliest thread that waits for a fabric-get entry and that R264 admits takes it: its TPUT or TGET issues. A SEND or
collective that holds in its store queue goes on as its store is tried again. DESIGN CHOICE (log 49). -/
def State.serveGets (s : State) : State :=
  match s.fabric.getWait.find? s.getWaiter with
  | none => s
  | some g =>
    let put := match execTput ⟨g, none⟩ s with | .next s => s | _ => s
    match execTget g put with | .next s => s | _ => put

/-- A miss of a slice completes: its entry, and that of its channel, are free, and the requests that wait for them go on in the
order they came (R261). DESIGN CHOICE (log 34). -/
def State.endMiss (s : State) (m : Miss) : State :=
  let s : State := { s with misses := dropFirst (· == m) s.misses }
  let s := match s.chanWaiter m.chan with
    | some w => s.openNext w.line s.openFuel
    | none => s
  match s.sliceWaiter m.slice with
  | some l => s.openNext l s.openFuel
  | none => s

/-- BOUND_ENTRY_FREED (R261): the earliest waiter the rules admit takes the entry. An entry of a slice or of a DDR channel is
freed by the oldest of its misses, which has its data; those of a core free as its accesses retire or are discarded, and an access
that holds is tried again. DESIGN CHOICE (log 34, 61). -/
def execBoundEntryFreed (b : BoundId) (s : State) : Host.Outcome State Fault Refusal :=
  .next (match b with
    | .orderingQueue slice =>
      (match s.stops.find? (fun r => homeOf r.2.line == slice) with
      | some (k, q) =>
        if s.queueUsed slice < 256 then ({ s with stops := dropFirst (· == (k, q)) s.stops } : State).admitReq k q else s
      | none => s)
    | .sliceMisses slice =>
      (match s.misses.find? (fun m => m.slice == slice && m.ddr != 0) with | some m => s.endMiss m | none => s)
    | .ddr channel =>
      (match s.misses.find? (fun m => m.chan == channel && m.ddr == 1) with
      | some m =>
        let s : State := { s with misses := s.misses.map (fun x => if x = m then { x with ddr := 2 } else x) }
        (match s.chanWaiter channel with | some w => s.openNext w.line s.openFuel | none => s)
      | none => s)
    | .loam stack => s.serveStack stack
    | .fabricGets => s.serveGets
    | .reorderBuffer core => s.specServe core
    | .loadQueue core => s.specServe core
    | .storeQueue core => s.specServe core
    | .fillBuffers core => s.specServe core
    | .sfb core => s.specServe core
    | .l2Misses core => s.specServe core)

end Sys2Proof.Machine
end

