-- ==== Sys2Proof/Machine/TileOps.lean ====
section
/-!
DEFINITION. The rows of Sward: TCFG, TZERO, the memory moves, TMOV, the matrix multiplies, TSCL, TCVT, the elementwise
instructions and TRED (chapters 7 to 10).
-/

namespace Sys2Proof.Machine

/-- Is a tile instruction opcode `o`? -/
def isOp (o : Nat) (t : TileInsn) : Bool := t.op.toNat == o

/-- TCFG (R300).
DESIGN CHOICE (log 30). -/
def execTcfg (thread : Nat) (s : State) : Host.Outcome State Fault Refusal :=
  .next (s.tileIssue thread (isOp 1) (fun s _ t =>
    let c := bitsOf t.fw 25 8
    match tcfgCheck c with
    | some sub => s.stopTile thread 0x11 sub 0 0
    | none =>
      (s.onThread thread (fun th => th.sysSet (Sys.tcfg (t.fw % 8)) (BitVec.ofNat 64 (tcfgValue c)))).popTile thread))

/-- TZERO (R294). -/
def execTzero (thread : Nat) (s : State) : Host.Outcome State Fault Refusal :=
  .next (s.tileIssue thread (isOp 2) (fun s _ t => (s.onTile thread (fun x => x.zero (t.fw % 32))).popTile thread))

/-! ### Memory moves -/

/-- TLD (R297): `rows` rows of it, all that are left when none is given.
DESIGN CHOICE (log 27). -/
def execTld (x : TileRows) (s : State) : Host.Outcome State Fault Refusal :=
  .next (s.tileIssue x.thread (isOp 3) (fun s e t => s.memMove x.thread e t true x.rows))

/-- TST (R297).
DESIGN CHOICE (log 27). -/
def execTst (x : TileRows) (s : State) : Host.Outcome State Fault Refusal :=
  .next (s.tileIssue x.thread (isOp 4) (fun s e t => s.memMove x.thread e t false x.rows))

/-- TLDA (R297).
DESIGN CHOICE (log 27). -/
def execTlda (x : TileRows) (s : State) : Host.Outcome State Fault Refusal :=
  .next (s.tileIssue x.thread (isOp 5) (fun s e t => s.memMove x.thread e t true x.rows))

/-- TSTA (R297).
DESIGN CHOICE (log 27). -/
def execTsta (x : TileRows) (s : State) : Host.Outcome State Fault Refusal :=
  .next (s.tileIssue x.thread (isOp 6) (fun s e t => s.memMove x.thread e t false x.rows))

/-! ### TMOV -/

/-- TMOV with DIR = 1 (R405): the low bits of the captured value.
DEDUCED (log 29). -/
def execTmovToTile (thread : Nat) (s : State) : Host.Outcome State Fault Refusal :=
  .next (s.tileIssue thread (isOp 7) (fun s e t =>
    match (s.thread thread).movAt t with
    | none => s.stopTile thread 0x11 0x06 0 0
    | some (code, row, el, w) =>
      (s.onTile thread (fun x => x.putElems code w [(row * (rowBytes code * 8 / w) + el, e.value.toNat % 2 ^ w)])).popTile
        thread))

/-- TMOV with DIR = 0 (R305): joins as TSYNC does, then the element, zero-extended, to its scalar register.
DEDUCED (log 29). -/
def execTmovToScalar (t : TileInsn) (s : State) : Host.Outcome State Fault Refusal :=
  .next (if !t.movOut then s
    else s.issueTile t (fun s =>
      let g := t.thread
      let s := s.drainTiles g
      let th := s.thread g
      match s.joinFault g with
      | some (f, s') => .flt f s'
      | none =>
        if !th.tile.queue.isEmpty || !s.sward g then .hold .tileJoin
        else match th.movAt t with
          | none => .flt (Flt.mk' 0x11 0x06 0) s
          | some (code, row, el, w) =>
            let v := (elemsOf w (th.tile.row code row)).getD el 0
            .ok (s.setThread g (th.setReg (bitsOf t.fw 24 19) (BitVec.ofNat 64 v)))))

/-! ### Matrix multiplies -/

/-- TMMA under the exact discipline (R374). -/
def execTmmaE (thread : Nat) (s : State) : Host.Outcome State Fault Refusal :=
  .next (s.tileArith thread (fun t => isOp 8 t && ((s.thread thread).tmmaKind t).1)
    (fun th t => th.tmmaOut t true (th.tmmaKind t).2))

/-- TMMA under the round-each discipline (R377). -/
def execTmmaF (thread : Nat) (s : State) : Host.Outcome State Fault Refusal :=
  .next (s.tileArith thread (fun t => isOp 8 t && !((s.thread thread).tmmaKind t).1)
    (fun th t => th.tmmaOut t false (th.tmmaKind t).2))

/-- TMMAI (R380). -/
def execTmmai (thread : Nat) (s : State) : Host.Outcome State Fault Refusal :=
  .next (s.tileArith thread (isOp 9) (fun th t => th.tmmaiOut t))

/-! ### Elementwise, conversions and reductions -/

/-- TSCL (R381). -/
def execTscl (thread : Nat) (s : State) : Host.Outcome State Fault Refusal :=
  .next (s.tileArith thread (isOp 0x0A) (fun th t => .ok (th.tsclOut t)))

/-- TCVT (R354 to R359). -/
def execTcvt (thread : Nat) (s : State) : Host.Outcome State Fault Refusal :=
  .next (s.tileArith thread (isOp 0x0B) (fun th t => th.tcvtOut t))

/-- TADD (R382). -/
def execTadd (thread : Nat) (s : State) : Host.Outcome State Fault Refusal :=
  .next (s.tileArith thread (isOp 0x0C) (fun th t => .ok (th.eachOut t (addElem th.trm))))

/-- TMUL (R382). -/
def execTmul (thread : Nat) (s : State) : Host.Outcome State Fault Refusal :=
  .next (s.tileArith thread (isOp 0x0D) (fun th t => .ok (th.eachOut t (tileMul th.trm))))

/-- TMAX (R382). -/
def execTmax (thread : Nat) (s : State) : Host.Outcome State Fault Refusal :=
  .next (s.tileArith thread (isOp 0x0E) (fun th t => .ok (th.eachOut t (tileMinMax true))))

/-- TMIN (R382). -/
def execTmin (thread : Nat) (s : State) : Host.Outcome State Fault Refusal :=
  .next (s.tileArith thread (isOp 0x0F) (fun th t => .ok (th.eachOut t (tileMinMax false))))

/-- TRED with OP = 0: the tree sum of each row (R383). -/
def execTredSum (thread : Nat) (s : State) : Host.Outcome State Fault Refusal :=
  .next (s.tileArith thread (fun t => isOp 0x10 t && !bitOf t.fw 4) (fun th t => .ok (th.redOut t (rowSum th.trm))))

/-- TRED with OP = 1: the maximum of each row (R383). -/
def execTredMax (thread : Nat) (s : State) : Host.Outcome State Fault Refusal :=
  .next (s.tileArith thread (fun t => isOp 0x10 t && bitOf t.fw 4) (fun th t => .ok (th.redOut t rowMax)))

end Sys2Proof.Machine
end

