-- ==== Sys2Proof/Machine/TileCtl.lean ====
section
/-!
DEFINITION. Stream control: queued WRSRs and the change of Sward mode (R293, R414), TWAIT, TFENCE, TSYNC, TSAVE, TRSTR,
TRESUME and TQRY (chapter 7, R429, R430).
-/

namespace Sys2Proof.Machine

/-! ### Queued WRSR and the Sward mode -/

/-- A queued WRSR applied, MODE apart (Table 7-3). -/
def Thread.applyQueued (t : Thread) (n : Nat) (v : Word) : Thread :=
  if n = Sys.tctl then t.sysSet n (maskWrite 0 v 0x7F) else t.sysSet n (maskWrite (t.sysGet n) v (sysMask n))

/-- The mode a queued WRSR of TCTL asks for, when it changes the core's mode: at PL0, and not the reserved encoding.
DESIGN CHOICE (log 30). -/
def State.newMode (s : State) (g n ring : Nat) (v : Word) : Option Nat :=
  let m := bitsOf v.toNat 9 8
  if n = Sys.tctl ∧ ring = 0 ∧ m ≠ 3 ∧ m ≠ (s.core (g / 2)).mode then some m else none

/-- QUEUED_WRSR_APPLY (R293, R414): at the head of the queue, behind the instructions issued before it; one that changes MODE
begins its wait.
DESIGN CHOICE (log 27). -/
def execQueuedWrsrApply (thread : Nat) (s : State) : Host.Outcome State Fault Refusal :=
  .next (match s.tileHead thread with
    | some e =>
      (match e.op with
       | .wrsr n _ =>
         let s := s.drainTiles thread
         if (s.thread thread).stopped then s
         else if (s.newMode thread n e.ring e.value).isSome then
           s.onCore (thread / 2) (fun c => { c with modeDrain := some thread })
         else (s.onThread thread (fun t => t.applyQueued n e.value)).popTile thread
       | .tile _ => s)
    | none => s)

/-- SWARD_MODE_CHANGE (R408, R414): every issued instruction of both threads has completed. A TWAIT of the other thread that still
waits is not one of them.
DESIGN CHOICE (log 30). -/
def execSwardModeChange (core : Nat) (s : State) : Host.Outcome State Fault Refusal :=
  .next (match (s.core core).modeDrain with
    | none => s
    | some g =>
      let issued (h : Nat) : Bool := s.getInFlight h || (s.thread h).tile.move.isSome
      if issued (2 * core) || issued (2 * core + 1) then s
      else match (s.thread g).tile.queue.head? with
        | some e =>
          (match e.op with
           | .wrsr n _ =>
             let s' := (s.onThread g (fun t => t.applyQueued n e.value)).popTile g
             s'.onCore core (fun c =>
               { c with modeDrain := none, mode := (s.newMode g n e.ring e.value).getD c.mode, owner := g % 2 })
           | .tile _ => s)
        | none => s)

/-! ### TWAIT and TFENCE -/

/-- SCNTm of a core. -/
def Core.scntOf (c : Core) (m : Nat) : Word := FMap.get c.scnt m 0

/-- An instruction that issues alone at the head of a queue, those issued before it complete.
DESIGN CHOICE (log 27). -/
def State.aloneRow (s : State) (g : Nat) (p : TileInsn → Bool) (f : State → TileInsn → State) : State :=
  (s.drainTiles g).tileRow g p (fun _ t => f (s.drainTiles g) t)

/-- TWAIT issues alone and begins its wait (R429).
DESIGN CHOICE (log 30). -/
def execTwait (thread : Nat) (s : State) : Host.Outcome State Fault Refusal :=
  .next (s.aloneRow thread (isOp 0x11) (fun s _ => s.onTile thread (fun x => { x with waiting := true })))

/-- Has the count of a TWAIT reached its value: (COUNT − v) mod 2^32 < 2^31? -/
def countReached (scnt : Word) (v : Nat) : Bool := decide ((scnt.toNat % 2 ^ 32 + 2 ^ 32 - v % 2 ^ 32) % 2 ^ 32 < 2 ^ 31)

/-- TWAIT_RELEASE (R429, R430): a counter that carries an error stops the stream. -/
def execTwaitRelease (thread : Nat) (s : State) : Host.Outcome State Fault Refusal :=
  .next (s.tileRow thread (fun t => isOp 0x11 t && (s.thread thread).tile.waiting) (fun _ t =>
    let c := (s.core (thread / 2)).scntOf (t.fw % 16)
    if !countReached c t.i.toNat then s
    else if bitOf c.toNat 32 then s.stopTile thread 0x13 0x08 0 0
    else s.popTile thread))

/-- TFENCE (R304): every older access of the thread is performed when it stands at the head. -/
def execTfence (thread : Nat) (s : State) : Host.Outcome State Fault Refusal :=
  .next (s.aloneRow thread (isOp 0x13) (fun s _ => s.popTile thread))

/-! ### Joining instructions -/

/-- A joining row issues its own opcode only. -/
def State.joinRow (s : State) (t : TileInsn) (o : Nat) (body : State → Fin) : State :=
  if t.op.toNat = o then s.issueTile t body else s

/-- TSYNC (R305, R309). -/
def execTsync (t : TileInsn) (s : State) : Host.Outcome State Fault Refusal :=
  .next (s.joinRow t 0x12 (fun s =>
    let g := t.thread
    let s := s.drainTiles g
    let th := s.thread g
    let go := if s.sward g then Fin.ok s else .hold .tileJoin
    if bitOf t.fw 0 then
      if th.stopped || th.tile.queue.isEmpty then go else .hold .tileJoin
    else match s.joinFault g with
      | some (f, s') => .flt f s'
      | none => if th.tile.queue.isEmpty then go else .hold .tileJoin))

/-- Removes `n` entries, clears TPROG and any held fault, and restarts at row DONE when none is removed (R310).
DESIGN CHOICE (log 28). -/
def State.resumeTile (s : State) (g n : Nat) : State :=
  let t := s.thread g
  if t.stopped then
    (s.setThread g (t.sysSet Sys.tprog 0)).onTile g (fun x =>
      { x with queue := x.queue.drop n, held := none, waiting := false, move := none,
               resume := if n = 0 then bitsOf (t.sysNat Sys.tprog) 6 0 else 0 })
  else s

/-- TRESUME with SKIP = 0 and FLUSH = 0 (R310). -/
def execTresume (t : TileInsn) (s : State) : Host.Outcome State Fault Refusal :=
  .next (if t.fw % 4 = 0 then s.joinRow t 0x16 (fun s => .ok (s.resumeTile t.thread 0)) else s)

/-- TRESUME with SKIP = 1 and FLUSH = 0. -/
def execTresumeSkip (t : TileInsn) (s : State) : Host.Outcome State Fault Refusal :=
  .next (if t.fw % 4 = 1 then s.joinRow t 0x16 (fun s => .ok (s.resumeTile t.thread 1)) else s)

/-- TRESUME with FLUSH = 1. -/
def execTresumeFlush (t : TileInsn) (s : State) : Host.Outcome State Fault Refusal :=
  .next (if 2 ≤ t.fw % 4 then
      s.joinRow t 0x16 (fun s => .ok (s.resumeTile t.thread (s.thread t.thread).tile.queue.length)) else s)

/-- What TQRY writes (R311). -/
def Thread.tqryWord (t : Thread) : Nat :=
  let p := t.sysNat Sys.tprog
  t.tile.queue.length % 64 + natOf (bitOf p 63) * 2 ^ 6 + natOf t.tile.held.isSome * 2 ^ 7 + bitsOf p 39 32 * 2 ^ 8 +
    bitsOf p 47 40 * 2 ^ 16 + natOf (t.tile.inuse != 0) * 2 ^ 24 + natOf (bitOf (t.sysNat Sys.txprog) 0) * 2 ^ 25

/-- TQRY (R311). -/
def execTqry (t : TileInsn) (s : State) : Host.Outcome State Fault Refusal :=
  .next (s.joinRow t 0x17 (fun s =>
    let th := s.thread t.thread
    .ok (s.setThread t.thread (th.setReg (t.fw % 64) (BitVec.ofNat 64 th.tqryWord)))))

/-! ### TSAVE -/

/-- The 64-byte units of the marked registers, as area offsets in ascending order (Table 7-9). -/
def regUnits (inuse : BitVec 20) : List Nat :=
  ((List.range 20).map (fun c =>
    if inuse.getLsbD c then (List.range (regBytes c / 64)).map (fun i => 0x400 + regBase c + 64 * i) else [])).flatten

/-- All units: the sixteen of the header first. -/
def saveUnits (inuse : BitVec 20) : List Nat := (List.range 16).map (64 * ·) ++ regUnits inuse

/-- A residue entry as 24 bytes (Table 7-10). -/
def entryBytes (e : TqEntry) : List Byte :=
  let (bs, len) := match e.op with
    | .tile t => (t.bytes, t.bodyLen)
    | .wrsr n r => ([0xF0, 0x11] ++ leBytes 3 (n * 2 ^ 12 + r), 5)
  (bs ++ List.replicate 12 0).take 12 ++ leBytes 1 len ++ leBytes 1 (e.ring % 4) ++ leBytes 2 0 ++
    leBytes 8 e.value.toNat

/-- The residue of a stopped stream. -/
def Thread.residue (t : Thread) : List TqEntry := if t.stopped then t.tile.queue else []

/-- The word that TSAVE writes last into bytes 0–7 (Table 7-10). -/
def Thread.saveWord (t : Thread) : Nat :=
  1 + natOf t.stopped * 2 ^ 8 + natOf t.tile.held.isSome * 2 ^ 9 + t.residue.length % 64 * 2 ^ 10 +
    t.tile.inuse.toNat * 2 ^ 16

/-- The header with bytes 0–7 zero (Table 7-10). -/
def Thread.saveHeader (t : Thread) : List Byte :=
  let q (n : Nat) := leBytes 8 (t.sysNat n)
  let two (a b : Nat) := leBytes 4 (t.sysNat a) ++ leBytes 4 (t.sysNat b)
  let held := match t.tile.held with | some (c, u) => leBytes 8 (c % 256 + u % 256 * 256) | none => leBytes 8 0
  let head := leBytes 8 0 ++ q Sys.tctl ++ q Sys.tstat ++ q Sys.tfirst ++ two 0x504 0x505 ++ two 0x506 0x507 ++
    q Sys.tprog ++ q Sys.tqip ++ ((List.range 8).map (fun n => q (Sys.tcfg n))).flatten ++ held ++
    leBytes 8 t.tile.faddr.toNat ++ List.replicate 48 0 ++ (t.residue.map entryBytes).flatten
  (head ++ List.replicate 1024 0).take 1024

/-- What the access of one unit comes to. -/
inductive UnitRes where
  | ok (s : State)
  | flt (f : Flt) (s : State)
  | stall (h : Hold) (s : State)
  deriving DecidableEq, Repr

/-- How a run of units ends: all done, cut, failed or waiting for a line; with the units completed. -/
inductive UnitsEnd where
  | done (s : State)
  | cut (s : State) (n : Nat)
  | fail (s : State) (n : Nat) (f : Flt)
  | stall (s : State) (n : Nat) (h : Hold)
  deriving DecidableEq, Repr

/-- Runs `f` on each unit; after `left` of them (when given) the rest are cut (R320, R334). -/
def runUnits (f : State → Nat → UnitRes) (units : List Nat) (s : State) (n : Nat) (left : Option Nat) : UnitsEnd :=
  match units with
  | [] => .done s
  | u :: us =>
    if left = some 0 then .cut s n
    else match f s u with
      | .flt e s => .fail s n e
      | .stall h s => .stall s n h
      | .ok s => runUnits f us s (n + 1) (left.map (· - 1))

/-- TXPROG as an interruption or a failure leaves it (R320, R321). -/
def Thread.noteProgress (t : Thread) (op n : Nat) : Thread :=
  t.sysSet Sys.txprog (BitVec.ofNat 64 (1 + 2 * op + bitsOf (t.sysNat Sys.tsavea) 47 12 * 4096 + n % 2 ^ 11 * 2 ^ 48))

/-- The units an active TXPROG of the same operation and area leaves done (R320). -/
def Thread.linesDone (t : Thread) (op : Nat) : Nat :=
  let x := t.sysNat Sys.txprog
  if bitOf x 0 && bitsOf x 1 1 == op && bitsOf x 47 12 == bitsOf (t.sysNat Sys.tsavea) 47 12 then bitsOf x 58 48 else 0

/-- The end of a run of units: completion by `fin`, an interrupt with FPROG = LINES (R320), the scalar fault (R321), or part-way,
while it waits for a line or runs on (R334). `least` is the units that were done before.
DESIGN CHOICE (log 28). -/
def State.unitsEnd (g op least : Nat) (r : UnitsEnd) (fin : State → Fin) : Fin :=
  let note (s : State) (n : Nat) : State := s.onThread g (fun t => t.noteProgress op (max n least))
  let part (s : State) (n : Nat) : State := (note s n).onThread g (fun t => { t with prog := max n least })
  match r with
  | .done s => fin s
  | .cut s n =>
    if (s.nextIrq g).isSome then .irq (note s n) (BitVec.ofNat 64 (max n least))
    else .stall .tileJoin (part s n)
  | .stall s n h => .stall h (part s n)
  | .fail s n f => .flt { f with fprog := BitVec.ofNat 64 (max n least) } (note s n)

/-- The address of an area offset. -/
def Thread.areaAt (t : Thread) (off : Nat) : Nat := bitsOf (t.sysNat Sys.tsavea) 47 12 * 4096 + off

/-- The frame of TSAVE and TRSTR (R316): the wait for an empty queue or a stopped stream. -/
def State.unitRow (s : State) (t : TileInsn) (o : Nat) (body : State → Fin) : State :=
  s.joinRow t o (fun s =>
    let s := s.drainTiles t.thread
    let th := s.thread t.thread
    if (th.tile.queue.isEmpty || th.stopped) && s.sward t.thread then body s else .hold .tileJoin)

/-- Stores a part of the save area at the ring of PSW.PL (R316). -/
def State.storeUnit (s : State) (g off : Nat) (bs : List Byte) : UnitRes :=
  let th := s.thread g
  match s.check g th.ring Need.blockSt (th.areaAt off) bs.length with
  | .error e => .flt e.flt s
  | .ok rs =>
    match s.storeVia g .tileWrite rs bs with
    | some s => .ok s
    | none => .stall (s.lineHold (g / 2) rs) s

/-- TSAVE (R317). `units` is the number of 64-byte units it gets through before it is cut (R320, R334). Of a stopped stream it
clears the whole of TPROG and leaves TQIP. DESIGN CHOICE (log 28). -/
def execTsave (t : TileInsn) (units : Option Nat) (s : State) : Host.Outcome State Fault Refusal :=
  .next (s.unitRow t 0x14 (fun s =>
    let g := t.thread
    let th := s.thread g
    let n := th.linesDone 0
    let hdr := th.saveHeader
    let unit (s : State) (off : Nat) : UnitRes :=
      s.storeUnit g off (if off < 0x400 then (hdr.drop off).take 64 else Mem.block th.tile.data (off - 0x400) 64)
    let all := saveUnits th.tile.inuse
    State.unitsEnd g 0 n (runUnits unit (all.drop n) s n units) (fun s =>
      let last := runUnits (fun s _ => s.storeUnit g 0 (leBytes 8 th.saveWord)) [0] s all.length none
      State.unitsEnd g 0 n last (fun s =>
        .ok (s.onThread g (fun u =>
          let u := u.sysSet Sys.txprog (u.sysGet Sys.txprog &&& ~~~ (1 : Word))
          if u.stopped then
            { u.sysSet Sys.tprog 0 with
              tile := { u.tile with queue := [], held := none, waiting := false, move := none, resume := 0 } }
          else u))))))

/-! ### TRSTR -/

/-- A residue entry from its 24 bytes, none when malformed (R318).
DESIGN CHOICE (log 28). -/
def entryOf (g : Nat) (ip : Option Word) (bs : List Byte) : Option TqEntry :=
  let len := (bs.getD 12 0).toNat
  let ring := (bs.getD 13 0).toNat % 4
  let value := BitVec.ofNat 64 (leNat ((bs.drop 16).take 8))
  if len = 5 then
    let o := leNat ((bs.drop 2).take 3)
    if bs.getD 0 0 = 0xF0 ∧ bs.getD 1 0 = 0x11 ∧ bitsOf o 11 6 = 0 ∧ o % 64 < 40 ∧ sysQueued (o / 2 ^ 12) then
      some { op := .wrsr (o / 2 ^ 12) (o % 64), ring := ring, value := value, ip := ip }
    else none
  else
    let t : TileInsn :=
      { thread := g, prefixes := [], esc := bs.getD 0 0, op := bs.getD 1 0, f := BitVec.ofNat 32 (leNat ((bs.drop 2).take 4)),
        i := if 10 ≤ len then BitVec.ofNat 32 (leNat ((bs.drop 6).take 4)) else 0,
        e := if 12 ≤ len then BitVec.ofNat 16 (leNat ((bs.drop 10).take 2)) else 0 }
    if (t.esc = 0xE8 ∨ t.esc = 0xE9) ∧ t.assigned ∧ t.fieldsOk ∧ t.bodyLen = len then
      some { op := .tile t, ring := ring, value := value, ip := ip }
    else none

/-- The residue entries of a header, from entry `i` on (`n` of them). -/
def entriesOf (g : Nat) (hdr : List Byte) (i n : Nat) : Option (List TqEntry) :=
  match n with
  | 0 => some []
  | k + 1 =>
    let ip := if i = 0 then some (BitVec.ofNat 64 (leNat ((hdr.drop 56).take 6))) else none
    match entryOf g ip ((hdr.drop (192 + 24 * i)).take 24) with
    | none => none
    | some e => (entriesOf g hdr (i + 1) k).map (fun l => e :: l)

/-- The checks of a header (R318): the subcode of fault 0x11, or the residue.
DESIGN CHOICE (log 28). -/
def headerCheck (g : Nat) (hdr : List Byte) : Except Nat (List TqEntry) :=
  let w := leNat (hdr.take 8)
  let nres := bitsOf w 15 10
  if w % 256 ≠ 1 ∨ 32 < nres ∨ (bitOf w 9 ∧ !bitOf w 8) ∨ (bitOf w 8 ∧ nres = 0) then .error 0x0A
  else
    match ((List.range 8).map (fun n => leNat ((hdr.drop (64 + 8 * n)).take 8))).findSome? tcfgCheck with
    | some sub => .error sub
    | none =>
      match entriesOf g hdr 0 nres with
      | none => .error 0x0B
      | some l => .ok l

/-- The register code and offset within it of an area offset past the header. -/
def unitReg (off : Nat) : Nat × Nat :=
  let d := off - 0x400
  if d < 0x8000 then (d / 0x1000, d % 0x1000)
  else if d < 0x9000 then (8 + (d - 0x8000) / 0x200, d % 0x200)
  else (16 + (d - 0x9000) / 0x4000, (d - 0x9000) % 0x4000)

/-- The control state of a header written to a thread (R319). With STOP = 0, TPROG is 0 and TQIP keeps its value.
DESIGN CHOICE (log 28). -/
def Thread.restoreControl (t : Thread) (hdr : List Byte) (residue : List TqEntry) : Thread :=
  let q (o : Nat) : Word := BitVec.ofNat 64 (leNat ((hdr.drop o).take 8))
  let half (o : Nat) : Word := BitVec.ofNat 64 (leNat ((hdr.drop o).take 4))
  let w := (q 0).toNat
  let mask : BitVec 20 := BitVec.ofNat 20 (bitsOf w 35 16)
  let t := (t.sysSet Sys.tctl (maskWrite 0 (q 8) 0x7F)).sysSet Sys.tstat (maskWrite 0 (q 16) (sysMask Sys.tstat))
  let t := t.sysSet Sys.tfirst (maskWrite 0 (q 24) (sysMask Sys.tfirst))
  let t := (((t.sysSet 0x504 (half 32)).sysSet 0x505 (half 36)).sysSet 0x506 (half 40)).sysSet 0x507 (half 44)
  let t := (List.range 8).foldl (fun t n =>
    t.sysSet (Sys.tcfg n) (BitVec.ofNat 64 (tcfgValue ((q (64 + 8 * n)).toNat % 2 ^ 18)))) t
  let stop := bitOf w 8
  let t := t.sysSet Sys.tprog (if stop then maskWrite 0 (q 48) 0x8000FFFF0000007F ||| 0x8000000000000000 else 0)
  let t := if stop then t.sysSet Sys.tqip (BitVec.ofNat 64 ((q 56).toNat % 2 ^ 48)) else t
  let zeroed := (List.range 20).foldl (fun x c => if mask.getLsbD c then x else x.zero c) t.tile
  { t with tile :=
      { zeroed with
        inuse := mask
        queue := if stop then residue.map (fun e => { e with ring := max e.ring t.ring }) else []
        held := if bitOf w 9 then some ((q 128).toNat % 256, bitsOf (q 128).toNat 15 8) else none
        faddr := q 136, waiting := false, move := none, resume := 0, timed := [], clock := 0 } }

/-- Loads a unit of the save area at the ring of PSW.PL (R316): `k` goes on with its bytes. -/
def State.loadUnit (s : State) (g off : Nat) (k : List Byte → State → State) : UnitRes :=
  let th := s.thread g
  match s.check g th.ring Need.blockLd (th.areaAt off) 64 with
  | .error e => .flt e.flt s
  | .ok rs =>
    match s.loadVia g .tileRead rs with
    | .bytes bs s => .ok (k bs s)
    | .stall h s => .stall h s
    | .bad s sub line =>
      let a := ((rs.find? (fun r => r.pa / 64 == line)).map (·.va)).getD (th.areaAt off)
      .flt (Flt.mk' 0x14 sub (BitVec.ofNat 64 a)) s

/-- The bytes of a unit whose load has been made. -/
def State.unitBytes (s : State) (g off : Nat) : List Byte :=
  let th := s.thread g
  match s.check g th.ring Need.blockLd (th.areaAt off) 64 with
  | .error _ => []
  | .ok rs => s.refBytes g rs

/-- TRSTR (R318, R319). The header is read whole on every execution; its units count once.
DESIGN CHOICE (log 28). -/
def execTrstr (t : TileInsn) (units : Option Nat) (s : State) : Host.Outcome State Fault Refusal :=
  .next (s.unitRow t 0x15 (fun s =>
    let g := t.thread
    let n := (s.thread g).linesDone 1
    let left := units.map (fun k => k + n)
    State.unitsEnd g 1 n (runUnits (fun s off => s.loadUnit g off (fun _ s => s)) ((List.range 16).map (64 * ·)) s 0 left) (fun s =>
      let hdr := ((List.range 16).map (fun i => s.unitBytes g (64 * i))).flatten
      match headerCheck g hdr with
      | .error sub => .flt (Flt.mk' 0x11 sub 0) s
      | .ok residue =>
        let mask : BitVec 20 := BitVec.ofNat 20 (bitsOf (leNat (hdr.take 8)) 35 16)
        let m := max n 16
        let put (s : State) (off : Nat) : UnitRes :=
          s.loadUnit g off (fun bs s => s.onTile g (fun x => x.putBytes (unitReg off).1 (unitReg off).2 bs))
        State.unitsEnd g 1 n (runUnits put ((regUnits mask).drop (m - 16)) s m (left.map (fun k => k - m))) (fun s =>
          .ok (s.onThread g (fun u =>
            (u.sysSet Sys.txprog (u.sysGet Sys.txprog &&& ~~~ (1 : Word))).restoreControl hdr residue))))))

/-- A queued entry that joins, as a restored residue can hold (R318), completes at the head of its queue with no effect of its
own: everything before it is complete. DESIGN CHOICE (log 28). -/
def State.passJoins (s : State) (g : Nat) : State :=
  s.tileRow g TileInsn.joins (fun _ _ => s.popTile g)

end Sys2Proof.Machine
end

