-- ==== Sys2Proof/Machine/Control.lean ====
section
/-!
DEFINITION. Loads and stores of control-space registers (R13 to R19, Tables 15-2, 16-8, 17-10, 19-13), and the scalar loads
and stores LD, LDS, ST, LDC and STC, whose address may lie there.
-/

namespace Sys2Proof.Machine

/-! ### Loads of control space -/

/-- What a control-space load comes to: a value, a fault, or an end already delivered. -/
inductive LoadEnd where
  | val (v : Nat) (s : State)
  | flt (f : Flt)
  | stop (s : State)
  deriving DecidableEq, Repr

/-- A load of a mailbox slot (Table 17-10); SLOTCTL reads as zero. -/
def MbSlot.load (m : MbSlot) (r : Nat) : Nat :=
  if r < 0x200 then leNat (Mem.block m.req r 8)
  else if r < 0x3F0 then leNat (Mem.block m.rsp (r - 0x200) 8)
  else if r = 0x3F0 then m.state + m.tag.toNat * 2 ^ 8 + m.status % 256 * 2 ^ 16
  else 0

/-- A register of the readback slice (Table 15-2). -/
def State.readback (s : State) (d off : Nat) : Nat :=
  let x := s.domain d
  if 0x200 ≤ off then
    match x.roots[(off - 0x200) / 32]? with
    | none => 0
    | some i =>
      let e := x.grant i
      match off % 32 with
      | 0x00 => (x.store.handle i).toNat + e.kind * 2 ^ 32 + e.rights.toNat * 2 ^ 36
      | 0x08 => e.object
      | 0x10 => e.base
      | _ => e.len
  else if 0x100 ≤ off then
    match FMap.find x.windows ((off - 0x100) / 16) with
    | none => 0
    | some w => if off % 16 = 0 then 1 + bitsOf w.base 51 30 * 2 ^ 30 else bitsOf w.limit 51 30 * 2 ^ 30
  else
    match off with
    | 0x000 => d + natOf x.valid * 2 ^ 6 + natOf x.specguard * 2 ^ 7 + x.roots.length * 2 ^ 8 + x.gen % 2 ^ 32 * 2 ^ 32
    | 0x008 => x.tiles.toNat
    | 0x010 => x.evict.toNat
    | 0x018 => x.evdl
    | 0x020 => x.ways.toNat
    | 0x028 => ((List.range 4).map (fun c => ((s.share d c).1 + (s.share d c).2 * 2 ^ 8) * 2 ^ (16 * c))).sum
    | 0x030 => x.ports.toNat
    | 0x038 => x.power
    | _ => 0

/-- FSTAT (Table 16-8). -/
def State.fstat (s : State) : Nat :=
  let f := s.fabric
  let present := ((List.range 4).map (fun m => natOf (FMap.has f.members m) * 2 ^ m)).sum
  f.node + natOf f.disc * 2 ^ 16 + natOf f.coord * 2 ^ 17 + natOf f.epoch * 2 ^ 18 +
    natOf (f.phase != 0 || f.chStep != 0) * 2 ^ 19 + f.state * 2 ^ 20 + s.pins.tussockId.toNat * 2 ^ 24 + present * 2 ^ 26

/-- FPORTp (Table 16-8). -/
def FPort.load (x : FPort) : Nat :=
  x.mode + natOf x.up * 4 + natOf x.x4 * 8 + natOf x.fenced * 16 + x.peer * 2 ^ 16 + x.replay % 2 ^ 32 * 2 ^ 32

/-- A load of a thread's fabric area (Table 16-8). -/
def FabThread.load (x : FabThread) (r : Nat) : Nat :=
  if 0x80 ≤ r then leNat (Mem.block x.msg (r - 0x80) 8)
  else match r with
    | 0x08 => x.sndState + x.sndCode * 2 ^ 8
    | 0x10 => x.colSrc.toNat
    | 0x18 => x.colDst.toNat
    | 0x20 => x.colCnt
    | 0x30 => x.colState + x.colCode * 2 ^ 8 + x.colFlags.toNat * 2 ^ 16
    | _ => 0

/-- A load of the fabric agent slice (Table 16-8). -/
def State.fabricLoad (s : State) (off : Nat) : Nat :=
  if 0x30000 ≤ off then (s.fab ((off - 0x30000) / 0x100)).load (off % 0x100)
  else if 0x10000 ≤ off then
    match FMap.find s.fabric.queues ((off - 0x10000) / 32) with
    | none => 0
    | some q =>
      match off % 32 with
      | 0x00 => q.head.toNat
      | 0x08 => q.tail.toNat
      | 0x10 => q.base
      | _ => q.sz + q.isrc * 16
  else if off = 0 then s.fstat
  else if off < 0x48 then (s.fport (off / 8 - 1)).load
  else if off = 0x80 then s.fabric.ferrCode + s.fabric.ferrNode * 2 ^ 8 + s.fabric.ferrThr * 2 ^ 24
  else if off = 0x88 then s.fabricTimeout
  else 0

/-- A load of a root port's slice (Table 19-13): CFGDATA issues a configuration read, whose data are a free value.
DESIGN CHOICE (log 23). -/
def State.pcieLoad (s : State) (p off : Nat) : LoadEnd :=
  let x := s.port p
  if off < 0x1000 then .val (leNat (Mem.read x.cfg off 4)) s
  else match off with
    | 0x1000 => .val x.cfgAddr.toNat s
    | 0x1004 =>
      if x.routes && x.up then
        .val (leNat ((List.range 4).map (fun i => Config.deviceByte s.free (x.cfgAddr.toNat + i)))) { s with free := s.free + 1 }
      else .val 0xFFFFFFFF (s.onPort p (fun x => { x with ur := true }))
    | 0x1008 => .val (natOf x.ur) s
    | _ => .val 0 s

/-- A load of the register at a control-space offset by thread `g`, once the access has passed the check of R42; `va` is its
virtual address. -/
def State.csLoad (s : State) (g off : Nat) (va : Word) : LoadEnd :=
  match csLocate off with
  | .mbox d o => .val ((s.slot (slotKey d (o / 0x1000) (o % 0x1000 / 0x400))).load (o % 0x400)) s
  | .lc n d o => .val (s.lcRead n d o) s
  | .seed d o =>
    if o < 0x4000 then .val (s.seedReg d o) s
    else if !s.seed.isOpen d false then .flt (seedClosed va)
    else match s.apertureLoad g d o va with
      | .ok v => .val v s
      | .error s' => .stop s'
  | .fabric _ o => .val (s.fabricLoad o) s
  | .readback d o => .val (s.readback d o) s
  | .pcie p o => s.pcieLoad p o
  | .stream c o =>
    match (s.core c).streamRead o with
    | some v => .val v s
    | none => .flt (Flt.mk' 0x14 0x01 va)
  | .dist d o => .val (s.distRead d o) s
  | .nothing => .val 0 s

/-! ### Stores to control space -/

/-- What a control-space store comes to. -/
inductive CsEnd where
  | done (s : State)
  | hold (h : Hold) (s : State)
  | flt (f : Flt)
  deriving DecidableEq, Repr

/-- A store that is performed, or holds when there is none. -/
def CsEnd.orHold (s : State) (h : Hold) (o : Option State) : CsEnd :=
  match o with | some s' => .done s' | none => .hold h s

/-- The end of a start store. -/
def StoreEnd.cs (e : StoreEnd) : CsEnd := match e with | .done s => .done s | .hold h s => .hold h s

/-- A store to a mailbox slot: a busy slot holds it (R721). -/
def State.mboxStore (s : State) (g d off v : Nat) : CsEnd :=
  let k := off / 0x1000
  let n := off % 0x1000 / 0x400
  let r := off % 0x400
  let key := slotKey d k n
  if 0x200 ≤ r ∧ r ≠ 0x3F8 then .done s
  else if (s.slot key).state = 1 then .hold .busySlot s
  else if r = 0x3F8 then .done (s.slotCtl g d k n v)
  else .done (s.onSlot key (fun m => { m with req := Mem.write m.req r (leBytes 8 v) }))

/-- A store to a domain's Seedbank window or aperture (R571, R592). -/
def State.seedWindow (s : State) (g d off v : Nat) (va : Word) : CsEnd :=
  if 0x4000 ≤ off then
    if !s.seed.isOpen d true then .flt (seedClosed va)
    else .orHold s .seedbankBuffer (s.apertureStore g d off v va)
  else match s.seedGrant g d off v with
    | some c => .flt (Flt.mk' 0x0C c va)
    | none => .orHold s .seedbankBuffer (s.seedStore g d off v)

/-- A store to a thread's fabric area (Table 16-8); a COLCNT above its limit is reserved (R19).
DESIGN CHOICE (log 24). -/
def State.fabArea (s : State) (g r v : Nat) : CsEnd :=
  if 0x80 ≤ r then .done (s.onFab g (fun x => { x with msg := Mem.write x.msg (r - 0x80) (leBytes 8 v) }))
  else match r with
    | 0x00 => if bitOf v 0 then (s.sndStore g v).cs else .done s
    | 0x10 => .done (s.onFab g (fun x => { x with colSrc := BitVec.ofNat 64 (bitsOf v 47 0) }))
    | 0x18 => .done (s.onFab g (fun x => { x with colDst := BitVec.ofNat 64 (bitsOf v 47 0) }))
    | 0x20 =>
      if bitsOf v 22 0 ≤ 4194304 then .done (s.onFab g (fun x => { x with colCnt := bitsOf v 22 0 })) else .done s
    | 0x28 => if bitOf v 0 then (s.colStore g v).cs else .done s
    | _ => .done s

/-- A store to the fabric agent slice: the areas and QHEAD.
DESIGN CHOICE (log 24). -/
def State.fabricStore (s : State) (off v : Nat) : CsEnd :=
  if 0x30000 ≤ off then s.fabArea ((off - 0x30000) / 0x100) (off % 0x100) v
  else if 0x10000 ≤ off ∧ off % 32 = 0 then .done (s.qheadStore ((off - 0x10000) / 32) v)
  else .done s

/-- Is a byte of a root port's own configuration space read-only: its IDs, class code, revision and header type?
PRESUMED (log 22). -/
def cfgReadOnly (o : Nat) : Bool := decide (o < 4) || (decide (8 ≤ o) && decide (o < 12)) || o == 14

/-- A store to a root port's slice (Table 19-13).
PRESUMED (log 22). -/
def State.pcieStore (s : State) (p off v : Nat) : State :=
  let x := s.port p
  if off < 0x1000 then
    s.onPort p (fun x => { x with
      cfg := (List.range 4).foldl (fun m i =>
        if cfgReadOnly (off + i) then m else Mem.setByte m (off + i) (BitVec.ofNat 8 (v / 2 ^ (8 * i)))) x.cfg })
  else match off with
    | 0x1000 => s.onPort p (fun x => { x with cfgAddr := BitVec.ofNat 32 (bitsOf v 27 2 * 4) })
    | 0x1004 => if x.routes && x.up then s else s.onPort p (fun x => { x with ur := true })
    | 0x1008 => if bitOf v 0 then s.onPort p (fun x => { x with ur := false }) else s
    | _ => s

/-- A store of `v` to the register at a control-space offset by thread `g`, once the access has passed the check of R42. A
read-only register ignores it (Table 0-2). -/
def State.csStore (s : State) (g off v : Nat) (va : Word) : CsEnd :=
  match csLocate off with
  | .mbox d o => s.mboxStore g d o v
  | .lc n d o => .done (s.lcWrite n d o v)
  | .seed d o => s.seedWindow g d o v va
  | .fabric _ o => s.fabricStore o v
  | .readback _ _ => .done s
  | .pcie p o => .done (s.pcieStore p o v)
  | .stream c o => .orHold s .busyDescriptor (s.streamWrite g c o v)
  | .dist d o => .done (s.distWrite d o v)
  | .nothing => .done s

/-- The store that holds in the store queue of thread `g` is performed, at the ring it was made at, once nothing holds it (R422,
R571, R677, R681, R721); one that its window has closed to by then is lost.
DESIGN CHOICE (log 33). -/
def State.releaseStore (s : State) (g : Nat) : State :=
  match (s.thread g).stq with
  | none => s
  | some h =>
    let ringed (r : BitVec 2) (s : State) : State := s.onThread g (fun t => { t with psw := { t.psw with pl := r } })
    let done (s : State) : State := s.onThread g (fun t => { t with stq := none, hold := .none })
    let pl := (s.thread g).psw.pl
    match (ringed (BitVec.ofNat 2 h.ring) s).csStore g h.off h.value (BitVec.ofNat 64 (0xFE0000000000 + h.off)) with
    | .done s' => ringed pl (done s')
    | .hold k s' => (ringed pl s').holdAt g k
    | .flt _ => done s

/-- REGISTER_WRITE (R13): a control-space store of a running thread that reaches its register. -/
def execRegisterWrite (w : CsStore) (s : State) : Host.Outcome State Fault Refusal :=
  let g := w.thread
  let va := BitVec.ofNat 64 (0xFE0000000000 + w.offset)
  .next (if s.csReaches w (fun _ => w.offset % w.width == 0) && decide (g < 256) then
      match s.csGrant g ((s.domOf g).getD 64) w.offset true none with
      | .error c => s.fault g (Flt.mk' 0x0C c va)
      | .ok _ =>
        match s.csStore g w.offset w.value.toNat va with
        | .done s' => s'.holdAt g .none
        | .hold h s' => s'.holdStore g h w.offset w.value.toNat
        | .flt f => s.fault g f
    else s)

/-! ### LD, LDS, ST, LDC, STC -/

/-- The framing of the scalar loads and stores (Table 3-1, form M); LDS needs a size prefix (R112). -/
def opMem (two need : Bool) : Op :=
  { Op.plain two .m (fun x => x.memValid) with size := true, need := need }

/-- The ring at which LDC and STC are checked (R171). -/
def Thread.callerRing (t : Thread) : Nat := max t.ring (bitsOf (t.sysNat Sys.gcaller) 1 0)

/-- The control-space offset a checked access goes to, if it goes to one. -/
def controlOf (rs : List ByteRef) : Option Nat :=
  match rs with
  | r :: _ => (match r.tgt with | .control off => some off | _ => none)
  | [] => none

/-- A value as a load writes it: the low `w` bits, sign-extended or zero-extended. -/
def extendLoad (v w : Nat) (signed : Bool) : Word :=
  if signed && bitOf v (w - 1) then BitVec.ofNat 64 (v % 2 ^ w + (2 ^ 64 - 2 ^ w)) else BitVec.ofNat 64 (v % 2 ^ w)

/-- The end of a load that has its value; `evs` are the misses its data came by. -/
def State.loadDone (s : State) (x : Insn) (signed : Bool) (va : Word) (v : Nat) (evs : List Nat) : Fin :=
  let g := x.thread
  let s := s.onThread g (fun t => t.setReg x.rd (extendLoad v x.width signed))
  let (s, hit) := s.noteAccess g false va.toNat (x.width / 8)
  .done s none (0x05 :: evs) hit false

/-- A load from normal or PCIe memory whose references passed (R456, R465, R501): a line of Loam that came poisoned raises fault
0x14. -/
def State.loadNormal (s : State) (x : Insn) (signed : Bool) (va : Word) (rs : List ByteRef) (early : List Nat) : Fin :=
  let g := x.thread
  let late := (s.missEvents g rs).filter (fun e => !early.contains e)
  match s.loadVia g .load rs with
  | .bytes bs s' => s'.loadDone x signed va (leNat bs) (early ++ late ++ (if hasLoam rs then [0x0B] else []))
  | .stall h s' => .stall h s'
  | .bad s' sub line =>
    let a := ((rs.find? (fun r => r.pa / 64 == line)).map (·.va)).getD va.toNat
    .flt (Flt.mk' 0x14 sub (BitVec.ofNat 64 a)) s'

/-- A scalar load checked at ring `p` (R42, R59, R171, R271): one that ran ahead waits for the install of its line.
DESIGN CHOICE (log 23).
DEDUCED (log 26). -/
def State.scalarLoad (s : State) (o : Op) (x : Insn) (p : Nat) (signed : Bool) : Fin :=
  let g := x.thread
  let va := s.ea o x
  match s.fenceWait g with
  | some r => r
  | none =>
    match s.retireSpec g va.toNat (x.width / 8) with
    | .wait => .hold .install
    | .go s early =>
      match s.check g p Need.ld va.toNat (x.width / 8) with
      | .error e => .flt e.flt s
      | .ok rs =>
        match controlOf rs with
        | some off =>
          (match s.csLoad g off va with
          | .val v s' => (s'.useRefs g false rs).loadDone x signed va v []
          | .flt f => .flt f s
          | .stop s' => .wait s')
        | none =>
          match s.severed rs with
          | some m => .wait (s.machineCheck (severedError g m))
          | none => s.loadNormal x signed va rs early

/-- The end of a store that retires. -/
def State.storeDone (s : State) (x : Insn) (va : Word) (evs : List Nat) : Fin :=
  let (s, hit) := s.noteAccess x.thread true va.toNat (x.width / 8)
  .done s none (0x09 :: evs) hit false

/-- A scalar store checked at ring `p` (R42, R171, R456): a store that fails on any byte writes none, one to control space that
holds retires and stays in the store queue (R422), and younger loads that ran ahead over its bytes are re-executed (R274, R288).
DEDUCED (log 16, 26). -/
def State.scalarStore (s : State) (o : Op) (x : Insn) (p : Nat) : Fin :=
  let g := x.thread
  let va := s.ea o x
  let v := ((s.thread g).reg x.rd).toNat % 2 ^ x.width
  match s.fenceWait g with
  | some r => r
  | none =>
    match s.check g p Need.st va.toNat (x.width / 8) with
    | .error e => .flt e.flt s
    | .ok rs =>
      match controlOf rs with
      | some off =>
        (match (s.useRefs g true rs).csStore g off v va with
        | .done s' => s'.storeDone x va []
        | .hold h s' => (s'.holdStore g h off v).storeDone x va []
        | .flt f => .flt f s)
      | none =>
        match s.severed rs with
        | some m => .wait (s.machineCheck (severedError g m))
        | none =>
          match s.storeVia g .store rs (leBytes (x.width / 8) v) with
          | none => .stall (s.lineHold (g / 2) rs) s
          | some s' => (s'.storeOverlap g va.toNat (x.width / 8)).storeDone x va []

/-- LD, 0x60. -/
def execLd (x : Insn) (s : State) : Host.Outcome State Fault Refusal :=
  .next (s.issue (opMem false false) x (fun s => s.scalarLoad (opMem false false) x (s.thread x.thread).ring false))

/-- LDS, 0x61. -/
def execLds (x : Insn) (s : State) : Host.Outcome State Fault Refusal :=
  .next (s.issue (opMem false true) x (fun s => s.scalarLoad (opMem false true) x (s.thread x.thread).ring true))

/-- ST, 0x62. -/
def execSt (x : Insn) (s : State) : Host.Outcome State Fault Refusal :=
  .next (s.issue (opMem false false) x (fun s => s.scalarStore (opMem false false) x (s.thread x.thread).ring))

/-- LDC, 0xF0 0x40 (R171). -/
def execLdc (x : Insn) (s : State) : Host.Outcome State Fault Refusal :=
  .next (s.issue (opMem true false) x (fun s => s.scalarLoad (opMem true false) x (s.thread x.thread).callerRing false))

/-- STC, 0xF0 0x41 (R171). -/
def execStc (x : Insn) (s : State) : Host.Outcome State Fault Refusal :=
  .next (s.issue (opMem true false) x (fun s => s.scalarStore (opMem true false) x (s.thread x.thread).callerRing))

/-! ### What no command brings about -/

/-- Time passes on an empty queue: the tick of SCLK; then stores that hold in their store queues are tried, Fixed-time schedules
run out, joining entries of a restored residue pass, and the fabric agent goes on, thread by thread in ascending number. DESIGN
CHOICE (log 1). -/
def State.idle (s : State) : State :=
  let s := s.tick
  let gs := s.threads.map (·.1)
  (gs.foldl (fun s g => ((s.releaseStore g).drainTiles g).passJoins g) s).fabricTick

end Sys2Proof.Machine
end

