-- ==== Sys2Proof/Machine/FloatOps.lean ====
section
/-!
DEFINITION. Scalar floating point and conversions (R138 to R144, R820).
-/

namespace Sys2Proof.Machine

/-- FCSR.RM, TE and FLG (Table 3-6). -/
def Thread.frm (t : Thread) : Nat := bitsOf t.fcsr.toNat 1 0
def Thread.fte (t : Thread) : Nat := bitsOf t.fcsr.toNat 6 2

/-- Sets sticky flags by the exceptions met. -/
def Thread.addFlags (t : Thread) (exc : Nat) : Thread :=
  { t with fcsr := t.fcsr ||| BitVec.ofNat 12 (exc % 32 * 2 ^ 7) }

/-- The end of an operation that met `exc`: the flags, then the trap of the first enabled exception with the rest left
undone (R141), else `write`.
DEDUCED (log 17). -/
def State.fpEnd (s : State) (x : Insn) (exc : Nat) (write : State → State) : Fin :=
  let t := s.thread x.thread
  let s := s.setThread x.thread (t.addFlags exc)
  match trapSub exc t.fte with
  | some sub => .flt (Flt.mk' 0x0E sub 0) s
  | none => .ok (write s)

/-- The format bit 0 of the function selects (R138). -/
def fmtOf (k : Nat) : BinFmt := if k % 2 = 1 then binary64 else binary32

/-- The bits of a format in an f register; a result in binary32 clears bits [63:32]. -/
def BinFmt.bits (f : BinFmt) : Nat := 1 + f.eb + f.mb

/-- An f register's operand in a format. -/
def Thread.fval (t : Thread) (f : BinFmt) (r : Nat) : Nat := (t.freg r).toNat % 2 ^ f.bits

/-- Writes an f register's result. -/
def State.setF (s : State) (g r v : Nat) : State := s.onThread g (fun t => t.setFreg r (BitVec.ofNat 64 v))

/-- Valid fields of opcodes 0xC0–0xC9: f positions, function bits [5:1] zero. -/
def validF (dest b : Insn → Bool) (x : Insn) : Bool := dest x && isFp x.ra && b x && decide (x.fn < 2)

/-- A floating-point operation of two sources. -/
def State.fp2 (s : State) (x : Insn) (f : BinFmt → Nat → Nat → Nat → FOut) : State :=
  s.issue (Op.plain false .r3 (validF (fun x => isFp x.rd) (fun x => isFp x.rb))) x (fun s =>
    let t := s.thread x.thread
    let k := fmtOf x.fn
    let r := f k t.frm (t.fval k x.ra) (t.fval k x.rb)
    s.fpEnd x r.exc (fun s => s.setF x.thread x.rd r.val))

/-- FADD, 0xC0. -/
def execFadd (x : Insn) (s : State) : Host.Outcome State Fault Refusal :=
  .next (s.fp2 x (fun k rm a b => k.addNum rm (k.unpack a) (k.unpack b)))

/-- FSUB, 0xC1. -/
def execFsub (x : Insn) (s : State) : Host.Outcome State Fault Refusal :=
  .next (s.fp2 x (fun k rm a b => k.addNum rm (k.unpack a) (k.unpack b).negate))

/-- FMUL, 0xC2. -/
def execFmul (x : Insn) (s : State) : Host.Outcome State Fault Refusal :=
  .next (s.fp2 x (fun k rm a b => k.mulNum rm (k.unpack a) (k.unpack b)))

/-- FDIV, 0xC3. -/
def execFdiv (x : Insn) (s : State) : Host.Outcome State Fault Refusal :=
  .next (s.fp2 x (fun k rm a b => k.divNum rm (k.unpack a) (k.unpack b)))

/-- FSQRT, 0xC4: source b is 0. -/
def execFsqrt (x : Insn) (s : State) : Host.Outcome State Fault Refusal :=
  .next (s.issue (Op.plain false .r3 (validF (fun x => isFp x.rd) (fun x => x.rb == 0))) x (fun s =>
    let t := s.thread x.thread
    let k := fmtOf x.fn
    let r := k.sqrtNum t.frm (k.unpack (t.fval k x.ra))
    s.fpEnd x r.exc (fun s => s.setF x.thread x.rd r.val)))

/-- FMIN, 0xC5 (R139). -/
def execFmin (x : Insn) (s : State) : Host.Outcome State Fault Refusal :=
  .next (s.fp2 x (fun k _ a b => k.minMax false a b))

/-- FMAX, 0xC6 (R139). -/
def execFmax (x : Insn) (s : State) : Host.Outcome State Fault Refusal :=
  .next (s.fp2 x (fun k _ a b => k.minMax true a b))

/-- A compare: FL by Table 3-8, the destination field 0; `quiet` says whether a quiet NaN passes unsignalled. -/
def State.fcompare (s : State) (x : Insn) (quiet : Bool) : State :=
  s.issue (Op.plain false .r3 (validF (fun x => x.rd == 0) (fun x => isFp x.rb))) x (fun s =>
    let t := s.thread x.thread
    let k := fmtOf x.fn
    let a := k.unpack (t.fval k x.ra)
    let b := k.unpack (t.fval k x.rb)
    let bad := if quiet then a.snan || b.snan else a.isNan || b.isNan
    s.fpEnd x (natOf bad) (fun s => s.onThread x.thread (fun t => { t with fl := cmpFlags (numCmp a b) })))

/-- FCMP, 0xC7 (R142). -/
def execFcmp (x : Insn) (s : State) : Host.Outcome State Fault Refusal := .next (s.fcompare x true)

/-- FCMPE, 0xC8 (R142). -/
def execFcmpe (x : Insn) (s : State) : Host.Outcome State Fault Refusal := .next (s.fcompare x false)

/-- FMA, 0xC9: dest := a × b + dest, one rounding (R138). -/
def execFma (x : Insn) (s : State) : Host.Outcome State Fault Refusal :=
  .next (s.issue (Op.plain false .r3 (validF (fun x => isFp x.rd) (fun x => isFp x.rb))) x (fun s =>
    let t := s.thread x.thread
    let k := fmtOf x.fn
    let r := k.fmaNum t.frm (k.unpack (t.fval k x.ra)) (k.unpack (t.fval k x.rb)) (k.unpack (t.fval k x.rd))
    s.fpEnd x r.exc (fun s => s.setF x.thread x.rd r.val)))

/-- RDFCSR, 0xF1 0x00 (Table 3-9). -/
def execRdfcsr (x : Insn) (s : State) : Host.Outcome State Fault Refusal :=
  .next (s.issue (Op.plain true .r3 (fun x => isInt x.rd && x.ra == 0 && x.rb == 0 && x.fn == 0)) x (fun s =>
    let t := s.thread x.thread
    .ok (s.setThread x.thread (t.setReg x.rd (t.fcsr.zeroExtend 64)))))

/-- WRFCSR, 0xF1 0x01. -/
def execWrfcsr (x : Insn) (s : State) : Host.Outcome State Fault Refusal :=
  .next (s.issue (Op.plain true .r3 (fun x => x.rd == 0 && isInt x.ra && x.rb == 0 && x.fn == 0)) x (fun s =>
    let t := s.thread x.thread
    .ok (s.setThread x.thread { t with fcsr := (t.reg x.ra).truncate 12 })))

/-- A conversion between binary formats (0xF1 0x02, 0x03). -/
def State.fcvtF (s : State) (x : Insn) (src dst : BinFmt) : State :=
  s.issue (Op.plain true .r3 (fun x => isFp x.rd && isFp x.ra && x.rb == 0 && x.fn == 0)) x (fun s =>
    let t := s.thread x.thread
    let r := dst.convert t.frm (src.unpack (t.fval src x.ra))
    s.fpEnd x r.exc (fun s => s.setF x.thread x.rd r.val))

/-- FCVT binary64 to binary32, 0xF1 0x02. -/
def execFcvtB64ToB32 (x : Insn) (s : State) : Host.Outcome State Fault Refusal := .next (s.fcvtF x binary64 binary32)

/-- FCVT binary32 to binary64, 0xF1 0x03. -/
def execFcvtB32ToB64 (x : Insn) (s : State) : Host.Outcome State Fault Refusal := .next (s.fcvtF x binary32 binary64)

/-- A conversion to a `w`-bit integer (R143); a 32-bit result clears bits [63:32] (R820). -/
def State.fcvtToInt (s : State) (x : Insn) (w : Nat) (signed : Bool) : State :=
  s.issue (Op.plain true .r3 (fun x => isInt x.rd && isFp x.ra && x.rb == 0 && decide (x.fn < 2))) x (fun s =>
    let t := s.thread x.thread
    let k := fmtOf x.fn
    let r := toIntOut t.frm w signed (k.unpack (t.fval k x.ra))
    s.fpEnd x r.exc (fun s => s.setInt x.thread x.rd w r.val))

/-- FCVT to a signed 32-bit integer, 0xF1 0x04. -/
def execFcvtToS32 (x : Insn) (s : State) : Host.Outcome State Fault Refusal := .next (s.fcvtToInt x 32 true)

/-- FCVT to an unsigned 32-bit integer, 0xF1 0x05. -/
def execFcvtToU32 (x : Insn) (s : State) : Host.Outcome State Fault Refusal := .next (s.fcvtToInt x 32 false)

/-- FCVT to a signed 64-bit integer, 0xF1 0x06. -/
def execFcvtToS64 (x : Insn) (s : State) : Host.Outcome State Fault Refusal := .next (s.fcvtToInt x 64 true)

/-- FCVT to an unsigned 64-bit integer, 0xF1 0x07. -/
def execFcvtToU64 (x : Insn) (s : State) : Host.Outcome State Fault Refusal := .next (s.fcvtToInt x 64 false)

/-- A conversion from a `w`-bit integer, rounded once; zero gives +0. -/
def State.fcvtFromInt (s : State) (x : Insn) (w : Nat) (signed : Bool) : State :=
  s.issue (Op.plain true .r3 (fun x => isFp x.rd && isInt x.ra && x.rb == 0 && decide (x.fn < 2))) x (fun s =>
    let t := s.thread x.thread
    let k := fmtOf x.fn
    let v := (t.reg x.ra).toNat % 2 ^ w
    let i : Int := if signed then signedOf w v else Int.ofNat v
    let r := k.round t.frm (decide (i < 0)) i.natAbs 0 false
    s.fpEnd x r.exc (fun s => s.setF x.thread x.rd r.val))

/-- FCVT from a signed 32-bit integer, 0xF1 0x08. -/
def execFcvtFromS32 (x : Insn) (s : State) : Host.Outcome State Fault Refusal := .next (s.fcvtFromInt x 32 true)

/-- FCVT from an unsigned 32-bit integer, 0xF1 0x09. -/
def execFcvtFromU32 (x : Insn) (s : State) : Host.Outcome State Fault Refusal := .next (s.fcvtFromInt x 32 false)

/-- FCVT from a signed 64-bit integer, 0xF1 0x0A. -/
def execFcvtFromS64 (x : Insn) (s : State) : Host.Outcome State Fault Refusal := .next (s.fcvtFromInt x 64 true)

/-- FCVT from an unsigned 64-bit integer, 0xF1 0x0B. -/
def execFcvtFromU64 (x : Insn) (s : State) : Host.Outcome State Fault Refusal := .next (s.fcvtFromInt x 64 false)

end Sys2Proof.Machine
end

