-- ==== Sys2Proof/Machine/Integer.lean ====
section
/-!
DEFINITION. Integer instructions of chapter 3: arithmetic and logic in forms R3 and RI, SETcc and the FL moves, bit
fields, PERM, multiply and divide (R111 to R123, R130 to R133).
-/

namespace Sys2Proof.Machine

/-- Three integer specifiers and no function. -/
def validR3 (x : Insn) : Bool := isInt x.rd && isInt x.ra && isInt x.rb && x.fn == 0

/-- The framing of an integer opcode of form R3. -/
def opR3 (size sf : Bool) (valid : Insn → Bool) : Op :=
  { Op.plain false .r3 valid with size := size, sf := sf }

/-- The framing of the integer opcodes of form RI. -/
def opRI : Op :=
  { Op.plain false .ri (fun x => isInt x.rd2 && isInt x.rs2) with size := true, sf := true }

/-- Writes an integer result under R59, and FL when the instruction is a flag-setting form (R113). -/
def State.aluResult (s : State) (x : Insn) (rd : Nat) (r : AluOut) : State :=
  let s := s.setInt x.thread rd x.width r.val
  if x.sf then s.onThread x.thread (fun t => { t with fl := r.fl }) else s

/-- FL.C as a number. -/
def Thread.carry (t : Thread) : Nat := natOf (t.fl.getLsbD 1)

/-- An arithmetic or logic instruction of form R3: `f` takes the width, both operands and FL.C. -/
def State.aluReg (s : State) (x : Insn) (f : Nat → Nat → Nat → Nat → AluOut) : State :=
  s.issue (opR3 true true validR3) x (fun s =>
    let t := s.thread x.thread
    .ok (s.aluResult x x.rd (f x.width (t.reg x.ra).toNat (t.reg x.rb).toNat t.carry)))

/-- The same in form RI, with the immediate as second operand. -/
def State.aluImm (s : State) (x : Insn) (f : Nat → Nat → Nat → Nat → AluOut) : State :=
  s.issue opRI x (fun s =>
    let t := s.thread x.thread
    .ok (s.aluResult x x.rd2 (f x.width (t.reg x.rs2).toNat x.immRI.toNat t.carry)))

/-- a AND NOT b, with b complemented at the width (R112). -/
def andNot (w a b : Nat) : Nat := (a % 2 ^ w) &&& (2 ^ w - 1 - b % 2 ^ w)

/-- ADD, 0x10. -/
def execAdd (x : Insn) (s : State) : Host.Outcome State Fault Refusal :=
  .next (s.aluReg x (fun w a b _ => aluAdd w a b 0))

/-- ADC, 0x11 (R114). -/
def execAdc (x : Insn) (s : State) : Host.Outcome State Fault Refusal :=
  .next (s.aluReg x (fun w a b c => aluAdd w a b c))

/-- SUB, 0x12. -/
def execSub (x : Insn) (s : State) : Host.Outcome State Fault Refusal :=
  .next (s.aluReg x (fun w a b _ => aluSub w a b 0))

/-- SBC, 0x13 (R114). -/
def execSbc (x : Insn) (s : State) : Host.Outcome State Fault Refusal :=
  .next (s.aluReg x (fun w a b c => aluSub w a b c))

/-- AND, 0x14. -/
def execAnd (x : Insn) (s : State) : Host.Outcome State Fault Refusal :=
  .next (s.aluReg x (fun w a b _ => aluLogic w (a &&& b)))

/-- OR, 0x15. -/
def execOr (x : Insn) (s : State) : Host.Outcome State Fault Refusal :=
  .next (s.aluReg x (fun w a b _ => aluLogic w (a ||| b)))

/-- XOR, 0x16. -/
def execXor (x : Insn) (s : State) : Host.Outcome State Fault Refusal :=
  .next (s.aluReg x (fun w a b _ => aluLogic w (a ^^^ b)))

/-- ANDN, 0x17 (R112). -/
def execAndn (x : Insn) (s : State) : Host.Outcome State Fault Refusal :=
  .next (s.aluReg x (fun w a b _ => aluLogic w (andNot w a b)))

/-- SHL, 0x18. -/
def execShl (x : Insn) (s : State) : Host.Outcome State Fault Refusal :=
  .next (s.aluReg x (fun w a b _ => aluShl w a b))

/-- SHR, 0x19. -/
def execShr (x : Insn) (s : State) : Host.Outcome State Fault Refusal :=
  .next (s.aluReg x (fun w a b _ => aluShr w a b))

/-- SAR, 0x1A. -/
def execSar (x : Insn) (s : State) : Host.Outcome State Fault Refusal :=
  .next (s.aluReg x (fun w a b _ => aluSar w a b))

/-- MUL, 0x1B (R130). -/
def execMul (x : Insn) (s : State) : Host.Outcome State Fault Refusal :=
  .next (s.aluReg x (fun w a b _ => aluMul w a b))

/-- ADDI, 0x40. -/
def execAddi (x : Insn) (s : State) : Host.Outcome State Fault Refusal :=
  .next (s.aluImm x (fun w a b _ => aluAdd w a b 0))

/-- ADCI, 0x41. -/
def execAdci (x : Insn) (s : State) : Host.Outcome State Fault Refusal :=
  .next (s.aluImm x (fun w a b c => aluAdd w a b c))

/-- SUBI, 0x42. -/
def execSubi (x : Insn) (s : State) : Host.Outcome State Fault Refusal :=
  .next (s.aluImm x (fun w a b _ => aluSub w a b 0))

/-- SBCI, 0x43. -/
def execSbci (x : Insn) (s : State) : Host.Outcome State Fault Refusal :=
  .next (s.aluImm x (fun w a b c => aluSub w a b c))

/-- ANDI, 0x44. -/
def execAndi (x : Insn) (s : State) : Host.Outcome State Fault Refusal :=
  .next (s.aluImm x (fun w a b _ => aluLogic w (a &&& b)))

/-- ORI, 0x45. -/
def execOri (x : Insn) (s : State) : Host.Outcome State Fault Refusal :=
  .next (s.aluImm x (fun w a b _ => aluLogic w (a ||| b)))

/-- XORI, 0x46. -/
def execXori (x : Insn) (s : State) : Host.Outcome State Fault Refusal :=
  .next (s.aluImm x (fun w a b _ => aluLogic w (a ^^^ b)))

/-- ANDNI, 0x47 (R112). -/
def execAndni (x : Insn) (s : State) : Host.Outcome State Fault Refusal :=
  .next (s.aluImm x (fun w a b _ => aluLogic w (andNot w a b)))

/-- SHLI, 0x48. -/
def execShli (x : Insn) (s : State) : Host.Outcome State Fault Refusal :=
  .next (s.aluImm x (fun w a b _ => aluShl w a b))

/-- SHRI, 0x49. -/
def execShri (x : Insn) (s : State) : Host.Outcome State Fault Refusal :=
  .next (s.aluImm x (fun w a b _ => aluShr w a b))

/-- SARI, 0x4A. -/
def execSari (x : Insn) (s : State) : Host.Outcome State Fault Refusal :=
  .next (s.aluImm x (fun w a b _ => aluSar w a b))

/-! ### SETcc and the FL moves (R116, R117) -/

/-- The framing of opcodes 0x90–0x9F with function `k`. -/
def opR2 (k : Nat) (valid : Insn → Bool) : Op :=
  { Op.plain false .r2 valid with fnOk := fun x => x.fld 3 0 == k }

/-- SETcc, 0x90–0x9F with function 0. -/
def execSetcc (x : Insn) (cond : BitVec 4) (s : State) : Host.Outcome State Fault Refusal :=
  .next (s.issue (opR2 0 (fun x => isInt x.rd2 && x.rs2 == 0)) x (fun s =>
    let t := s.thread x.thread
    .ok (s.setThread x.thread (t.setReg x.rd2 (BitVec.ofNat 64 (natOf (condTrue cond t.fl)))))))

/-- RDFL, 0x90 with function 1. -/
def execRdfl (x : Insn) (s : State) : Host.Outcome State Fault Refusal :=
  .next (s.issue (opR2 1 (fun x => isInt x.rd2 && x.rs2 == 0)) x (fun s =>
    let t := s.thread x.thread
    .ok (s.setThread x.thread (t.setReg x.rd2 (t.fl.zeroExtend 64)))))

/-- WRFL, 0x90 with function 2. -/
def execWrfl (x : Insn) (s : State) : Host.Outcome State Fault Refusal :=
  .next (s.issue (opR2 2 (fun x => x.rd2 == 0 && isInt x.rs2)) x (fun s =>
    let t := s.thread x.thread
    .ok (s.setThread x.thread { t with fl := (t.reg x.rs2).truncate 4 })))

/-! ### Bit fields (R120 to R122) -/

/-- A bit-field instruction's fields: position source b, width minus one in the function, inside the operand width. -/
def validField (x : Insn) : Bool :=
  isInt x.rd && isInt x.ra && decide (x.rb + x.fn + 1 ≤ x.width)

/-- A bit-field instruction: `f` takes the old destination, source a, the position and the number of bits. -/
def State.bitField (s : State) (x : Insn) (f : Nat → Nat → Nat → Nat → Nat) : State :=
  s.issue (opR3 true false validField) x (fun s =>
    let t := s.thread x.thread
    .ok (s.setInt x.thread x.rd x.width (f (t.reg x.rd).toNat (t.reg x.ra).toNat x.rb (x.fn + 1))))

/-- BFX, 0xA0. -/
def execBfx (x : Insn) (s : State) : Host.Outcome State Fault Refusal :=
  .next (s.bitField x (fun _ a p n => bitsOf a (p + n - 1) p))

/-- BFXS, 0xA1. -/
def execBfxs (x : Insn) (s : State) : Host.Outcome State Fault Refusal :=
  .next (s.bitField x (fun _ a p n => narrow 64 (signedOf n (bitsOf a (p + n - 1) p))))

/-- BFI, 0xA2. -/
def execBfi (x : Insn) (s : State) : Host.Outcome State Fault Refusal :=
  .next (s.bitField x (fun d a p n => setBits d (p + n - 1) p (bitsOf a (n - 1) 0)))

/-- Zero bits above the most significant one bit of the low `w` bits; `w` when they are all zero. -/
def clzOf (w v : Nat) : Nat := if v % 2 ^ w = 0 then w else w - 1 - Nat.log2 (v % 2 ^ w)

/-- Zero bits below the least significant one bit, looking at `n` bits from bit `i`; `i + n` when all are zero. -/
def ctzFrom (v i n : Nat) : Nat :=
  match n with
  | 0 => i
  | k + 1 => if bitOf v i then i else ctzFrom v (i + 1) k

/-- An instruction of one integer source: source b and the function are 0. -/
def State.unary (s : State) (x : Insn) (f : Nat → Nat → Nat) : State :=
  s.issue (opR3 true false (fun x => isInt x.rd && isInt x.ra && x.rb == 0 && x.fn == 0)) x (fun s =>
    .ok (s.setInt x.thread x.rd x.width (f x.width ((s.thread x.thread).reg x.ra).toNat)))

/-- CLZ, 0xA3. -/
def execClz (x : Insn) (s : State) : Host.Outcome State Fault Refusal := .next (s.unary x clzOf)

/-- CTZ, 0xA4. -/
def execCtz (x : Insn) (s : State) : Host.Outcome State Fault Refusal :=
  .next (s.unary x (fun w v => ctzFrom v 0 w))

/-! ### PERM (R123) -/

/-- One byte of a PERM result at width `w`. -/
def permByte (w a b i : Nat) : Nat :=
  let sel := bitsOf b (4 * i + 3) (4 * i)
  let at_ := sel % 8
  let v := if 8 * at_ < w then bitsOf a (8 * at_ + 7) (8 * at_) else 0
  if sel < 8 then v else if bitOf v 7 then 0xFF else 0

/-- PERM, 0xA5. -/
def execPerm (x : Insn) (s : State) : Host.Outcome State Fault Refusal :=
  .next (s.issue (opR3 true false validR3) x (fun s =>
    let t := s.thread x.thread
    let bytes := (List.range 8).map (fun i =>
      BitVec.ofNat 8 (permByte x.width (t.reg x.ra).toNat (t.reg x.rb).toNat i))
    .ok (s.setInt x.thread x.rd x.width (leNat bytes))))

/-! ### Multiply and divide (R130 to R133) -/

/-- A multiply without size prefix. -/
def State.mul64 (s : State) (x : Insn) (f : Nat → Nat → Nat) : State :=
  s.issue (opR3 false false validR3) x (fun s =>
    let t := s.thread x.thread
    .ok (s.setInt x.thread x.rd 64 (f (t.reg x.ra).toNat (t.reg x.rb).toNat)))

/-- MULH, 0xA8. -/
def execMulh (x : Insn) (s : State) : Host.Outcome State Fault Refusal :=
  .next (s.mul64 x (fun a b => narrow 64 (signedOf 64 a * signedOf 64 b / 2 ^ 64)))

/-- MULHU, 0xA9. -/
def execMulhu (x : Insn) (s : State) : Host.Outcome State Fault Refusal :=
  .next (s.mul64 x (fun a b => a * b / 2 ^ 64))

/-- MULW, 0xAA: the low half, as MUL. -/
def execMulw (x : Insn) (s : State) : Host.Outcome State Fault Refusal :=
  .next (s.mul64 x (fun a b => a * b))

/-- A divide: fault 0x0D on a zero divisor (R146: before any interrupt), abandoned when an interrupt is takeable. -/
def State.divide (s : State) (x : Insn) (f : Nat → Nat → Nat → Nat) : State :=
  s.issue (opR3 true false validR3) x (fun s =>
    let t := s.thread x.thread
    let a := (t.reg x.ra).toNat % 2 ^ x.width
    let b := (t.reg x.rb).toNat % 2 ^ x.width
    if b = 0 then .flt (Flt.mk' 0x0D 0x01 0) s
    else if (s.nextIrq x.thread).isSome then .irq s 0
    else .ok (s.setInt x.thread x.rd x.width (f x.width a b)))

/-- DIV, 0xAC: truncated toward zero. -/
def execDiv (x : Insn) (s : State) : Host.Outcome State Fault Refusal :=
  .next (s.divide x (fun w a b => narrow w (Int.tdiv (signedOf w a) (signedOf w b))))

/-- DIVU, 0xAD. -/
def execDivu (x : Insn) (s : State) : Host.Outcome State Fault Refusal := .next (s.divide x (fun _ a b => a / b))

/-- REM, 0xAE: the sign of the dividend. -/
def execRem (x : Insn) (s : State) : Host.Outcome State Fault Refusal :=
  .next (s.divide x (fun w a b => narrow w (Int.tmod (signedOf w a) (signedOf w b))))

/-- REMU, 0xAF. -/
def execRemu (x : Insn) (s : State) : Host.Outcome State Fault Refusal := .next (s.divide x (fun _ a b => a % b))

end Sys2Proof.Machine
end

