-- ==== Sys2Proof/Machine/LoamWear.lean ====
section
/-!
DEFINITION. What the Loam controllers do of themselves (chapter 13): the freeing of revisions, the switch of a COMMIT, programs and
erases, compaction, wear, read disturb, patrol, and the settling of the journal.
-/

namespace Sys2Proof.Machine

/-! ### Revisions (R527, R530) -/

/-- REVISION_FREE (R530): a revision without attachments that is not current, nor read by a request in flight; a DELETING volume
goes with its last attachment. -/
def execRevisionFree (volume revision : Nat) (s : State) : Host.Outcome State Fault Refusal :=
  let x := s.volume volume
  .next (match x.rev revision with
    | none => s
    | some r =>
      if !x.revs.all (fun y => y.number != revision && !x.deleting || s.revisionIdle volume y.number) then s
      else if x.deleting then
        if x.revs.all (fun y => y.pins == 0) then
          let s := s.freeVolume volume
          { s with seed := s.seed.ask s.timeBase }
        else s
      else if r.pins = 0 ∧ x.current ≠ some revision then s.freeRevision volume revision
      else s)

/-- The switch of an internal commit, once its root record has reached its commit point (R522, R539). -/
def State.switchCompact (s : State) (z : Compact) : State :=
  match z.root with
  | some q =>
    if seqLarger q s.seed.done then s
    else
      let s := s.endCompact z
      match z.reply with
      | some y => (s.finishCommand y.1 y.2 St.ok []).retryWaiting
      | none => s.retryWaiting
  | none => s

/-- COMMIT_SWITCH (R527): once the root record has reached its commit point. -/
def execCommitSwitch (volume : Nat) (s : State) : Host.Outcome State Fault Refusal :=
  .next (match s.loam.sessions.find? (fun z => z.volume == volume && z.commit) with
    | some z =>
      match z.made, z.root with
      | some r, some q =>
        if seqLarger q s.seed.done then s
        else
          let s := s.switch z r
          match z.reply with
          | some y => (s.finishCommand y (leBytes 2 z.number) St.ok (leBytes 4 r.number)).retryWaiting
          | none => s.retryWaiting
      | _, _ => s
    | none =>
      match s.loam.compacts.find? (fun z => z.volume == volume) with
      | some z => s.switchCompact z
      | none => s)

/-! ### Programs and erases (R530 to R533) -/

/-- The staged pages of an LSTAGE command are all programmed: it ends. -/
def State.stageDone (s : State) (ses op : Nat) : State :=
  let left := (List.range 8).any (fun n => (s.stack n).programs.any (fun g => g.what == .stage ses op))
  match s.loam.sessions.find? (fun z => z.number == ses) with
  | some z =>
    match FMap.find z.ops op with
    | some r => if left then s else (s.setSession { z with ops := FMap.erase z.ops op }).answer r St.ok []
    | none => s
  | none => s

/-- PAGE_PROGRAM_DONE (R532, R546): a program that fails its verify retires the block, whose pages move with it. -/
def execPageProgramDone (stack page : Nat) (verified : Bool) (s : State) : Host.Outcome State Fault Refusal :=
  .next (match (s.stack stack).programs.find? (fun g => g.page == page && g.started) with
    | none => s
    | some g =>
      let s := s.onStack stack (fun x => { x with programs := x.programs.filter (fun h => h.page != page) })
      let s := s.journalEnd stack Jop.program page
      let s := if verified then s else s.retire stack (slotOf page) 1
      let s := s.startPrograms stack
      match g.what with
      | .stage ses op => ((s.stageDone ses op).writeCommitRoot ses).retryWaiting
      | .map ses => (s.writeCommitRoot ses).retryWaiting
      | .compact v => (s.writeCompactRoot v).retryWaiting)

/-- Is slot `k` one that a plane has? -/
def slotOk (k : Nat) : Bool := decide (planeOf k < 128) && decide (k % 256 < planeSlots (planeOf k))

/-- Is a slot's block all stale and out of use? -/
def Stack.stale (x : Stack) (k : Nat) : Bool :=
  let b := x.block k
  b.st == .inUse && b.live == 0 && decide (0 < b.used) && !x.programs.any (fun g => slotOf g.page == k)

/-- Does an erase or suspended erase hold a plane? -/
def Stack.eraseIn (x : Stack) (p : Nat) : Bool :=
  x.blocks.any (fun b => planeOf b.1 == p && (b.2.st == .erasing || b.2.st == .suspended))

/-- BLOCK_ERASE (R530, R540, R541): a block of 5,000 cycles is retired as worn in place of its erase. -/
def execBlockErase (stack slot : Nat) (s : State) : Host.Outcome State Fault Refusal :=
  let x := s.stack stack
  let p := planeOf slot
  .next (if !(slotOk slot && x.ready && x.state != 2 && x.stale slot && !x.eraseIn p && !x.senses p && decide (x.temp < 105) &&
      !x.programs.any (fun g => g.started && planeOf (slotOf g.page) == p)) then s
    else if 5000 ≤ (x.block slot).cycles then
      (s.onStack stack (fun x => x.onBlock slot (fun b => { b with st := .free, used := 0 }))).retire stack slot 4
    else
      let s := s.onStack stack (fun x =>
        { (x.onBlock slot (fun b => { b with st := .erasing, cycles := b.cycles + 1, attempt := 0 })).dropBuffer slot with
          writing := x.writing.filter (fun w => w.2 != slot) })
      (s.journalStart stack Jop.erase 0 (slot * 2048) ((x.block slot).cycles + 1)).noteChange stack [slot])

/-- ERASE_RESUME (R533): once no read for the plane waits. -/
def execEraseResume (stack plane : Nat) (s : State) : Host.Outcome State Fault Refusal :=
  let x := s.stack stack
  .next (if x.reads.any (fun e => planeOf (slotOf e.page) == plane) then s
    else s.onStack stack (fun x =>
      { x with blocks := x.blocks.map (fun b =>
          if planeOf b.1 == plane && b.2.st == .suspended then (b.1, { b.2 with st := .erasing }) else b) }))

/-- ERASE_DONE (R536, R542, R546): the block is free, or retired when its verify fails. -/
def execEraseDone (stack slot : Nat) (verified : Bool) (s : State) : Host.Outcome State Fault Refusal :=
  .next (if ((s.stack stack).block slot).st != .erasing then s
    else
      let s := (s.onStack stack (fun x => x.onBlock slot (fun b =>
        { b with st := .free, used := 0, live := 0, senses := 0, saved := 0,
                 attempt := 0 }))).journalEnd stack Jop.erase (slot * 2048)
      ((if verified then s else s.retire stack slot 1).startPrograms stack).retryWaiting)

/-! ### Compaction, wear, read disturb and patrol (R539 to R545) -/

/-- The pages of a slot that a current revision alone uses: volume, unit, page. -/
def State.movable (s : State) (n slot : Nat) : List (Nat × Nat × Nat) :=
  (s.loam.volumes.filter (fun v => !s.volumeBusy v.1)).flatMap (fun v => match v.2.now with
    | some r =>
      (r.units.filter (fun p => p.1 % 8 == n && slotOf p.2 == slot &&
        !((s.holdersOf v.1).any (fun k => k.number != r.number && FMap.find k.units p.1 == some p.2)))).map
          (fun p => (v.1, p.1, p.2))
    | none => [])

/-- The block with the most stale pages that still has movable ones. -/
def State.compactSlot (s : State) (n : Nat) : Option Nat :=
  let x := s.stack n
  let stale (k : Nat) : Nat := (x.block k).used - (x.block k).live
  (x.blocks.filter (fun b => !metaSlot b.1 && b.2.st == .inUse && decide (b.2.live < b.2.used) && !(s.movable n b.1).isEmpty)).foldl
    (fun best b => match best with
      | none => some b.1
      | some k => if stale k < stale b.1 then some b.1 else best) none

/-- Moves the listed units of volume `v` to new pages of stack `n`, by an internal commit that keeps the number. None while a page
is wanting. -/
def State.moveUnits (s : State) (n v : Nat) (units : List Nat) : Option State :=
  match (s.volume v).now, s.takePages units with
  | some r, some (pages, s) =>
    let r1 := { r with units := pages.foldl (fun m p => FMap.put m p.1 p.2) r.units }
    (s.rewriteMaps r1 units).map (fun t =>
      t.2.2.startCompact { volume := v, made := t.1, vlen := none, reply := none, root := none }
        (FMap.put t.2.1 n (pages.map (·.2) ++ FMap.get t.2.1 n [])))
  | _, _ => none

/-- COMPACTION (R539): below 25 % of free headroom, the live pages of one block are copied out by an internal commit of each
volume that has some there. DESIGN CHOICE (log 43). -/
def execCompaction (stack : Nat) (s : State) : Host.Outcome State Fault Refusal :=
  let x := s.stack stack
  .next (if !(x.ready && x.state != 2 && decide (4 * (headroomMax - s.headroom stack) < headroomMax)) then s
    else match s.compactSlot stack with
      | none => s
      | some k =>
        let l := s.movable stack k
        let vols := (l.map (·.1)).eraseDups
        match vols.foldl (fun a v => match a with
            | some s => s.moveUnits stack v ((l.filter (fun p => p.1 == v)).map (fun p => p.2.1))
            | none => none) (some s) with
        | some s => s
        | none => s)

/-- A relocation needs a programming slot of its plane (R556). -/
def State.mayRelocate (s : State) (n slot : Nat) : Bool :=
  let x := s.stack n
  slotOk slot && x.ready && x.state != 2 && (x.block slot).st == .inUse && decide (0 < (x.block slot).live) &&
    !x.programs.any (fun g => slotOf g.page == slot) &&
      x.mayProgram (s.pgmLimit n) { page := slot * 2048, what := .compact 0, started := false }

/-- WEAR_RELOCATION (R540): the cold block's pages go to the most worn free block of the plane.
DESIGN CHOICE (log 43). -/
def execWearRelocation (stack slot : Nat) (s : State) : Host.Outcome State Fault Refusal :=
  let x := s.stack stack
  let far := (x.freeSlots (planeOf slot) (metaSlot slot)).foldl (fun best k => match best with
    | none => some k
    | some b => if (x.block b).cycles < (x.block k).cycles then some k else best) none
  .next (match far with
    | some f =>
      if s.mayRelocate stack slot && decide ((x.block slot).cycles < (x.block f).cycles) &&
          decide (x.meanCycles + 200 ≤ (x.block f).cycles) then s.relocate stack slot f else s
    | none => s)

/-- The refresh of a block (R542): its pages go to the least worn free block of the plane. -/
def State.refresh (s : State) (n slot : Nat) : Option State :=
  let x := s.stack n
  match x.leastWorn (x.freeSlots (planeOf slot) (metaSlot slot)) with
  | some f => if s.mayRelocate n slot then some (s.relocate n slot f) else none
  | none => none

/-- READ_DISTURB_REFRESH (R542, R557): a block at 20,000,000 senses with live pages. -/
def execReadDisturbRefresh (stack slot : Nat) (s : State) : Host.Outcome State Fault Refusal :=
  .next (if ((s.stack stack).block slot).senses < 20000000 then s
    else match s.refresh stack slot with
      | some s => s.onStack stack (fun x => { x with rfDist := x.rfDist + 1 })
      | none => s)

/-- SENSE_COUNT_CHECKPOINT (R543). -/
def execSenseCountCheckpoint (stack : Nat) (s : State) : Host.Outcome State Fault Refusal :=
  .next (if (s.stack stack).ready then
      s.onStack stack (fun x => { x with blocks := x.blocks.map (fun b => (b.1, { b.2 with saved := b.2.senses })) })
    else s)

/-- The divisor of the patrol period at a temperature (R544). -/
def patrolFactor (t : Nat) : Nat := if t ≤ 55 then 1 else if t ≤ 65 then 2 else if t ≤ 75 then 4 else if t ≤ 85 then 8 else 16

/-- PATROL_FACTOR_UPDATE (R544). -/
def execPatrolFactorUpdate (stack : Nat) (s : State) : Host.Outcome State Fault Refusal :=
  .next (if (s.stack stack).ready then s.onStack stack (fun x => { x with factor := patrolFactor x.temp }) else s)

/-- Does the ranking name the seven offsets once each? -/
def rankingOk (l : List Nat) : Bool := l.length == 7 && (upFrom 1 7).all (fun k => l.contains k)

/-- The refresh or retirement that a patrol visit calls for (R545, R546).
DESIGN CHOICE (log 43). -/
def State.patrolVerdict (s : State) (p : PatrolResult) : State :=
  let b := (s.stack p.stack).block p.slot
  let again := p.retried && (match b.refreshed with
    | some t => decide (s.timeBase ≤ t + 8640000000000)
    | none => false)
  if again then s.retire p.stack p.slot 3
  else if p.retried || p.uncorrect || decide (s.loam.refreshBits < p.corrected) then
    match s.refresh p.stack p.slot with
    | some s => s.onStack p.stack (fun x =>
        { x.onBlock p.slot (fun b => { b with refreshed := some s.timeBase }) with rfPatrol := x.rfPatrol + 1 })
    | none => s
  else s

/-- PATROL_BLOCK (R545): eight sample pages and the seven offsets of one are sensed, the thresholds re-ranked with the
nominal setting last, and the block refreshed or retired when the visit calls for it. -/
def execPatrolBlock (p : PatrolResult) (s : State) : Host.Outcome State Fault Refusal :=
  let x := s.stack p.stack
  .next (if !(decide (p.stack < 8) && x.ready && x.state != 2 && slotOk p.slot && decide (0 < (x.block p.slot).live)) then s
    else
      let last := x.blocks.all (fun b => decide (b.1 ≤ p.slot) || b.2.live == 0)
      let s := s.onStack p.stack (fun x =>
        let x := x.onBlock p.slot (fun b =>
          { b with senses := b.senses + 15, ranking := if rankingOk p.ranking then p.ranking ++ [0] else b.ranking,
                   learn := if p.learn < 8 then p.learn else b.learn })
        if last then { x with pass := x.pass + 1, passTime := s.timeBase } else x)
      s.patrolVerdict p)

/-! ### Recovery (R531, R535 to R538) -/

/-- An erase that a reset cut off (R536): erased again from the start, or retired at ATTEMPT 3. -/
def State.recoverErase (s : State) (n slot : Nat) : State :=
  let b := (s.stack n).block slot
  if 3 ≤ b.attempt then
    ((s.journalEnd n Jop.erase (slot * 2048)).onStack n (fun x => x.onBlock slot (fun b =>
      { b with st := .free, used := 0, live := 0 }))).retire n slot 2
  else
    let i := (s.journalFind n Jop.erase (slot * 2048)).getD (s.journalNext n)
    let q := (s.stack n).jseq
    ((s.journalPut n i (journalWord Jop.erase 1 (b.attempt + 1) (slot * 2048)) (q + (b.cycles + 1) * 2 ^ 32)).onStack n (fun x =>
      { x.onBlock slot (fun b => { b with st := .erasing, attempt := b.attempt + 1, cycles := b.cycles + 1 }) with
        jseq := (q + 1) % 2 ^ 32 })).noteChange n [slot]

/-- A session that a reset cut off (R537): no status reaches its submitter. -/
def State.dropSession (s : State) (z : Session) : State :=
  match z.made with
  | some r => (s.stalePages r (s.volume z.volume).revs).abandonSession { z with ops := [], staged := [] }
  | none => s.abandonSession { z with ops := [] }

/-- An internal commit that a reset cut off before its commit point: the pages it took are stale (Table 13-8). -/
def State.dropCompact (s : State) (z : Compact) : State :=
  let s : State := { s with loam := { s.loam with compacts := s.loam.compacts.filter (fun y => y.volume != z.volume) } }
  s.stalePages z.made (s.holdersOf z.volume)

/-- What the settling of sessions, attachments and revisions leaves (Table 13-8): a COMMIT or an internal commit whose root record
is durable completes, every other is void, every other session is abandoned, and only current revisions stay. -/
def State.settleLoam (s : State) : State :=
  let reached (r : Option Nat) : Bool := match r with | some q => !seqLarger q s.seed.done | none => false
  let s' : State := s.loam.compacts.foldl (fun s z => if reached z.root then s.endCompact z else s.dropCompact z) s
  let s : State := (s'.loam.sessions.filter (fun z => reached z.root)).foldl
    (fun s z => match z.made with | some r => s.switch z r | none => s) s'
  let s : State := s.loam.sessions.foldl (fun s z => s.dropSession z) s
  let unpinned (v : Volume) : Volume := { v with revs := v.revs.map (fun r => { r with pins := 0 }) }
  let s : State := { s with loam := { s.loam with volumes := s.loam.volumes.map (fun v => (v.1, unpinned v.2)) } }
  s.loam.volumes.foldl (fun s v =>
    if v.2.deleting then s.freeVolume v.1
    else (v.2.revs.filter (fun r => v.2.current != some r.number)).foldl (fun s r => s.freeRevision v.1 r.number) s) s

/-- The journal of stack `n` settled: work in progress ends, cut erases start again, sense counts come from their
checkpoint.
DESIGN CHOICE (log 43). -/
def State.settleStack (s : State) (n : Nat) : State :=
  let cut := ((s.stack n).blocks.filter (fun b => b.2.st == .incomplete)).map (·.1)
  let s := s.onStack n (fun x =>
    { x with
      programs := []
      reads := []
      buffer := []
      mapTop := []
      mapLeaf := []
      writing := []
      blocks := x.blocks.map (fun b => (b.1, { b.2 with senses := b.2.saved + 2000000 })) })
  cut.foldl (fun s k => s.recoverErase n k) (s.journalSettle n)

/-- LOAM_RECOVERY (R535): at step 6, after Seedbank recovery. -/
def execLoamRecovery (stack : Nat) (s : State) : Host.Outcome State Fault Refusal :=
  .next (if s.smcRuns ∧ s.smc.step = 6 ∧ s.seed.recovered ∧ !(s.stack stack).ready then
      s.settleLoam.settleStack stack
    else s)

/-- LOAM_DIE_STOPS_ANSWERING (R515, R548): the stack fails, and every codeword not yet delivered is delivered as
uncorrectable with subcode 0x03. -/
def execLoamDieStopsAnswering (stack die : Nat) (s : State) : Host.Outcome State Fault Refusal :=
  .next (if die < 16 ∧ (s.stack stack).state ≠ 2 then
      s.stackState stack 2
    else s)

end Sys2Proof.Machine
end

