-- ==== Sys2Proof/Machine/Dispatch.lean ====
section
/-! DEFINITION. The dispatch: one arm per command, each one direct call of that command's meaning. -/

namespace Sys2Proof.Machine

/-- The effect of a command on everything but the queue. -/
def exec (i : Instr) (s : State) : Host.Outcome State Fault Refusal :=
  match i with
  | .registerWrite w => Sys2Proof.Machine.execRegisterWrite w s
  | .nop x => Sys2Proof.Machine.execNop x s
  | .call x => Sys2Proof.Machine.execCall x s
  | .ret x => Sys2Proof.Machine.execRet x s
  | .jmp x => Sys2Proof.Machine.execJmp x s
  | .bcc x cond => Sys2Proof.Machine.execBcc x cond s
  | .bz x => Sys2Proof.Machine.execBz x s
  | .bnz x => Sys2Proof.Machine.execBnz x s
  | .dbnz x => Sys2Proof.Machine.execDbnz x s
  | .wflush x => Sys2Proof.Machine.execWflush x s
  | .backgroundSpill thread => Sys2Proof.Machine.execBackgroundSpill thread s
  | .backgroundFill thread => Sys2Proof.Machine.execBackgroundFill thread s
  | .rdsr x => Sys2Proof.Machine.execRdsr x s
  | .wrsr x => Sys2Proof.Machine.execWrsr x s
  | .add x => Sys2Proof.Machine.execAdd x s
  | .adc x => Sys2Proof.Machine.execAdc x s
  | .sub x => Sys2Proof.Machine.execSub x s
  | .sbc x => Sys2Proof.Machine.execSbc x s
  | .and x => Sys2Proof.Machine.execAnd x s
  | .or x => Sys2Proof.Machine.execOr x s
  | .xor x => Sys2Proof.Machine.execXor x s
  | .andn x => Sys2Proof.Machine.execAndn x s
  | .shl x => Sys2Proof.Machine.execShl x s
  | .shr x => Sys2Proof.Machine.execShr x s
  | .sar x => Sys2Proof.Machine.execSar x s
  | .mul x => Sys2Proof.Machine.execMul x s
  | .addi x => Sys2Proof.Machine.execAddi x s
  | .adci x => Sys2Proof.Machine.execAdci x s
  | .subi x => Sys2Proof.Machine.execSubi x s
  | .sbci x => Sys2Proof.Machine.execSbci x s
  | .andi x => Sys2Proof.Machine.execAndi x s
  | .ori x => Sys2Proof.Machine.execOri x s
  | .xori x => Sys2Proof.Machine.execXori x s
  | .andni x => Sys2Proof.Machine.execAndni x s
  | .shli x => Sys2Proof.Machine.execShli x s
  | .shri x => Sys2Proof.Machine.execShri x s
  | .sari x => Sys2Proof.Machine.execSari x s
  | .ld x => Sys2Proof.Machine.execLd x s
  | .lds x => Sys2Proof.Machine.execLds x s
  | .st x => Sys2Proof.Machine.execSt x s
  | .swap x => Sys2Proof.Machine.execSwap x s
  | .cas x => Sys2Proof.Machine.execCas x s
  | .aadd x => Sys2Proof.Machine.execAadd x s
  | .aand x => Sys2Proof.Machine.execAand x s
  | .aor x => Sys2Proof.Machine.execAor x s
  | .axor x => Sys2Proof.Machine.execAxor x s
  | .amax x => Sys2Proof.Machine.execAmax x s
  | .amaxu x => Sys2Proof.Machine.execAmaxu x s
  | .amin x => Sys2Proof.Machine.execAmin x s
  | .aminu x => Sys2Proof.Machine.execAminu x s
  | .setcc x cond => Sys2Proof.Machine.execSetcc x cond s
  | .rdfl x => Sys2Proof.Machine.execRdfl x s
  | .wrfl x => Sys2Proof.Machine.execWrfl x s
  | .bfx x => Sys2Proof.Machine.execBfx x s
  | .bfxs x => Sys2Proof.Machine.execBfxs x s
  | .bfi x => Sys2Proof.Machine.execBfi x s
  | .clz x => Sys2Proof.Machine.execClz x s
  | .ctz x => Sys2Proof.Machine.execCtz x s
  | .perm x => Sys2Proof.Machine.execPerm x s
  | .movs x => Sys2Proof.Machine.execMovs x s
  | .mulh x => Sys2Proof.Machine.execMulh x s
  | .mulhu x => Sys2Proof.Machine.execMulhu x s
  | .mulw x => Sys2Proof.Machine.execMulw x s
  | .div x => Sys2Proof.Machine.execDiv x s
  | .divu x => Sys2Proof.Machine.execDivu x s
  | .rem x => Sys2Proof.Machine.execRem x s
  | .remu x => Sys2Proof.Machine.execRemu x s
  | .fadd x => Sys2Proof.Machine.execFadd x s
  | .fsub x => Sys2Proof.Machine.execFsub x s
  | .fmul x => Sys2Proof.Machine.execFmul x s
  | .fdiv x => Sys2Proof.Machine.execFdiv x s
  | .fsqrt x => Sys2Proof.Machine.execFsqrt x s
  | .fmin x => Sys2Proof.Machine.execFmin x s
  | .fmax x => Sys2Proof.Machine.execFmax x s
  | .fcmp x => Sys2Proof.Machine.execFcmp x s
  | .fcmpe x => Sys2Proof.Machine.execFcmpe x s
  | .fma x => Sys2Proof.Machine.execFma x s
  | .rdfcsr x => Sys2Proof.Machine.execRdfcsr x s
  | .wrfcsr x => Sys2Proof.Machine.execWrfcsr x s
  | .fcvtB64ToB32 x => Sys2Proof.Machine.execFcvtB64ToB32 x s
  | .fcvtB32ToB64 x => Sys2Proof.Machine.execFcvtB32ToB64 x s
  | .fcvtToS32 x => Sys2Proof.Machine.execFcvtToS32 x s
  | .fcvtToU32 x => Sys2Proof.Machine.execFcvtToU32 x s
  | .fcvtToS64 x => Sys2Proof.Machine.execFcvtToS64 x s
  | .fcvtToU64 x => Sys2Proof.Machine.execFcvtToU64 x s
  | .fcvtFromS32 x => Sys2Proof.Machine.execFcvtFromS32 x s
  | .fcvtFromU32 x => Sys2Proof.Machine.execFcvtFromU32 x s
  | .fcvtFromS64 x => Sys2Proof.Machine.execFcvtFromS64 x s
  | .fcvtFromU64 x => Sys2Proof.Machine.execFcvtFromU64 x s
  | .gate x => Sys2Proof.Machine.execGate x s
  | .gret x => Sys2Proof.Machine.execGret x s
  | .ldc x => Sys2Proof.Machine.execLdc x s
  | .stc x => Sys2Proof.Machine.execStc x s
  | .gderive x => Sys2Proof.Machine.execGderive x s
  | .grevoke x => Sys2Proof.Machine.execGrevoke x s
  | .revocationDrainEnd thread => Sys2Proof.Machine.execRevocationDrainEnd thread s
  | .gquery x => Sys2Proof.Machine.execGquery x s
  | .gxferS x => Sys2Proof.Machine.execGxferS x s
  | .gxferR x => Sys2Proof.Machine.execGxferR x s
  | .gattach x => Sys2Proof.Machine.execGattach x s
  | .gdetach x => Sys2Proof.Machine.execGdetach x s
  | .gdetachP x => Sys2Proof.Machine.execGdetachP x s
  | .tinv x => Sys2Proof.Machine.execTinv x s
  | .tinvInvalidate thread core => Sys2Proof.Machine.execTinvInvalidate thread core s
  | .tinvAckComplete thread => Sys2Proof.Machine.execTinvAckComplete thread s
  | .fret x => Sys2Proof.Machine.execFret x s
  | .brk x => Sys2Proof.Machine.execBrk x s
  | .interruptDelivery thread => Sys2Proof.Machine.execInterruptDelivery thread s
  | .tileStreamFaultDelivery thread => Sys2Proof.Machine.execTileStreamFaultDelivery thread s
  | .machineCheck e => Sys2Proof.Machine.execMachineCheck e s
  | .correctedError e => Sys2Proof.Machine.execCorrectedError e s
  | .setpend w => Sys2Proof.Machine.execSetpend w s
  | .msiWrite port data => Sys2Proof.Machine.execMsiWrite port data s
  | .sbar x => Sys2Proof.Machine.execSbar x s
  | .pflush x => Sys2Proof.Machine.execPflush x s
  | .branchMispredict x => Sys2Proof.Machine.execBranchMispredict x s
  | .sfbInstall thread line fromL2 changed => Sys2Proof.Machine.execSfbInstall thread line fromL2 changed s
  | .boundEntryFreed b => Sys2Proof.Machine.execBoundEntryFreed b s
  | .tileQueueEnter t => Sys2Proof.Machine.execTileQueueEnter t s
  | .queuedWrsrApply thread => Sys2Proof.Machine.execQueuedWrsrApply thread s
  | .tcfg thread => Sys2Proof.Machine.execTcfg thread s
  | .tzero thread => Sys2Proof.Machine.execTzero thread s
  | .tld x => Sys2Proof.Machine.execTld x s
  | .tst x => Sys2Proof.Machine.execTst x s
  | .tlda x => Sys2Proof.Machine.execTlda x s
  | .tsta x => Sys2Proof.Machine.execTsta x s
  | .tmovToScalar t => Sys2Proof.Machine.execTmovToScalar t s
  | .tmovToTile thread => Sys2Proof.Machine.execTmovToTile thread s
  | .tmmaE thread => Sys2Proof.Machine.execTmmaE thread s
  | .tmmaF thread => Sys2Proof.Machine.execTmmaF thread s
  | .tmmai thread => Sys2Proof.Machine.execTmmai thread s
  | .tscl thread => Sys2Proof.Machine.execTscl thread s
  | .tcvt thread => Sys2Proof.Machine.execTcvt thread s
  | .tadd thread => Sys2Proof.Machine.execTadd thread s
  | .tmul thread => Sys2Proof.Machine.execTmul thread s
  | .tmax thread => Sys2Proof.Machine.execTmax thread s
  | .tmin thread => Sys2Proof.Machine.execTmin thread s
  | .tredSum thread => Sys2Proof.Machine.execTredSum thread s
  | .tredMax thread => Sys2Proof.Machine.execTredMax thread s
  | .twait thread => Sys2Proof.Machine.execTwait thread s
  | .twaitRelease thread => Sys2Proof.Machine.execTwaitRelease thread s
  | .tsync t => Sys2Proof.Machine.execTsync t s
  | .tfence thread => Sys2Proof.Machine.execTfence thread s
  | .tsave t units => Sys2Proof.Machine.execTsave t units s
  | .trstr t units => Sys2Proof.Machine.execTrstr t units s
  | .tresume t => Sys2Proof.Machine.execTresume t s
  | .tresumeSkip t => Sys2Proof.Machine.execTresumeSkip t s
  | .tresumeFlush t => Sys2Proof.Machine.execTresumeFlush t s
  | .tqry t => Sys2Proof.Machine.execTqry t s
  | .tput x => Sys2Proof.Machine.execTput x s
  | .tget thread => Sys2Proof.Machine.execTget thread s
  | .swardModeChange core => Sys2Proof.Machine.execSwardModeChange core s
  | .descriptorLaunch w => Sys2Proof.Machine.execDescriptorLaunch w s
  | .descriptorAbort w => Sys2Proof.Machine.execDescriptorAbort w s
  | .streamRequestIssue core => Sys2Proof.Machine.execStreamRequestIssue core s
  | .descriptorDone core n => Sys2Proof.Machine.execDescriptorDone core n s
  | .tsbApertureAccess a => Sys2Proof.Machine.execTsbApertureAccess a s
  | .l2Eviction core line => Sys2Proof.Machine.execL2Eviction core line s
  | .rds r => Sys2Proof.Machine.execRds r s
  | .rdx r => Sys2Proof.Machine.execRdx r s
  | .upg r => Sys2Proof.Machine.execUpg r s
  | .rdna r => Sys2Proof.Machine.execRdna r s
  | .wrl r => Sys2Proof.Machine.execWrl r s
  | .fwds line holder => Sys2Proof.Machine.execFwds line holder s
  | .fwdx line holder => Sys2Proof.Machine.execFwdx line holder s
  | .fwdna line holder => Sys2Proof.Machine.execFwdna line holder s
  | .inv line holder => Sys2Proof.Machine.execInv line holder s
  | .binv line holder => Sys2Proof.Machine.execBinv line holder s
  | .datas line req => Sys2Proof.Machine.execDatas line req s
  | .datae line req => Sys2Proof.Machine.execDatae line req s
  | .datax line req => Sys2Proof.Machine.execDatax line req s
  | .datana line req => Sys2Proof.Machine.execDatana line req s
  | .grantx line req => Sys2Proof.Machine.execGrantx line req s
  | .fwdack line holder => Sys2Proof.Machine.execFwdack line holder s
  | .fwdackd line holder => Sys2Proof.Machine.execFwdackd line holder s
  | .fwdnak line holder => Sys2Proof.Machine.execFwdnak line holder s
  | .wbm line core => Sys2Proof.Machine.execWbm line core s
  | .eve line core => Sys2Proof.Machine.execEve line core s
  | .evs line core => Sys2Proof.Machine.execEvs line core s
  | .wback line core => Sys2Proof.Machine.execWback line core s
  | .wbstale line core => Sys2Proof.Machine.execWbstale line core s
  | .mfence x => Sys2Proof.Machine.execMfence x s
  | .isync x => Sys2Proof.Machine.execIsync x s
  | .revisionFree volume revision => Sys2Proof.Machine.execRevisionFree volume revision s
  | .loamReadRequest r => Sys2Proof.Machine.execLoamReadRequest r s
  | .loamPageSenseDone stack entry => Sys2Proof.Machine.execLoamPageSenseDone stack entry s
  | .loamCodewordDecoded stack entry codeword ok => Sys2Proof.Machine.execLoamCodewordDecoded stack entry codeword ok s
  | .readRetryStep stack entry fixed => Sys2Proof.Machine.execReadRetryStep stack entry fixed s
  | .lclr w => Sys2Proof.Machine.execLclr w s
  | .lvcreate c => Sys2Proof.Machine.execLvcreate c s
  | .lvresize c => Sys2Proof.Machine.execLvresize c s
  | .lvdelete c => Sys2Proof.Machine.execLvdelete c s
  | .lopen c => Sys2Proof.Machine.execLopen c s
  | .lstage c => Sys2Proof.Machine.execLstage c s
  | .lzero c => Sys2Proof.Machine.execLzero c s
  | .lcommit c => Sys2Proof.Machine.execLcommit c s
  | .commitSwitch volume => Sys2Proof.Machine.execCommitSwitch volume s
  | .labort c => Sys2Proof.Machine.execLabort c s
  | .lparam c => Sys2Proof.Machine.execLparam c s
  | .lhealth c => Sys2Proof.Machine.execLhealth c s
  | .pageProgramDone stack page verified => Sys2Proof.Machine.execPageProgramDone stack page verified s
  | .blockErase stack slot => Sys2Proof.Machine.execBlockErase stack slot s
  | .eraseResume stack plane => Sys2Proof.Machine.execEraseResume stack plane s
  | .eraseDone stack slot verified => Sys2Proof.Machine.execEraseDone stack slot verified s
  | .compaction stack => Sys2Proof.Machine.execCompaction stack s
  | .wearRelocation stack slot => Sys2Proof.Machine.execWearRelocation stack slot s
  | .readDisturbRefresh stack slot => Sys2Proof.Machine.execReadDisturbRefresh stack slot s
  | .senseCountCheckpoint stack => Sys2Proof.Machine.execSenseCountCheckpoint stack s
  | .patrolFactorUpdate stack => Sys2Proof.Machine.execPatrolFactorUpdate stack s
  | .patrolBlock p => Sys2Proof.Machine.execPatrolBlock p s
  | .loamReady stack reachable => Sys2Proof.Machine.execLoamReady stack reachable s
  | .ferricWrite offset data completes => Sys2Proof.Machine.execFerricWrite offset data completes s
  | .commitBufferTimeout => Sys2Proof.Machine.execCommitBufferTimeout s
  | .seedbankCommit => Sys2Proof.Machine.execSeedbankCommit s
  | .seedbankPageProgrammed verified => Sys2Proof.Machine.execSeedbankPageProgrammed verified s
  | .seedbankRecovery => Sys2Proof.Machine.execSeedbankRecovery s
  | .seedbankPatrol page found => Sys2Proof.Machine.execSeedbankPatrol page found s
  | .seedbankApertureAccess a => Sys2Proof.Machine.execSeedbankApertureAccess a s
  | .sbunlkRd thread => Sys2Proof.Machine.execSbunlkRd thread s
  | .sbunlkWr thread => Sys2Proof.Machine.execSbunlkWr thread s
  | .sbunlkClose thread => Sys2Proof.Machine.execSbunlkClose thread s
  | .sbsetpwRd thread => Sys2Proof.Machine.execSbsetpwRd thread s
  | .sbsetpwWr thread => Sys2Proof.Machine.execSbsetpwWr thread s
  | .sbcommitGo thread => Sys2Proof.Machine.execSbcommitGo thread s
  | .sbread c => Sys2Proof.Machine.execSbread c s
  | .sbwrite c => Sys2Proof.Machine.execSbwrite c s
  | .sbcommit c => Sys2Proof.Machine.execSbcommit c s
  | .sbunlock c => Sys2Proof.Machine.execSbunlock c s
  | .sbsetpw c => Sys2Proof.Machine.execSbsetpw c s
  | .sbclose c => Sys2Proof.Machine.execSbclose c s
  | .sbaudit c => Sys2Proof.Machine.execSbaudit c s
  | .sblog c => Sys2Proof.Machine.execSblog c s
  | .sbauditclr c => Sys2Proof.Machine.execSbauditclr c s
  | .sbcount c => Sys2Proof.Machine.execSbcount c s
  | .sbhealth c => Sys2Proof.Machine.execSbhealth c s
  | .csbegin c => Sys2Proof.Machine.execCsbegin c s
  | .csitem c => Sys2Proof.Machine.execCsitem c s
  | .csend c => Sys2Proof.Machine.execCsend c s
  | .csabort c => Sys2Proof.Machine.execCsabort c s
  | .csstatus c => Sys2Proof.Machine.execCsstatus c s
  | .changeSetValidate => Sys2Proof.Machine.execChangeSetValidate s
  | .gracePeriodExpiry item => Sys2Proof.Machine.execGracePeriodExpiry item s
  | .scrubDone tile => Sys2Proof.Machine.execScrubDone tile s
  | .windowZeroDone domain window => Sys2Proof.Machine.execWindowZeroDone domain window s
  | .additionPass => Sys2Proof.Machine.execAdditionPass s
  | .drelease c => Sys2Proof.Machine.execDrelease c s
  | .dstart c => Sys2Proof.Machine.execDstart c s
  | .ovclear c => Sys2Proof.Machine.execOvclear c s
  | .dcreate item => Sys2Proof.Machine.execDcreate item s
  | .ddestroy item => Sys2Proof.Machine.execDdestroy item s
  | .tmove item => Sys2Proof.Machine.execTmove item s
  | .winadd item => Sys2Proof.Machine.execWinadd item s
  | .windel item => Sys2Proof.Machine.execWindel item s
  | .wayset item => Sys2Proof.Machine.execWayset item s
  | .shareset item => Sys2Proof.Machine.execShareset item s
  | .guardset item => Sys2Proof.Machine.execGuardset item s
  | .rootadd item => Sys2Proof.Machine.execRootadd item s
  | .rootdel item => Sys2Proof.Machine.execRootdel item s
  | .portadd item => Sys2Proof.Machine.execPortadd item s
  | .portdel item => Sys2Proof.Machine.execPortdel item s
  | .powerset item => Sys2Proof.Machine.execPowerset item s
  | .routeset item => Sys2Proof.Machine.execRouteset item s
  | .divset item => Sys2Proof.Machine.execDivset item s
  | .resetcfg item => Sys2Proof.Machine.execResetcfg item s
  | .fepset item => Sys2Proof.Machine.execFepset item s
  | .fepdel item => Sys2Proof.Machine.execFepdel item s
  | .fqset item => Sys2Proof.Machine.execFqset item s
  | .fqdel item => Sys2Proof.Machine.execFqdel item s
  | .fgrpset item => Sys2Proof.Machine.execFgrpset item s
  | .fgrpdel item => Sys2Proof.Machine.execFgrpdel item s
  | .linkUp port failing peerSerial peerPort => Sys2Proof.Machine.execLinkUp port failing peerSerial peerPort s
  | .linkDown x => Sys2Proof.Machine.execLinkDown x s
  | .flitReplay x => Sys2Proof.Machine.execFlitReplay x s
  | .helloSend => Sys2Proof.Machine.execHelloSend s
  | .hello h => Sys2Proof.Machine.execHello h s
  | .coordinatorElected => Sys2Proof.Machine.execCoordinatorElected s
  | .linkStateRequest coordinator => Sys2Proof.Machine.execLinkStateRequest coordinator s
  | .linkStateAnswer l => Sys2Proof.Machine.execLinkStateAnswer l s
  | .nodeIdAssignment => Sys2Proof.Machine.execNodeIdAssignment s
  | .discoveryCommit nodeId => Sys2Proof.Machine.execDiscoveryCommit nodeId s
  | .discoveryTimeout => Sys2Proof.Machine.execDiscoveryTimeout s
  | .coordinatorLost => Sys2Proof.Machine.execCoordinatorLost s
  | .lost serial round => Sys2Proof.Machine.execLost serial round s
  | .frescan c => Sys2Proof.Machine.execFrescan c s
  | .routeBankWrite ws => Sys2Proof.Machine.execRouteBankWrite ws s
  | .bufferDivide => Sys2Proof.Machine.execBufferDivide s
  | .epochFlip => Sys2Proof.Machine.execEpochFlip s
  | .epochDrainReport => Sys2Proof.Machine.execEpochDrainReport s
  | .routeBankRetire => Sys2Proof.Machine.execRouteBankRetire s
  | .packetArrival p => Sys2Proof.Machine.execPacketArrival p s
  | .tputRowArrival p => Sys2Proof.Machine.execTputRowArrival p s
  | .tputAck p => Sys2Proof.Machine.execTputAck p s
  | .tgetRequestArrival p => Sys2Proof.Machine.execTgetRequestArrival p s
  | .tgetRowReturn p => Sys2Proof.Machine.execTgetRowReturn p s
  | .fabricRefused p => Sys2Proof.Machine.execFabricRefused p s
  | .sndctlGo w => Sys2Proof.Machine.execSndctlGo w s
  | .messageDelivery p => Sys2Proof.Machine.execMessageDelivery p s
  | .sendAck p => Sys2Proof.Machine.execSendAck p s
  | .creditRequest p => Sys2Proof.Machine.execCreditRequest p s
  | .creditReturn p => Sys2Proof.Machine.execCreditReturn p s
  | .qheadWrite w => Sys2Proof.Machine.execQheadWrite w s
  | .collectiveSum w => Sys2Proof.Machine.execCollectiveSum w s
  | .collectiveMax w => Sys2Proof.Machine.execCollectiveMax w s
  | .collectiveBroadcast w => Sys2Proof.Machine.execCollectiveBroadcast w s
  | .collectiveBarrier w => Sys2Proof.Machine.execCollectiveBarrier w s
  | .collectiveChunk p => Sys2Proof.Machine.execCollectiveChunk p s
  | .fabricTimeout thread => Sys2Proof.Machine.execFabricTimeout thread s
  | .tussockImageReceived src => Sys2Proof.Machine.execTussockImageReceived src s
  | .tussockImageTimeout => Sys2Proof.Machine.execTussockImageTimeout s
  | .tussockMemberReady tid gib => Sys2Proof.Machine.execTussockMemberReady tid gib s
  | .tussockWaitTimeout => Sys2Proof.Machine.execTussockWaitTimeout s
  | .tussockLinkDown tid thread => Sys2Proof.Machine.execTussockLinkDown tid thread s
  | .voltageSettleCheck tile millivolts => Sys2Proof.Machine.execVoltageSettleCheck tile millivolts s
  | .voltageRecheck tile millivolts => Sys2Proof.Machine.execVoltageRecheck tile millivolts s
  | .dividerSwitch tile => Sys2Proof.Machine.execDividerSwitch tile s
  | .timerFire thread => Sys2Proof.Machine.execTimerFire thread s
  | .sensorSample r => Sys2Proof.Machine.execSensorSample r s
  | .droopTrip tile edges => Sys2Proof.Machine.execDroopTrip tile edges s
  | .powerThrottleStep domain => Sys2Proof.Machine.execPowerThrottleStep domain s
  | .powerThrottleRelease domain => Sys2Proof.Machine.execPowerThrottleRelease domain s
  | .thermalStep tile => Sys2Proof.Machine.execThermalStep tile s
  | .thermalRelease tile => Sys2Proof.Machine.execThermalRelease tile s
  | .thermalTrip sensor => Sys2Proof.Machine.execThermalTrip sensor s
  | .prochotInput => Sys2Proof.Machine.execProchotInput s
  | .budgetRecompute => Sys2Proof.Machine.execBudgetRecompute s
  | .statusWordPoll address page word => Sys2Proof.Machine.execStatusWordPoll address page word s
  | .pmbAlert words => Sys2Proof.Machine.execPmbAlert words s
  | .pmbusTimeout => Sys2Proof.Machine.execPmbusTimeout s
  | .ident c => Sys2Proof.Machine.execIdent c s
  | .status c => Sys2Proof.Machine.execStatus c s
  | .time c => Sys2Proof.Machine.execTime c s
  | .sense c => Sys2Proof.Machine.execSense c s
  | .powerread c => Sys2Proof.Machine.execPowerread c s
  | .clkread c => Sys2Proof.Machine.execClkread c s
  | .pkglimit c => Sys2Proof.Machine.execPkglimit c s
  | .threstart c => Sys2Proof.Machine.execThrestart c s
  | .vrread c => Sys2Proof.Machine.execVrread c s
  | .mailboxGo w => Sys2Proof.Machine.execMailboxGo w s
  | .mgmtWriteFrame frame => Sys2Proof.Machine.execMgmtWriteFrame frame s
  | .mgmtReadResponse tag => Sys2Proof.Machine.execMgmtReadResponse tag s
  | .vc3Frame node frame => Sys2Proof.Machine.execVc3Frame node frame s
  | .vauxRise => Sys2Proof.Machine.execVauxRise s
  | .smcBoot => Sys2Proof.Machine.execSmcBoot s
  | .pwrgoodRise => Sys2Proof.Machine.execPwrgoodRise s
  | .pwrgoodFall => Sys2Proof.Machine.execPwrgoodFall s
  | .resetNFall => Sys2Proof.Machine.execResetNFall s
  | .resetNRise bootSrc tussockId => Sys2Proof.Machine.execResetNRise bootSrc tussockId s
  | .sheafRead cs0 cs1 => Sys2Proof.Machine.execSheafRead cs0 cs1 s
  | .clockStart locks failedTiles => Sys2Proof.Machine.execClockStart locks failedTiles s
  | .loamRecovery stack => Sys2Proof.Machine.execLoamRecovery stack s
  | .ddrTraining dimms => Sys2Proof.Machine.execDdrTraining dimms s
  | .tussockAssembly => Sys2Proof.Machine.execTussockAssembly s
  | .domainCreation => Sys2Proof.Machine.execDomainCreation s
  | .zeroFill => Sys2Proof.Machine.execZeroFill s
  | .bootImageCopy domain uncorrectable => Sys2Proof.Machine.execBootImageCopy domain uncorrectable s
  | .bootThreadRelease domain => Sys2Proof.Machine.execBootThreadRelease domain s
  | .perstDeassert port => Sys2Proof.Machine.execPerstDeassert port s
  | .railUndervolt rail => Sys2Proof.Machine.execRailUndervolt rail s
  | .refclkLoss => Sys2Proof.Machine.execRefclkLoss s
  | .xlateWrite thread value => Sys2Proof.Machine.execXlateWrite thread value s
  | .dimmThermalRead channel dimm sixteenths => Sys2Proof.Machine.execDimmThermalRead channel dimm sixteenths s
  | .pcieDmaRequest d => Sys2Proof.Machine.execPcieDmaRequest d s
  | .pcieLoadError port thread addr reg width how => Sys2Proof.Machine.execPcieLoadError port thread addr reg width how s
  | .pcieLinkDown port => Sys2Proof.Machine.execPcieLinkDown port s
  | .cfgdataLoad a => Sys2Proof.Machine.execCfgdataLoad a s
  | .cfgdataStore a => Sys2Proof.Machine.execCfgdataStore a s
  | .extest => Sys2Proof.Machine.execExtest s
  | .idcode => Sys2Proof.Machine.execIdcode s
  | .samplePreload captured => Sys2Proof.Machine.execSamplePreload captured s
  | .clamp => Sys2Proof.Machine.execClamp s
  | .highz => Sys2Proof.Machine.execHighz s
  | .bypass => Sys2Proof.Machine.execBypass s
  | .prochotRelease => Sys2Proof.Machine.execProchotRelease s
  | .vauxFall => Sys2Proof.Machine.execVauxFall s
  | .pcieLinkUp port width rate => Sys2Proof.Machine.execPcieLinkUp port width rate s
  | .loamDieStopsAnswering stack die => Sys2Proof.Machine.execLoamDieStopsAnswering stack die s
  | .epochChangeAck node => Sys2Proof.Machine.execEpochChangeAck node s

end Sys2Proof.Machine
end

