-- ==== Sys2Proof/Machine/Step.lean ====
section
/-!
DEFINITION. The step: the command at the front of the queue, or one tick of SCLK when none waits.
-/

namespace Sys2Proof.Machine

/-- One step. On an empty queue time passes: one SCLK tick, and what no command brings about.
DESIGN CHOICE (log 1, 6, 9).
DEDUCED (log 5). -/
def step (s : State) : Host.Outcome State Fault Refusal :=
  match s.pending with
  | [] => .next s.idle
  | i :: rest => exec i { s with pending := rest }

/-- `s` with the command a word spells put at the front of its queue; `s` itself when the word spells none.
DEDUCED (log 5). -/
def State.withFetchWord (s : State) (nbits w : Nat) : State :=
  match decodeTableWord nbits w with
  | some i => { s with pending := i :: s.pending }
  | none => s

end Sys2Proof.Machine
end

