-- ==== Sys2Proof/Safety.lean ====
section
/-!
DEFINITION. What a sound state of the part is, and the words in which the statements speak of a command: an instruction
that issues, one that retires with its own effect, and what it leaves alone.
-/

namespace Sys2Proof.Safety

open Sys2Proof.Machine

/-- DRAM is in its canonical form: addresses strictly rising, no byte listed that reads as zero. -/
def DramOk (s : State) : Prop := Memory.wf s.dram = true

/-- Nothing but its next instruction is due at the boundary where thread `g` stands: decode takes it (R285), and no machine check
(R239), execute breakpoint (R234), deliverable tile-stream fault (R205) or kept trap (R232) comes before it. -/
def AtBoundary (s : State) (g : Nat) : Prop :=
  s.decodes g = true ∧ (s.thread g).checks = [] ∧ (s.thread g).execHits = [] ∧ (s.thread g).tileFaultDue = none ∧
    (s.thread g).trapHere = none

/-- The instruction framed in `x` reaches its own effect: its thread issues, nothing else is due at its boundary, and its bytes
can be fetched and decode without fault (R70, R73). -/
def Issues (s : State) (o : Op) (x : Insn) : Prop :=
  x.thread < 256 ∧ (s.thread x.thread).issues = true ∧ AtBoundary s x.thread ∧ s.frontFault o x = none

/-- The state in which an instruction that retires acts: its bytes are fetched (R158, R272, R442). -/
def fetchedFor (s : State) (o : Op) (x : Insn) : State := s.fetched x.thread (o.length x)

/-- The command `i` raises fault `f` for thread `g`, with what `s'` holds done; a delivery that stands behind a TFENCE or a store
that holds waits for it (R304, R461). -/
def Raises (s s' : State) (i : Instr) (g : Nat) (f : Flt) : Prop :=
  exec i s = .next (if (s.thread g).deliveryWaits then s.holdAt g .fence else s'.fault g f)

/-- Is a system register one of the counters or their control (PMCTL, PMC0–PMC7), which every retirement may change? -/
def isCounter (n : Nat) : Bool := n == 0x700 || (decide (0x710 ≤ n) && decide (n < 0x718))

/-- `t` is `s` with thread `g` replaced by `u` at the next instruction address `ip`: no hold but that of a store in its store
queue, no progress of a MOVS, counters as they counted, the count of free values as the counters took them, and every other piece
of the part unchanged. -/
def Turned (s t : State) (g : Nat) (ip : Word) (u : Thread) : Prop :=
  ∃ (sys : FMap Word) (n : Nat),
    t = { s.setThread g { u with ip := ip.truncate 48, hold := if u.stq.isSome then u.hold else .none, prog := 0, sys := sys }
          with free := n } ∧
    ∀ k, isCounter k = false → FMap.get sys k 0 = u.sysGet k

/-- The same with PSW.BRS 0, as every instruction that does not itself write PSW leaves it (R236). -/
def Retired (s t : State) (g : Nat) (ip : Word) (u : Thread) : Prop :=
  Turned s t g ip { u with psw := { u.psw with brs := false } }

/-- The instruction at IP of thread `g` retires into thread state `u` and next address `ip`, the rest of the part being that
of `s'`; a single-step trap is kept for the boundary after it when PSW.SS was 1 (R232, R236). -/
def RetiresIn (s s' t : State) (g : Nat) (ip : Word) (u : Thread) : Prop :=
  ∃ r, Retired s' r g ip u ∧ t = r.endTraps g (s.thread g).pc (s.thread g).psw.ss false

/-- `x` of framing `o` retires into the next instruction, and beside what its fetch left only its thread changes, to `u`. -/
def Completes (s t : State) (o : Op) (x : Insn) (u : Thread) : Prop :=
  RetiresIn s (fetchedFor s o x) t x.thread (s.after o x) u

/-! ### Integer results, computed exactly and then narrowed -/

/-- Is an exact integer outside the signed range of `w` bits? -/
def SignedOut (w : Nat) (i : Int) : Prop := i < -(2 : Int) ^ (w - 1) ∨ (2 : Int) ^ (w - 1) ≤ i

/-- FL as R113 writes it for a `w`-bit result: N its top bit, Z its being zero, and C and V as given. -/
def flagsAre (fl : BitVec 4) (w res : Nat) (c v : Prop) : Prop :=
  (fl.getLsbD 3 = true ↔ 2 ^ (w - 1) ≤ res) ∧ (fl.getLsbD 2 = true ↔ res = 0) ∧ (fl.getLsbD 1 = true ↔ c) ∧
    (fl.getLsbD 0 = true ↔ v)

/-- The instruction `i` of framing `o` writes the `w`-bit number `res` to register `d`, and writes FL with C and V as given when
it carries SF, leaving FL otherwise; nothing else changes. -/
def GivesInt (s : State) (i : Instr) (o : Op) (x : Insn) (d res : Nat) (c v : Prop) : Prop :=
  ∃ t fl, exec i s = .next t ∧ Completes s t o x { (s.thread x.thread).setReg d (BitVec.ofNat 64 res) with fl := fl } ∧
    if x.sf then flagsAre fl x.width res c v else fl = (s.thread x.thread).fl

/-- The instruction `i` of framing `o` changes its thread to `u` and nothing else. -/
def Gives (s : State) (i : Instr) (o : Op) (x : Insn) (u : Thread) : Prop :=
  ∃ t, exec i s = .next t ∧ Completes s t o x u

/-- The instruction `i` of framing `o` retires into the next instruction; `P` says what it leaves: the part but for its thread,
and the thread. -/
def Ends (s : State) (i : Instr) (o : Op) (x : Insn) (P : State → Thread → Prop) : Prop :=
  ∃ t s' u, exec i s = .next t ∧ RetiresIn s s' t x.thread (s.after o x) u ∧ P s' u

/-- `s'` is `s` but for the Grant Store of domain `d`, and there but for entries that satisfy `p`. -/
def StoreOnly (s s' : State) (d : Nat) (p : Nat → Prop) : Prop :=
  s' = { s with domains := s'.domains } ∧ (∀ e, e ≠ d → s'.domain e = s.domain e) ∧
    s'.domain d = { s.domain d with store := (s'.domain d).store } ∧
    ∀ i, ¬p i → (s'.domain d).store.entry i = (s.domain d).store.entry i

/-! ### Memory -/

/-- The page-table entries whose accessed or dirty bit an access through `rs` may set (R158). -/
def marks (rs : List ByteRef) : List Nat :=
  rs.flatMap (fun r => r.path ++ (match r.tlb with | some e => [e.leaf] | none => []))

/-- `s'` is `s` after the marks of an access: only DRAM, the homes of lines with their L3 slices and directories, the notices on
the mesh, and in the cores translations, walker caches and cached lines may differ. -/
def Marked (s s' : State) : Prop :=
  s' = { s with dram := s'.dram, cores := s'.cores, lines := s'.lines, msgs := s'.msgs, l3 := s'.l3, dirUse := s'.dirUse } ∧
    ∀ c, s'.core c = { s.core c with
      tlb := (s'.core c).tlb, walker := (s'.core c).walker, l1i := (s'.core c).l1i, l1d := (s'.core c).l1d,
      l2 := (s'.core c).l2, l2use := (s'.core c).l2use, wb := (s'.core c).wb }

/-- Core `c` holds every line of DRAM that an access through `rs` touches, owned when the access writes (R456), and the lines of
the Boot ROM (R465). -/
def Held (s : State) (c : Nat) (own : Bool) (rs : List ByteRef) : Prop :=
  (∀ l ∈ dramLines rs, ∃ st, FMap.find (s.core c).l2 l = some st ∧ (own = true → st ≠ .shared)) ∧
    ∀ r ∈ rs, r.tgt = .rom → (r.pa / 64, 0) ∈ (s.core c).l2use

/-- No load or fetch of thread `g` runs ahead of its retirement. -/
def InOrder (s : State) (g : Nat) : Prop := ∀ o ∈ (s.core (g / 2)).spec, o.acc.thread ≠ g

/-- A load through `rs` changes no byte of DRAM but the marked page-table entries. -/
def Loads (s s' : State) (rs : List ByteRef) : Prop :=
  Marked s s' ∧ ∀ a, a ∉ marks rs → Mem.byte s'.dram a = Mem.byte s.dram a

/-- A store of `bs` through `rs` writes those bytes, and no other byte of DRAM but the marked page-table entries. -/
def Stores (s s' : State) (rs : List ByteRef) (bs : List Byte) : Prop :=
  Marked s s' ∧
    (∀ a, (∀ r ∈ rs, r.pa ≠ a) → a ∉ marks rs → Mem.byte s'.dram a = Mem.byte s.dram a) ∧
    ((rs.map (·.pa)).Nodup → ∀ (i : Nat) (r : ByteRef), rs[i]? = some r → r.tgt = .dram → Mem.byte s'.dram r.pa = bs[i]?.getD 0)

/-- An access through `rs` goes to memory, not to a control-space register, and meets no failed link (R652). -/
def InMemory (s : State) (rs : List ByteRef) : Prop := controlOf rs = none ∧ s.severed rs = none

/-- A scalar access of thread `g` at ring `p` to the `n` bytes from `a` reaches memory at once, through `rs`: no TFENCE and no
store that holds stands before it (R304, R461), it is permitted (R42), meets no failed link, is of DRAM or the Boot ROM, and its
core holds its lines. -/
def Reached (s : State) (g p : Nat) (nd : Need) (a n : Nat) (rs : List ByteRef) : Prop :=
  s.fenceWait g = none ∧ InOrder s g ∧ s.check g p nd a n = .ok rs ∧ InMemory s rs ∧ hasLoam rs = false ∧ hasPcie rs = false ∧
    Held s (g / 2) nd.store rs

/-- The `n` bytes from `a` are DRAM of the windows of the domain of thread `g`, which runs with XLATE.EN = 0. -/
def OwnDram (s : State) (g a n : Nat) : Prop :=
  bitOf ((s.thread g).sysNat Sys.xlate) 0 = false ∧ a + n ≤ 0x060000000000 ∧
    ∃ d, s.domOf g = some d ∧ ∀ i, i < n → s.installed (a + i) = true ∧ (s.domain d).owns (a + i) = true

/-- The core of thread `g` holds in its L2 the lines of the `n` bytes from `a`, owned when `own` says so. -/
def LinesHeld (s : State) (g a n : Nat) (own : Bool) : Prop :=
  ∀ l, a / 64 ≤ l → l * 64 < a + n → ∃ st, FMap.find (s.core (g / 2)).l2 l = some st ∧ (own = true → st ≠ .shared)

/-- The byte-at-a-time copy of R124: `n` bytes from `a` to `d`, lowest first. -/
def copyBytes (m : Mem) (d a n : Nat) : Mem :=
  match n with
  | 0 => m
  | k + 1 => copyBytes (Mem.setByte m d (Mem.byte m a)) (d + 1) (a + 1) k

/-! ### Delivery -/

/-- Where the delivery of `e` through descriptor `d` pushes its frame: the base of the stack it takes, less 64, aligned down. -/
def pushAt (s : State) (g : Nat) (d : GateDesc) : Nat :=
  let t := s.thread g
  ((if d.tpl < t.ring ∧ t.psw.ems = false then t.sysNat (Sys.sp d.tpl) else t.sp.toNat) - 64) / 64 * 64

/-- Event `e` of thread `g` finds its descriptor `d` usable, is above the mask, spills nothing and has room for its frame, whose
bytes `rs` may be written (R212 to R216); nothing of the thread that ran ahead is left to discard. -/
def EntryReady (s : State) (g : Nat) (e : Event) (d : GateDesc) (rs : List ByteRef) : Prop :=
  let t := s.thread g
  InOrder s g ∧ s.usableDesc g e.code t.ring = some d ∧ t.res ≤ 7 ∧
    (e.level.isSome = true ∨ classLevel e.code = 15 ∨
      (t.psw.ml.toNat < classLevel e.code ∧ bitOf (t.sysNat Sys.ringctl) t.ring = false)) ∧
    64 ≤ pushAt s g d ∧ (if t.psw.ems then t.sysNat Sys.esp - 0x4000 else t.sysNat (Sys.slim d.tpl)) ≤ pushAt s g d ∧
    s.check g d.tpl Need.blockSt (pushAt s g d) 64 = .ok rs

/-- `t` is `s` after the delivery of `e` through `d` (R214): the frame is pushed, the window slides by 24 with w8–w31 zero, the
fault-report registers, PSW, sp and IP are as the delivery writes them, and nothing else changes. -/
def Entered (s t : State) (g : Nat) (e : Event) (d : GateDesc) (rs : List ByteRef) : Prop :=
  let v := s.thread g
  ∃ s' u, t = s'.setThread g u ∧
    Stores s s' rs (frameBytes v e.retIp (if e.level.isSome then 2 else 1) false) ∧
    u = { v with cur := u.cur, older := u.older, k := u.k, ip := BitVec.ofNat 48 d.hip, sys := u.sys, prog := 0,
                 hold := if v.stq.isSome then v.hold else .none, loamBad := v.loamBad.filter (·.tile),
                 psw := { v.psw with pl := BitVec.ofNat 2 d.tpl, ss := false, brs := false,
                                     ml := BitVec.ofNat 4 (max (max v.psw.ml.toNat d.ml) (e.level.getD 0)) } } ∧
    u.res = v.res + 1 ∧ (∀ i, i < 8 → u.reg i = v.reg (24 + i)) ∧ (∀ i, 8 ≤ i → i < 32 → u.reg i = 0) ∧
    u.reg 39 = BitVec.ofNat 64 (pushAt s g d) ∧ (∀ i, 32 ≤ i → i < 39 → u.reg i = v.reg i) ∧
    u.sysGet Sys.cause = BitVec.ofNat 64 (e.code + e.sub * 2 ^ 8 + d.tpl * 2 ^ 16) ∧ u.sysGet Sys.faddr = e.faddr ∧
    u.sysGet Sys.fip = BitVec.ofNat 64 (e.fip.toNat % 2 ^ 48) ∧ u.sysGet Sys.fprog = e.fprog ∧
    bitOf (u.sysNat Sys.ecause) 16 = false ∧
    ∀ k, k ∉ [Sys.cause, Sys.faddr, Sys.fip, Sys.fprog, Sys.ecause] → u.sysGet k = v.sysGet k

/-- The synchronous fault `f` of the instruction at IP of thread `g` as an event: FIP and the return IP are its address. -/
def faultEvent (s : State) (g : Nat) (f : Flt) : Event :=
  { code := f.code, sub := f.sub, faddr := f.faddr, fip := (s.thread g).pc, fprog := f.fprog, retIp := (s.thread g).pc,
    level := none, gate := false }

/-! ### The rows of scalar instructions -/

/-- The framing and the operands of a row of a scalar instruction, none for the rows of events and tile instructions. -/
def framing (i : Instr) : Option (Op × Insn) :=
  match i with
  | .nop x => if x.op == 0x01 || (opcodeFault x.op x.op2).isSome then some (opNop x.op x.op2, x.insn) else none
  | .call x => some (opJump, x)
  | .ret x => some (Op.plain false .n (fun _ => true), x)
  | .jmp x => some (opJump, x)
  | .bcc x _ => some (opBranch (fun x => bSpec x == 0), x)
  | .bz x => some (opBranch (fun x => isInt (bSpec x)), x)
  | .bnz x => some (opBranch (fun x => isInt (bSpec x)), x)
  | .dbnz x => some (opBranch (fun x => isInt (bSpec x) && bSpec x != 32), x)
  | .wflush x => some (Op.plain true .n (fun _ => true), x)
  | .rdsr x => some (opSys, x)
  | .wrsr x => some (opSys, x)
  | .add x => some (opR3 true true validR3, x)
  | .adc x => some (opR3 true true validR3, x)
  | .sub x => some (opR3 true true validR3, x)
  | .sbc x => some (opR3 true true validR3, x)
  | .and x => some (opR3 true true validR3, x)
  | .or x => some (opR3 true true validR3, x)
  | .xor x => some (opR3 true true validR3, x)
  | .andn x => some (opR3 true true validR3, x)
  | .shl x => some (opR3 true true validR3, x)
  | .shr x => some (opR3 true true validR3, x)
  | .sar x => some (opR3 true true validR3, x)
  | .mul x => some (opR3 true true validR3, x)
  | .addi x => some (opRI, x)
  | .adci x => some (opRI, x)
  | .subi x => some (opRI, x)
  | .sbci x => some (opRI, x)
  | .andi x => some (opRI, x)
  | .ori x => some (opRI, x)
  | .xori x => some (opRI, x)
  | .andni x => some (opRI, x)
  | .shli x => some (opRI, x)
  | .shri x => some (opRI, x)
  | .sari x => some (opRI, x)
  | .ld x => some (opMem false false, x)
  | .lds x => some (opMem false true, x)
  | .st x => some (opMem false false, x)
  | .swap x => some (opAtomic (fun _ => true), x)
  | .cas x => some (opAtomic (fun x => decide (x.rd ≤ 30)), x)
  | .aadd x => some (opAtomic (fun _ => true), x)
  | .aand x => some (opAtomic (fun _ => true), x)
  | .aor x => some (opAtomic (fun _ => true), x)
  | .axor x => some (opAtomic (fun _ => true), x)
  | .amax x => some (opAtomic (fun _ => true), x)
  | .amaxu x => some (opAtomic (fun _ => true), x)
  | .amin x => some (opAtomic (fun _ => true), x)
  | .aminu x => some (opAtomic (fun _ => true), x)
  | .setcc x _ => some (opR2 0 (fun x => isInt x.rd2 && x.rs2 == 0), x)
  | .rdfl x => some (opR2 1 (fun x => isInt x.rd2 && x.rs2 == 0), x)
  | .wrfl x => some (opR2 2 (fun x => x.rd2 == 0 && isInt x.rs2), x)
  | .bfx x => some (opR3 true false validField, x)
  | .bfxs x => some (opR3 true false validField, x)
  | .bfi x => some (opR3 true false validField, x)
  | .clz x => some (opR3 true false (fun x => isInt x.rd && isInt x.ra && x.rb == 0 && x.fn == 0), x)
  | .ctz x => some (opR3 true false (fun x => isInt x.rd && isInt x.ra && x.rb == 0 && x.fn == 0), x)
  | .perm x => some (opR3 true false validR3, x)
  | .movs x => some (opMovs, x)
  | .mulh x => some (opR3 false false validR3, x)
  | .mulhu x => some (opR3 false false validR3, x)
  | .mulw x => some (opR3 false false validR3, x)
  | .div x => some (opR3 true false validR3, x)
  | .divu x => some (opR3 true false validR3, x)
  | .rem x => some (opR3 true false validR3, x)
  | .remu x => some (opR3 true false validR3, x)
  | .fadd x => some (Op.plain false .r3 (validF (fun x => isFp x.rd) (fun x => isFp x.rb)), x)
  | .fsub x => some (Op.plain false .r3 (validF (fun x => isFp x.rd) (fun x => isFp x.rb)), x)
  | .fmul x => some (Op.plain false .r3 (validF (fun x => isFp x.rd) (fun x => isFp x.rb)), x)
  | .fdiv x => some (Op.plain false .r3 (validF (fun x => isFp x.rd) (fun x => isFp x.rb)), x)
  | .fsqrt x => some (Op.plain false .r3 (validF (fun x => isFp x.rd) (fun x => x.rb == 0)), x)
  | .fmin x => some (Op.plain false .r3 (validF (fun x => isFp x.rd) (fun x => isFp x.rb)), x)
  | .fmax x => some (Op.plain false .r3 (validF (fun x => isFp x.rd) (fun x => isFp x.rb)), x)
  | .fcmp x => some (Op.plain false .r3 (validF (fun x => x.rd == 0) (fun x => isFp x.rb)), x)
  | .fcmpe x => some (Op.plain false .r3 (validF (fun x => x.rd == 0) (fun x => isFp x.rb)), x)
  | .fma x => some (Op.plain false .r3 (validF (fun x => isFp x.rd) (fun x => isFp x.rb)), x)
  | .rdfcsr x => some (Op.plain true .r3 (fun x => isInt x.rd && x.ra == 0 && x.rb == 0 && x.fn == 0), x)
  | .wrfcsr x => some (Op.plain true .r3 (fun x => x.rd == 0 && isInt x.ra && x.rb == 0 && x.fn == 0), x)
  | .fcvtB64ToB32 x => some (Op.plain true .r3 (fun x => isFp x.rd && isFp x.ra && x.rb == 0 && x.fn == 0), x)
  | .fcvtB32ToB64 x => some (Op.plain true .r3 (fun x => isFp x.rd && isFp x.ra && x.rb == 0 && x.fn == 0), x)
  | .fcvtToS32 x => some (Op.plain true .r3 (fun x => isInt x.rd && isFp x.ra && x.rb == 0 && decide (x.fn < 2)), x)
  | .fcvtToU32 x => some (Op.plain true .r3 (fun x => isInt x.rd && isFp x.ra && x.rb == 0 && decide (x.fn < 2)), x)
  | .fcvtToS64 x => some (Op.plain true .r3 (fun x => isInt x.rd && isFp x.ra && x.rb == 0 && decide (x.fn < 2)), x)
  | .fcvtToU64 x => some (Op.plain true .r3 (fun x => isInt x.rd && isFp x.ra && x.rb == 0 && decide (x.fn < 2)), x)
  | .fcvtFromS32 x => some (Op.plain true .r3 (fun x => isFp x.rd && isInt x.ra && x.rb == 0 && decide (x.fn < 2)), x)
  | .fcvtFromU32 x => some (Op.plain true .r3 (fun x => isFp x.rd && isInt x.ra && x.rb == 0 && decide (x.fn < 2)), x)
  | .fcvtFromS64 x => some (Op.plain true .r3 (fun x => isFp x.rd && isInt x.ra && x.rb == 0 && decide (x.fn < 2)), x)
  | .fcvtFromU64 x => some (Op.plain true .r3 (fun x => isFp x.rd && isInt x.ra && x.rb == 0 && decide (x.fn < 2)), x)
  | .gate x => some (opGate, x)
  | .gret x => some (Op.plain false .n (fun _ => true), x)
  | .ldc x => some (opMem true false, x)
  | .stc x => some (opMem true false, x)
  | .gderive x => some (opAuth 1 (fun x => decide (x.rd2 ≤ 30) && isInt x.rs2), x)
  | .grevoke x => some (opAuth 1 (fun x => x.rd2 == 0 && isInt x.rs2 && decide (x.immRI.toNat ≤ 1)), x)
  | .gquery x => some (opAuth 1 (fun x => isInt x.rd2 && isInt x.rs2 && decide (x.immRI.toNat ≤ 3)), x)
  | .gxferS x => some (opAuth 1 (fun x => isInt x.rd2 && isInt x.rs2 && x.immRI.toNat == 0), x)
  | .gxferR x => some (opAuth 1 (fun x => isInt x.rd2 && x.rs2 == 0 && x.immRI.toNat == 1), x)
  | .gattach x => some (opAuth 1 (fun x => x.rd2 == 0 && isInt x.rs2 && decide (x.immRI.toNat ≤ 7)), x)
  | .gdetach x => some (opAuth 1 (fun x => x.rd2 == 0 && x.rs2 == 0 && decide (x.immRI.toNat ≤ 7)), x)
  | .gdetachP x => some (opAuth 1 (fun x => x.rd2 == 0 && x.rs2 == 0 && decide (8 ≤ x.immRI.toNat) && decide (x.immRI.toNat ≤ 15)), x)
  | .tinv x => some (opTinv, x)
  | .fret x => some (Op.plain false .n (fun _ => true), x)
  | .brk x => some (Op.plain false .n (fun _ => true), x)
  | .sbar x => some (Op.plain true .n (fun _ => true), x)
  | .pflush x => some (Op.plain true .n (fun _ => true), x)
  | .mfence x => some (Op.plain true .n (fun _ => true), x)
  | .isync x => some (Op.plain true .n (fun _ => true), x)
  | _ => none

/-! ### Tile instructions -/

/-- The tile instruction `t` reaches retirement with nothing else due at its boundary and no fault of its fetch or decoding (R69,
R73, R232, R296). -/
def TileIssues (s : State) (t : TileInsn) : Prop :=
  t.thread < 256 ∧ (s.thread t.thread).issues = true ∧ AtBoundary s t.thread ∧ s.tileFront t = none

/-- The state in which a tile instruction that retires acts: its bytes are fetched. -/
def tileFetched (s : State) (t : TileInsn) : State := s.fetched t.thread t.length

/-- The command `i` retires the tile instruction `t`; `P` says what it leaves: the part but for its thread, and the thread. -/
def TileEnds (s : State) (i : Instr) (t : TileInsn) (P : State → Thread → Prop) : Prop :=
  ∃ r s' u, exec i s = .next r ∧
    RetiresIn s s' r t.thread ((s.thread t.thread).pc + BitVec.ofNat 64 t.length) u ∧ P s' u

/-- Sward runs the instructions of thread `g` one at a time: its core is not in Fixed-time mode, and nothing issued there is left
(R409 to R411). -/
def OneAtATime (s : State) (g : Nat) : Prop := (s.core (g / 2)).mode ≠ 2 ∧ (s.thread g).tile.timed = []

/-- Tile instruction `t` of opcode `o` stands, as entry `e`, at the head of the Tile Queue of thread `g` and may issue alone. -/
def AtHead (s : State) (g : Nat) (e : TqEntry) (t : TileInsn) (o : Nat) : Prop :=
  s.tileHead g = some e ∧ e.op = .tile t ∧ t.op.toNat = o ∧ OneAtATime s g

/-- `u` is thread `v` with the head of its Tile Queue completed: nothing else changed but tile data, TINUSE and system
registers. -/
def Popped (v u : Thread) : Prop :=
  u = { v with sys := u.sys, tile := { v.tile with
    data := u.tile.data, inuse := u.tile.inuse, queue := v.tile.queue.drop 1, move := none, resume := 0, waiting := false } }

/-- The command `i` completes the head of the Tile Queue of thread `g` and changes nothing outside the thread. -/
def HeadDone (s : State) (i : Instr) (g : Nat) (P : Thread → Prop) : Prop :=
  ∃ u, exec i s = .next (s.setThread g u) ∧ Popped (s.thread g) u ∧ P u

/-- The system registers of `u` are those of `v` but for the numbers listed. -/
def SysBut (v u : Thread) (l : List Nat) : Prop := ∀ n, n ∉ l → u.sysGet n = v.sysGet n

/-- Tile data outside the register `code` is as before. -/
def DataBut (v u : Thread) (code : Nat) : Prop :=
  ∀ a, a < regBase code ∨ regBase code + regBytes code ≤ a → Mem.byte u.tile.data a = Mem.byte v.tile.data a

/-- One element that an arithmetic tile instruction writes: its value, whether it is a NaN or an infinity, whether its
rounding overflowed, and whether SAT or a clamp replaced it. -/
structure Elem where
  val : Nat
  nan : Bool
  inf : Bool
  ovf : Bool
  sat : Bool
  deriving DecidableEq, Repr

/-- A rounded result as an element under SAT (R353). -/
def Elem.ofFloat (f : BinFmt) (sat : Bool) (o : FOut) : Elem :=
  let inf := o.val == f.infinity false || o.val == f.infinity true
  let v := if sat && inf then f.maxFin (o.val == f.infinity true) else o.val
  { val := v, nan := (f.unpack v).isNan, inf := inf && !sat, ovf := o.ovf, sat := sat && inf }

/-- What writing the elements `new`, numbered in row-major order, of register `code`, with `per` elements of `w` bits a row,
leaves of thread `v`: the elements, TINUSE, and TSTAT and TFIRST by R384 and R385. -/
def Wrote (v u : Thread) (code w per : Nat) (new : Nat → Option Elem) : Prop :=
  let n := regBytes code * 8 / w
  let has (p : Elem → Bool) (k : Nat) : Bool := decide (k < n) && (match new k with | some e => p e | none => false)
  let place (k : Nat) : Nat :=
    (if code < 16 then code else code - 16 + 8) + k / per * 2 ^ 4 + k % per * 2 ^ 10 + 2 ^ 17
  let first (p : Elem → Bool) (b hi lo : Nat) : Prop :=
    (∀ k, has p k = true → (∀ j, j < k → has p j = false) → bitOf (v.sysNat Sys.tstat) b = false →
      bitsOf (u.sysNat Sys.tfirst) hi lo = place k) ∧
    (bitOf (v.sysNat Sys.tstat) b = true ∨ (∀ k, has p k = false) →
      bitsOf (u.sysNat Sys.tfirst) hi lo = bitsOf (v.sysNat Sys.tfirst) hi lo)
  let flag (p : Elem → Bool) (b : Nat) : Prop :=
    bitOf (u.sysNat Sys.tstat) b = true ↔ bitOf (v.sysNat Sys.tstat) b = true ∨ ∃ k, has p k = true
  elemsOf w (u.tile.regData code) = (List.range n).map (fun k =>
    match new k with | some e => e.val % 2 ^ w | none => (elemsOf w (v.tile.regData code)).getD k 0) ∧
  DataBut v u code ∧ SysBut v u [Sys.tstat, Sys.tfirst] ∧
  (∀ j, j < 20 → (u.tile.inuse.getLsbD j = true ↔
    v.tile.inuse.getLsbD j = true ∨ (j = code ∧ ∃ k, has (fun e => e.val != 0) k = true))) ∧
  flag (·.nan) 0 ∧ flag (·.inf) 1 ∧ flag (·.ovf) 2 ∧
  bitsOf (u.sysNat Sys.tstat) 63 32 =
    min (bitsOf (v.sysNat Sys.tstat) 63 32 + (List.range n).countP (has (·.sat))) 0xFFFFFFFF ∧
  first (·.nan) 0 17 0 ∧ first (·.inf) 1 49 32

/-- The same for results rounded to F32 in accumulator `a`, under TCTL.SAT. -/
def WroteF32 (v u : Thread) (a : Nat) (new : Nat → Option FOut) : Prop :=
  Wrote v u (16 + a) 32 64 (fun k => (new k).map (Elem.ofFloat binary32 (bitOf (v.sysNat Sys.tctl) 2)))

/-- Element `k` of accumulator `a`, in row-major order. -/
def accElem (v : Thread) (a k : Nat) : Nat := (elemsOf 32 (v.tile.regData (16 + a))).getD k 0

/-- Neither numeric trap of TCTL is on (R386). -/
def NoNumericTrap (v : Thread) : Prop := bitOf (v.sysNat Sys.tctl) 4 = false ∧ bitOf (v.sysNat Sys.tctl) 5 = false

/-! ### Interrupt sources, control space and homes -/

/-- An event of source `n` of domain `d` was raised: PEND is set, and OVR when PEND already was (R227). -/
def Raised (s t : State) (d n : Nat) : Prop :=
  t = { s with domains := t.domains } ∧ (∀ e, e ≠ d → t.domain e = s.domain e) ∧
    t.domain d = { s.domain d with srcs := (t.domain d).srcs } ∧
    (∀ k, k ≠ n → FMap.find (t.domain d).srcs k = FMap.find (s.domain d).srcs k) ∧
    (t.domain d).src n = { (s.domain d).src n with pend := true, ovr := ((s.domain d).src n).ovr || ((s.domain d).src n).pend }

/-- A store of a running thread reaches the control-space register at `l`, which lies in a slice of its domain, behind no TFENCE
and no store that holds (R15, R43, R304, R461). -/
def Reaches (s : State) (w : CsStore) (l : CsLoc) : Prop :=
  w.thread < 256 ∧ (s.thread w.thread).run = .running ∧ csLocate w.offset = l ∧
    s.csTarget ((s.domOf w.thread).getD 64) l = true ∧ w.width = csWidth l ∧ w.offset % w.width = 0 ∧
    s.fenceWait w.thread = none

/-- `s` with the store `w` held for `h` in the store queue of its thread, with the ring it was made at. -/
def heldFor (w : CsStore) (h : Hold) (s : State) : State :=
  s.onThread w.thread (fun t => { t with
    hold := h, stq := some { off := w.offset, value := w.value.toNat, ring := t.psw.pl.toNat, marked := false } })

/-- `t` is `s` with core `c` replaced by `x`. -/
def CoreSet (s t : State) (c : Nat) (x : Core) : Prop :=
  t = { s with cores := t.cores } ∧ t.core c = x ∧ ∀ k, k ≠ c → t.core k = s.core k

/-- Core `x` is `y` but for its descriptors and counters, and descriptor `n` of it is `d`. -/
def DescSet (y x : Core) (n : Nat) (d : Desc) : Prop :=
  x = { y with descs := x.descs, scnt := x.scnt } ∧ FMap.get x.descs n Desc.reset = d ∧
    ∀ k, k ≠ n → FMap.get x.descs k Desc.reset = FMap.get y.descs k Desc.reset

/-- Stream counter `m` of core `x` is that of `y` plus one, its ERR bit set when `err` says so; the others are unchanged
(R425, R426). -/
def Counted1 (y x : Core) (m : Nat) (err : Bool) : Prop :=
  bitsOf (FMap.get x.scnt m 0).toNat 31 0 = (bitsOf (FMap.get y.scnt m 0).toNat 31 0 + 1) % 2 ^ 32 ∧
    bitOf (FMap.get x.scnt m 0).toNat 32 = (bitOf (FMap.get y.scnt m 0).toNat 32 || err) ∧
    ∀ k, k ≠ m → FMap.get x.scnt k 0 = FMap.get y.scnt k 0

/-- `t` is `s` but for the cores, the line `line` at its home, which is `x`, the messages on the mesh, the directory and L3
entries in use, the misses toward memory, and DRAM with its open rows; of the lines at their homes only those that left L3 for
this one may have changed, and only so. -/
def LineSet (s t : State) (line : Nat) (x : HomeLine) : Prop :=
  t = { s with cores := t.cores, lines := t.lines, msgs := t.msgs, l3 := t.l3, dirUse := t.dirUse, misses := t.misses,
               agentWant := t.agentWant, dram := t.dram, ddr := { s.ddr with openRow := t.ddr.openRow } } ∧
    t.line line = x ∧
    ∀ k, k ≠ line → t.line k = s.line k ∨
      ((∃ w, { line := k, tag := dramTag, way := w : L3Line } ∈ s.l3) ∧
        t.line k = { s.line k with inL3 := false, l3dirty := false, l3old := false })

/-- The request that `r` leaves in the ordering queue of its home. -/
def queuedReq (s : State) (k : CohKind) (r : CohReq) : HomeReq :=
  { kind := homeKind k, req := r.req, dom := s.reqDom r, off := r.off, bytes := r.bytes }

/-- A request that reaches its home alone: its sender has cause for it, no transaction is open for its line and none waits, its
package has the right to it, its slice's ordering queue has room and nothing holds at its stop, the miss it makes finds entries
(R450, R264, R468), and its core has no other request or notice of the line outstanding (R453). -/
def Arrives (s : State) (k : CohKind) (r : CohReq) : Prop :=
  s.sends (k, r) = true ∧ (s.line r.line).txn = none ∧ (s.line r.line).waiting = [] ∧ (s.line r.line).blocked = .none ∧
    r.line ∉ s.missWait ∧ s.proxyMay r.line k = true ∧ s.queueUsed (homeOf r.line) < 256 ∧
    (∀ e ∈ s.stops, homeOf e.2.line ≠ homeOf r.line) ∧
    (s.readsDram r.line (queuedReq s k r) = true → s.missOk r.line (s.reqDom r) = true) ∧
    ∀ c, s.localCore r.req = some c → (s.core c).busy r.line = false

/-- The same, where an allocating request also finds room in its directory set (R448): it opens at once. -/
def Opens (s : State) (k : CohKind) (r : CohReq) : Prop :=
  Arrives s k r ∧ (k = .rdna ∨ k = .wrl ∨ s.dirVictim r.line = none)

/-- The requester's core, when of this package, waits for its answer; no other core changed. -/
def Asked (s t : State) (k : CohKind) (r : CohReq) : Prop :=
  (∀ c, s.localCore r.req ≠ some c → t.core c = s.core c) ∧
    ∀ c, s.localCore r.req = some c →
      if k = .rdna then t.core c = s.core c
      else t.core c = { s.core c with want := (t.core c).want } ∧
        FMap.find (t.core c).want r.line = some { kind := k, off := r.off, bytes := r.bytes } ∧
        ∀ l, l ≠ r.line → FMap.find (t.core c).want l = FMap.find (s.core c).want l

/-! ### Synry and Loam -/

/-- The Synry command `c` of code `k` is taken by the SMC and passes every check that stands before what it does (R588, R630,
R716 to R722, R742). -/
def Taken (s : State) (k : Nat) (c : SynryReq) : Prop :=
  s.smcRuns = true ∧ s.blockReady k = true ∧ s.permitted k c.iface = true ∧ (cmdLen k).1 ≤ c.params.length ∧
    c.params.length ≤ (cmdLen k).2 ∧ s.setsClosed k c.iface = false ∧ (cmdChange k = true → s.auditFull = false) ∧
    (seedWrite k = true → ∀ w ∈ s.smc.waiting, seedWrite w.1 = false) ∧
    match c.iface with
    | .mailbox d cls n _ => (s.slot (slotKey d cls n)).state ≠ 1 ∧ (s.domain d).valid = true
    | i => (∀ p, FMap.find (s.tagsOf i) c.tag.toNat = some p → p.pend = false) ∧ pendingTags (s.tagsOf i) < 16

/-- `t` is `s` but for what the SMC's answer to `c` writes: the tags of the management port and of VC3, mailbox slots, packets
sent, and interrupt source 0x001 of the domain of a mailbox (R716, R719, R721). -/
def SmcSaid (s t : State) (c : SynryReq) : Prop :=
  t = { s with
    smc := { s.smc with mgmt := t.smc.mgmt, vc3 := t.smc.vc3, slots := t.smc.slots }
    fabric := { s.fabric with out := t.fabric.out, held := t.fabric.held, seqOut := t.fabric.seqOut }
    domains := t.domains } ∧
  match c.iface with
  | .mgmt => t.fabric = s.fabric ∧ t.domains = s.domains ∧ t.smc.vc3 = s.smc.vc3 ∧ t.smc.slots = s.smc.slots
  | .vc3 _ => t.domains = s.domains ∧ t.smc.mgmt = s.smc.mgmt ∧ t.smc.slots = s.smc.slots
  | .mailbox d _ _ _ => t.fabric = s.fabric ∧ t.smc.mgmt = s.smc.mgmt ∧ t.smc.vc3 = s.smc.vc3 ∧
      ∀ e, e ≠ d → t.domain e = s.domain e

/-- The answer to `c` of code `k` in `t`: kept for its TAG with `pend` saying that the command still runs, and in a mailbox slot
once it is final (Tables 17-6 and 17-10). -/
def Said (t : State) (k : Nat) (c : SynryReq) (pend : Bool) (status : Nat) (results : List Byte) : Prop :=
  match c.iface with
  | .mgmt => FMap.find t.smc.mgmt c.tag.toNat = some { pend := pend, code := k, status := status, results := results }
  | .vc3 n =>
    FMap.find (FMap.get t.smc.vc3 n []) c.tag.toNat = some { pend := pend, code := k, status := status, results := results }
  | .mailbox d cls n _ =>
    let m := t.slot (slotKey d cls n)
    m.tag = c.tag ∧
      if pend then m.state = 1
      else m.state = 2 ∧ m.status = status ∧ (m.ien = true → ((t.domain d).src 0x001).pend = true) ∧
        ∀ i, Mem.byte m.rsp i = (responseFrame c.tag status k results).getD i 0

/-- The command `i`, which is `c` of code `k`, ends with a status and results; `P` says what it did before its answer. A change
also appends its audit record (R588). -/
def Does (s : State) (i : Instr) (k : Nat) (c : SynryReq) (status : Nat) (results : List Byte) (P : State → Prop) : Prop :=
  ∃ t r, exec i s = .next t ∧ P r ∧
    SmcSaid (if cmdChange k && r.seed.recovered && !r.auditFull then r.audit c.iface.audit k 0 0 status 0 c.params else r) t c ∧
    Said t k c false status results

/-- The command is accepted and runs on, its TAG pending; `P` says what it did so far (R718). -/
def Runs (s : State) (i : Instr) (k : Nat) (c : SynryReq) (P : State → Prop) : Prop :=
  ∃ t r, exec i s = .next t ∧ P r ∧ SmcSaid r t c ∧ Said t k c true St.pending []

/-- `t` is `s` but for Loam. -/
def LoamOnly (s t : State) : Prop := t = { s with loam := t.loam }

/-- `t` is `s` with Loam stack `n` replaced by `x`. -/
def StackSet (s t : State) (n : Nat) (x : Stack) : Prop :=
  t = { s with loam := { s.loam with stackMap := t.loam.stackMap } } ∧ t.stack n = x ∧ ∀ k, k ≠ n → t.stack k = s.stack k

/-- `t` is `s` with Loam stack `n` replaced by `x`, and with what the requesters of the codewords it sent have received: lines in
caches, with what they replace, and bytes of TSBs. -/
def LoamServed (s t : State) (n : Nat) (x : Stack) : Prop :=
  t = { s with loam := { s.loam with stackMap := t.loam.stackMap }, cores := t.cores, lines := t.lines, msgs := t.msgs,
               l3 := t.l3, dirUse := t.dirUse } ∧
    t.stack n = x ∧ ∀ k, k ≠ n → t.stack k = s.stack k

/-- Block slot `k` of stack `y`, as stack `x` has it, is `b`; every other slot is as it was. -/
def BlockSet (x y : Stack) (k : Nat) (b : Block) : Prop :=
  y.block k = b ∧ ∀ j, j ≠ k → y.block j = x.block j

/-- Volume `v` of `t` is `x`, and every other as in `s`. -/
def VolumeSet (s t : State) (v : Nat) (x : Volume) : Prop :=
  t.volume v = x ∧ ∀ u, u ≠ v → t.volume u = s.volume u

/-! ### Seedbank -/

/-- `t` is `s` but for Seedbank. -/
def SeedOnly (s t : State) : Prop := t = { s with seed := t.seed }

/-- Seedbank `b` is `a` but for its commit buffers, Ferric and DONE, which a write or a commit moves on. -/
def BuffersOnly (a b : Seedbank) : Prop :=
  b = { a with openBuf := b.openBuf, commit := b.commit, done := b.done, ferric := b.ferric }

/-- No command waits for a commit or for room in a buffer. -/
def NoWaiters (s : State) : Prop := s.seed.waiters = [] ∧ s.smc.waiting = []

/-- A thread of domain `d` reaches its own Seedbank window, once Seedbank is recovered (R577, R591). -/
def AtWindow (s : State) (g d : Nat) : Prop :=
  s.domOf g = some d ∧ (s.thread g).run = .running ∧ g < 256 ∧ s.seed.recovered = true ∧ s.fenceWait g = none

/-- The pages of the record of a partition's passwords can take a write now and read well. -/
def PasswordRoom (b : Seedbank) (p : Nat) : Prop :=
  b.room (pwPage p) = true ∧ b.room (pwPage p + 1) = true ∧ pwPage p ∉ b.bad ∧ pwPage p + 1 ∉ b.bad

/-- Every page, as a read returns it, has its 64 bytes. -/
def FullPages (b : Seedbank) : Prop := ∀ i, (b.readPage i).length = 64

/-! ### Change sets -/

/-- `t` is `s` but for the change sets and their numbering; every set whose number is not `n` is as it was. -/
def SetsOnly (s t : State) (n : Nat) : Prop :=
  t = { s with smc := { s.smc with sets := t.smc.sets, nextSet := t.smc.nextSet } } ∧
    t.smc.sets.filter (fun y => y.number != n) = s.smc.sets.filter (fun y => y.number != n)

/-- Thread `g` as a release starts it (Table 18-7, Table 15-8): at `ip` with `ws` in w0 and on, every other register at reset;
the grants in its mailbox stay. -/
def Started (s : State) (g ip : Nat) (ws : List Nat) (u : Thread) : Prop :=
  u = { Thread.reset g with run := .running, ip := BitVec.ofNat 48 ip, gmail := (s.thread g).gmail, cur := u.cur } ∧
    ∀ i, i < 32 → u.reg i = BitVec.ofNat 64 (ws.getD i 0)

/-- Two domains hold the same resources (Table 15-1). -/
def SameHoldings (x y : Domain) : Prop :=
  x.valid = y.valid ∧ x.tiles = y.tiles ∧ x.windows = y.windows ∧ x.ways = y.ways ∧ x.rsv = y.rsv ∧ x.cap = y.cap ∧
    x.specguard = y.specguard ∧ x.ports = y.ports ∧ x.power = y.power

/-- The code and the index of an item's row. -/
def itemOf (i : Instr) : Option (Nat × Nat) :=
  match i with
  | .dcreate k => some (It.dcreate, k)
  | .ddestroy k => some (It.ddestroy, k)
  | .tmove k => some (It.tmove, k)
  | .winadd k => some (It.winadd, k)
  | .windel k => some (It.windel, k)
  | .wayset k => some (It.wayset, k)
  | .shareset k => some (It.shareset, k)
  | .guardset k => some (It.guardset, k)
  | .rootadd k => some (It.rootadd, k)
  | .rootdel k => some (It.rootdel, k)
  | .portadd k => some (It.portadd, k)
  | .portdel k => some (It.portdel, k)
  | .powerset k => some (It.powerset, k)
  | .routeset k => some (It.routeset, k)
  | .divset k => some (It.divset, k)
  | .resetcfg k => some (It.resetcfg, k)
  | .fepset k => some (It.fepset, k)
  | .fepdel k => some (It.fepdel, k)
  | .fqset k => some (It.fqset, k)
  | .fqdel k => some (It.fqdel, k)
  | .fgrpset k => some (It.fgrpset, k)
  | .fgrpdel k => some (It.fgrpdel, k)
  | _ => none

/-- The set being applied is `x`, alone, in its removal pass. -/
def InRemoval (s : State) (x : ChangeSet) : Prop :=
  s.applying = some x ∧ x.st = .removal ∧ ∀ y ∈ s.smc.sets, (y.st = .removal ∨ y.st = .addition) → y = x

/-- The set `x` may take its addition edge (R614, R616, R755): no addition part of it has begun, every removal part is done, and
the fill has passed its new windows. -/
def MayAdd (s : State) (x : ChangeSet) : Prop :=
  InRemoval s x ∧ s.removalDone = true ∧ (s.domain 64).valid = false ∧
    (∀ i ∈ x.items, (i.phase = 0 ∨ i.phase = 4) ∧ (i.added = true → i.status = St.ok ∧ itemClass i.code = 1) ∧
      (i.code = It.dcreate → leAt i.params 0 1 < 64)) ∧
    ∀ i ∈ x.items, i.code = It.winadd → s.fillPassed i.window.base i.window.limit = true

/-! ### Fabric -/

/-- `t` is `s` but for the fabric agent. -/
def FabricOnly (s t : State) : Prop := t = { s with fabric := t.fabric }

/-- What a flood of VC3 control traffic sends: one packet on every live Meadow link; a HELLO also on a fenced one (R654, R659). -/
def floodOf (s : State) (kind : Nat) (data : List Nat) : List (Nat × Packet) :=
  ((List.range 8).filter (fun o => (s.fport o).up && (s.fport o).mode == 1 && (!(s.fport o).fenced || kind == 0))).map (fun o =>
    (o, { src := s.fabric.node, dst := 0xFFFF, vc := 3, epoch := false, seq := 0, crossed := false, srcDom := 0,
          body := .control kind data }))

/-- `p` is for this node, next in the order of its source and VC, and no packet waits at this node (R661, R667). -/
def NextInOrder (s : State) (p : Packet) : Prop :=
  s.fabric.state = 2 ∧ p.dst = s.fabric.node ∧ p.seq = FMap.get s.fabric.seqIn (p.src * 4 + p.vc) 0 ∧
    s.fabric.inbuf = [] ∧ ∀ q ∈ s.fabric.parked, q.src * 4 + q.vc ≠ p.src * 4 + p.vc

/-- The same, where the lines of DRAM that it writes, and the entries toward memory for those it reads, can be had (R264, R462).
-/
def InTurn (s : State) (p : Packet) : Prop := NextInOrder s p ∧ s.packetReady p = true

/-- Nothing is open for the lines of the `n` bytes of DRAM from `a`, and L2s of this package that answer at once hold them, or
none does. -/
def LinesFree (s : State) (a n : Nat) : Prop :=
  ∀ l, a / 64 ≤ l → l * 64 < a + n → s.lineIdle l = true ∧ s.holdersHere l = true ∧ s.proxyMay l .rdx = true

/-- The homes of the lines of the `n` bytes of DRAM from `a` answer a non-allocating read for domain `d` at once (R264, R462). -/
def ReadsFree (s : State) (d a n : Nat) : Prop :=
  ∀ l, a / 64 ≤ l → l * 64 < a + n → s.lineIdle l = true ∧ s.proxyMay l .rdna = true ∧
    ((s.line l).inL3 = true ∨ (∃ o, (s.line l).dir = .owned o) ∨ s.missOk l d = true)

/-- `t` is `s` after an agent wrote the `n` bytes of DRAM from `a` (R462): no L2 keeps a copy of their lines, and beside DRAM only
caches and homes of lines changed. -/
def Overwritten (s t : State) (a n : Nat) : Prop :=
  t = { s with dram := t.dram, cores := t.cores, lines := t.lines, l3 := t.l3, dirUse := t.dirUse } ∧
    ∀ c, t.core c = { s.core c with
        l1i := (t.core c).l1i, l1d := (t.core c).l1d, l2 := (t.core c).l2, l2use := (t.core c).l2use } ∧
      ∀ l, a / 64 ≤ l → l * 64 < a + n → s.reqNo c ∈ (s.line l).dir.holders → FMap.find (t.core c).l2 l = none

/-- `s` with the sequence number of `p` taken. -/
def Turn (s : State) (p : Packet) : State :=
  { s with fabric := { s.fabric with seqIn := FMap.put s.fabric.seqIn (p.src * 4 + p.vc) (p.seq + 1) } }

/-- `t` is `s` after one packet is sent: with the node, the inject epoch and the next sequence number of its pair, out of a port
or held for one (R660, R661, R667). -/
def Sends (s t : State) (dst vc dom : Nat) (body : PacketBody) : Prop :=
  let q := FMap.get s.fabric.seqOut (dst * 4 + vc) 0
  ∃ p : Packet, p.src = s.fabric.node ∧ p.dst = dst ∧ p.vc = vc ∧ p.epoch = s.fabric.epoch ∧ p.seq = q ∧ p.srcDom = dom ∧
    p.body = body ∧
    t = { s with fabric := { s.fabric with
      seqOut := FMap.put s.fabric.seqOut (dst * 4 + vc) (q + 1), out := t.fabric.out, held := t.fabric.held } } ∧
    ((t.fabric.held = s.fabric.held ∧ ∃ o, t.fabric.out = s.fabric.out ++ [(o, p)]) ∨
      (t.fabric.out = s.fabric.out ∧ t.fabric.held = s.fabric.held ++ [p]))

/-- The one operation of a thread's kind that a packet names, and `s` without it. -/
def Named (s : State) (o : FabOp) (th tag kind : Nat) : Prop :=
  s.opOf th tag kind = some o ∧ ∀ x ∈ s.fabric.ops, x.tag = tag → x = o

/-- The operations in flight but those of a tag. -/
def opsBut (s : State) (tag : Nat) : List FabOp := s.fabric.ops.filter (fun o => o.tag != tag)

/-- `t` has counter `m` of core `c` of `s` plus one when `en` says so, and every other core and counter as `s` (R425). -/
def CountedIn (s t : State) (c m : Nat) (en : Bool) : Prop :=
  (∀ k, k ≠ c → t.core k = s.core k) ∧ (en = false → t.core c = s.core c) ∧
    (en = true → t.core c = { s.core c with scnt := (t.core c).scnt } ∧ Counted1 (s.core c) (t.core c) m false)

/-- A failed request of thread `g` (R674, R683): FERR, and source 0x2F0 of its domain. -/
def Failed (t : State) (g code : Nat) (d : Nat) : Prop :=
  t.fabric.ferrCode = code ∧ t.fabric.ferrThr = g ∧ ((t.domain d).valid = true → ((t.domain d).src 0x2F0).pend = true)

/-! ### Time -/

/-- Nothing waits for time but, in the threads of `p`, a store that holds: no schedule of Fixed-time mode, no joining entry at the
head of a Tile Queue, no counter of cycles, no packet parked and no collective under way. -/
def Quiet (s : State) (p : Nat → Bool) : Prop :=
  s.fabric.parked = [] ∧ s.fabric.inbuf = [] ∧ s.fabric.colls = [] ∧
    ∀ x ∈ s.threads, (p x.1 = false → x.2.stq = none) ∧ x.2.tile.timed = [] ∧ x.2.countsCycles = false ∧
      ∀ e t, x.2.tile.queue.head? = some e → e.op = .tile t → t.joins = false

/-! ### Clocks, frames, start-up -/

/-- `t` is `s` but for the clock state of tiles. -/
def ClkOnly (s t : State) : Prop := t = { s with smc := { s.smc with clk := t.smc.clk } }

/-- The duty and divider steps of every tile of `l` are as `f` leaves them, and those of every other tile as they were. -/
def Stepped (s t : State) (l : List Nat) (f : TileClk → TileClk) : Prop :=
  ∀ k, (t.clk k).dutyPwr = (if k ∈ l then f (s.clk k) else s.clk k).dutyPwr ∧
    (t.clk k).divPwr = (if k ∈ l then f (s.clk k) else s.clk k).divPwr ∧
    (t.clk k).dutyTh = (if k ∈ l then f (s.clk k) else s.clk k).dutyTh ∧
    (t.clk k).divTh = (if k ∈ l then f (s.clk k) else s.clk k).divTh

/-- Tile `k` runs at /12 or at the next divider boundary will. -/
def Slowed (t : State) (k : Nat) : Prop := (t.clk k).eff = 3 ∨ (t.clk k).target = some 3

/-- Is `i` the row of the Synry command `c` of code `k` (Table 17-7)? -/
def IsCommand (k : Nat) (c : SynryReq) (i : Instr) : Prop :=
  (k, i) ∈
    [(0x001, Instr.ident c), (0x002, Instr.status c), (0x003, Instr.time c), (0x004, Instr.sense c),
     (0x005, Instr.powerread c), (0x006, Instr.clkread c), (0x101, Instr.pkglimit c), (0x102, Instr.threstart c),
     (0x103, Instr.vrread c), (0x201, Instr.lopen c), (0x202, Instr.lstage c), (0x203, Instr.lzero c),
     (0x204, Instr.lcommit c), (0x205, Instr.labort c), (0x206, Instr.lvcreate c), (0x207, Instr.lvresize c),
     (0x208, Instr.lvdelete c), (0x209, Instr.lparam c), (0x20A, Instr.lhealth c), (0x301, Instr.sbread c),
     (0x302, Instr.sbwrite c), (0x303, Instr.sbcommit c), (0x304, Instr.sbunlock c), (0x305, Instr.sbsetpw c),
     (0x306, Instr.sbclose c), (0x307, Instr.sbaudit c), (0x308, Instr.sblog c), (0x309, Instr.sbauditclr c),
     (0x30A, Instr.sbcount c), (0x30B, Instr.sbhealth c), (0x401, Instr.csbegin c), (0x402, Instr.csitem c),
     (0x403, Instr.csend c), (0x404, Instr.csabort c), (0x405, Instr.csstatus c), (0x406, Instr.drelease c),
     (0x407, Instr.dstart c), (0x408, Instr.ovclear c), (0x501, Instr.frescan c)]

/-- The request that a frame carries on an interface (Table 17-6). -/
def requestOf (iface : Iface) (frame : List Byte) : SynryReq :=
  { iface := iface, tag := frame.headD 0, flags := (frame.drop 1).headD 0, params := (frame.drop 8).take (leAt frame 4 2) }

/-- Every block but the SMC is as a reset leaves it: threads, cores, homes, domains, fabric, ports and DRAM interface at reset,
DRAM's bytes and the cells of Ferric and of the Page region kept (R736, Table 18-1). -/
def Stopped (s t : State) : Prop :=
  t.threads = [] ∧ t.cores = [] ∧ t.lines = [] ∧ t.msgs = [] ∧ t.stops = [] ∧ t.l3 = [] ∧ t.dirUse = [] ∧ t.misses = [] ∧
    t.domains = [] ∧ t.tileDom = [] ∧ t.ports = [] ∧ (∀ n, (t.stack n).ready = false ∧ (t.stack n).temp = 0) ∧
    t.fabric = Fabric.reset ∧ t.ddr = Ddr.reset ∧ t.dram = s.dram ∧ t.seed.recovered = false ∧ t.seed.openBuf.images = [] ∧
    t.seed.commit = none ∧ t.seed.parts = [] ∧ t.smc.sets = [] ∧ t.smc.waiting = []

/-- Start-up stands at step `k`: the SMC runs, no failure, REFCLK and both resets good (R741, R742). -/
def AtStep (s : State) (k : Nat) : Prop :=
  s.smcRuns = true ∧ s.smc.step = k ∧ s.smc.fail = 0 ∧ s.smc.refLost = false ∧ s.pins.pwrgood = true ∧ s.pins.resetN = true

/-- ALERT_N is low while a regulator fault, a start-up failure, a lost REFCLK or a low rail stands (R715, R741, R802, R812). -/
def AlertShown (t : State) : Prop :=
  t.pins.alertN = false ↔ t.smc.vrFault ≠ [] ∨ t.smc.fail ≠ 0 ∨ t.smc.refLost = true ∨ t.smc.railBad ≠ []

/-- `t` holds the image `img`, merged with the overlay of Seedbank unless the image has NOOVL or a section of the overlay fails
its checks; start-up goes on when the mandatory sections are there, and else halts with reason 0x02 (R743, R749, R751). -/
def Configured (s t : State) (img : List Byte) (cs1 : Bool) : Prop :=
  t.smc.image = img ∧ t.smc.fromCs1 = cs1 ∧ t.smc.imgGen = leAt img 16 4 ∧ t.pins.spiOwned = false ∧
    t.smc.mgmtAddr = (match t.sect Ty.strapovr with | some b => leAt b 0 1 % 128 | none => 0x4E) ∧
    ((bitOf (leAt img 6 2) 1 = true ∨ s.seed.overlay = none) →
      ∀ ty, t.sect ty = FMap.find (sectMap img) ty) ∧
    (∀ a b ov, s.seed.overlay = some (a, b, ov) → bitOf (leAt img 6 2) 1 = false → ∀ ty,
      t.sect ty = if (overlayFault ov).isNone then (FMap.find (sectMap ov) ty).or (FMap.find (sectMap img) ty)
        else FMap.find (sectMap img) ty) ∧
    let whole : Prop := ∀ ty ∈ [Ty.clocks, Ty.power, Ty.ddr, Ty.domains], (t.sect ty).isSome = true
    (whole → t.smc.step = 5 ∧ t.smc.fail = s.smc.fail) ∧ (¬whole → t.smc.step = 4 ∧ t.smc.fail = 0x02 ∧ t.pins.alertN = false)

/-- `t` is `s` with start-up halted for reason `code` and ALERT_N low; DRAM, threads and domains are as they were (R741). -/
def HaltedBy (s t : State) (code : Nat) : Prop :=
  t.smc.fail = code ∧ t.pins.alertN = false ∧ t.dram = s.dram ∧ t.threads = s.threads ∧ t.domains = s.domains

/-- A thread may access CFGDATA of a root port of its domain (R821). -/
def AtConfig (s : State) (a : CfgAccess) : Prop :=
  a.thread < 256 ∧ (s.thread a.thread).run = .running ∧ s.fenceWait a.thread = none ∧
    ∃ d, s.domOf a.thread = some d ∧ a.port < 16 ∧ (s.domain d).ports.getLsbD a.port = true ∧ (s.port a.port).exists_ = true

end Sys2Proof.Safety
end

