-- ==== Sys2Proof/Certificates/Slice0/Obligations.lean ====
section
/-!
DEFINITION. The statements for the provers.
-/

open Sys2Proof Sys2Proof.Machine Sys2Proof.Safety

/-! ### Integer arithmetic -/

/-- ADD, ADC, SUB, SBC and their immediate forms: the exact sum or difference narrowed to the operand width, and the four
flags under SF (R59, R113, R114, Table 3-2). -/
def Obligations.AddAndSubtractResults : Prop :=
  ∀ (x : Insn) (s : State),
    let v := s.thread x.thread
    let w := x.width
    let c := natOf (v.fl.getLsbD 1)
    let add (i : Instr) (o : Op) (d : Nat) (p q cin : Nat) : Prop :=
      GivesInt s i o x d ((p % 2 ^ w + q % 2 ^ w + cin) % 2 ^ w) (2 ^ w ≤ p % 2 ^ w + q % 2 ^ w + cin)
        (SignedOut w ((BitVec.ofNat w p).toInt + (BitVec.ofNat w q).toInt + cin))
    let sub (i : Instr) (o : Op) (d : Nat) (p q cin : Nat) : Prop :=
      GivesInt s i o x d (((p : Int) - q - cin) % 2 ^ w).toNat (p % 2 ^ w < q % 2 ^ w + cin)
        (SignedOut w ((BitVec.ofNat w p).toInt - (BitVec.ofNat w q).toInt - cin))
    let a := (v.reg x.ra).toNat
    let b := (v.reg x.rb).toNat
    let e := (v.reg x.rs2).toNat
    let k := x.immRI.toNat
    (Issues s (opR3 true true validR3) x →
      add (.add x) (opR3 true true validR3) x.rd a b 0 ∧ add (.adc x) (opR3 true true validR3) x.rd a b c ∧
      sub (.sub x) (opR3 true true validR3) x.rd a b 0 ∧ sub (.sbc x) (opR3 true true validR3) x.rd a b c) ∧
    (Issues s opRI x →
      add (.addi x) opRI x.rd2 e k 0 ∧ add (.adci x) opRI x.rd2 e k c ∧
      sub (.subi x) opRI x.rd2 e k 0 ∧ sub (.sbci x) opRI x.rd2 e k c)

/-- AND, OR, XOR, ANDN and their immediate forms: bit by bit at the operand width, with C and V 0 (R112, R113).
SHL, SHR, SAR and their immediate forms shift by the second operand modulo the width; C is the last bit shifted out, 0 for
a count of 0, and V is 0 (R113, R114). -/
def Obligations.LogicAndShiftResults : Prop :=
  (∀ (x : Insn) (s : State),
     let v := s.thread x.thread
     let w := x.width
     let op (i : Instr) (o : Op) (d : Nat) (r : BitVec w) : Prop := GivesInt s i o x d r.toNat False False
     let a : BitVec w := BitVec.ofNat w (v.reg x.ra).toNat
     let b : BitVec w := BitVec.ofNat w (v.reg x.rb).toNat
     let e : BitVec w := BitVec.ofNat w (v.reg x.rs2).toNat
     let k : BitVec w := BitVec.ofNat w x.immRI.toNat
     (Issues s (opR3 true true validR3) x →
       op (.and x) (opR3 true true validR3) x.rd (a &&& b) ∧ op (.or x) (opR3 true true validR3) x.rd (a ||| b) ∧
       op (.xor x) (opR3 true true validR3) x.rd (a ^^^ b) ∧ op (.andn x) (opR3 true true validR3) x.rd (a &&& ~~~b)) ∧
     (Issues s opRI x →
       op (.andi x) opRI x.rd2 (e &&& k) ∧ op (.ori x) opRI x.rd2 (e ||| k) ∧ op (.xori x) opRI x.rd2 (e ^^^ k) ∧
       op (.andni x) opRI x.rd2 (e &&& ~~~k))) ∧
  ∀ (x : Insn) (s : State),
    let v := s.thread x.thread
    let w := x.width
    let op (i : Instr) (o : Op) (d : Nat) (a : BitVec w) (n : Nat) (r : BitVec w) (last : Nat) : Prop :=
      GivesInt s i o x d r.toNat (n ≠ 0 ∧ a.getLsbD last = true) False
    let a : BitVec w := BitVec.ofNat w (v.reg x.ra).toNat
    let n := (v.reg x.rb).toNat % w
    let e : BitVec w := BitVec.ofNat w (v.reg x.rs2).toNat
    let k := x.immRI.toNat % w
    (Issues s (opR3 true true validR3) x →
      op (.shl x) (opR3 true true validR3) x.rd a n (a <<< n) (w - n) ∧
      op (.shr x) (opR3 true true validR3) x.rd a n (a >>> n) (n - 1) ∧
      op (.sar x) (opR3 true true validR3) x.rd a n (a.sshiftRight n) (n - 1)) ∧
    (Issues s opRI x →
      op (.shli x) opRI x.rd2 e k (e <<< k) (w - k) ∧ op (.shri x) opRI x.rd2 e k (e >>> k) (k - 1) ∧
      op (.sari x) opRI x.rd2 e k (e.sshiftRight k) (k - 1))

/-- MUL keeps the low bits of the product, with C and V saying whether the unsigned and the signed product fit; MULH, MULHU and
MULW return the halves of the 128-bit product (R113, R130).
DIV, DIVU, REM and REMU with a divisor that is not zero and no interrupt to take: the quotient truncated toward zero, and
the remainder with the sign of the dividend (R131, R133). A zero divisor raises fault 0x0D with subcode 0x01 and changes
nothing else. -/
def Obligations.MultiplyAndDivideResults : Prop :=
  (∀ (x : Insn) (s : State),
     let v := s.thread x.thread
     let w := x.width
     let a := v.reg x.ra
     let b := v.reg x.rb
     let p : BitVec w := BitVec.ofNat w a.toNat
     let q : BitVec w := BitVec.ofNat w b.toNat
     (Issues s (opR3 true true validR3) x →
       GivesInt s (.mul x) (opR3 true true validR3) x x.rd (p * q).toNat (2 ^ w ≤ p.toNat * q.toNat)
         (SignedOut w (p.toInt * q.toInt))) ∧
     (Issues s (opR3 false false validR3) x →
       Gives s (.mulh x) (opR3 false false validR3) x (v.setReg x.rd (BitVec.ofInt 64 (a.toInt * b.toInt / 2 ^ 64))) ∧
       Gives s (.mulhu x) (opR3 false false validR3) x (v.setReg x.rd (BitVec.ofNat 64 (a.toNat * b.toNat / 2 ^ 64))) ∧
       Gives s (.mulw x) (opR3 false false validR3) x (v.setReg x.rd (a * b)))) ∧
  ∀ (x : Insn) (s : State),
    let v := s.thread x.thread
    let w := x.width
    let o := opR3 true false validR3
    let a : BitVec w := BitVec.ofNat w (v.reg x.ra).toNat
    let b : BitVec w := BitVec.ofNat w (v.reg x.rb).toNat
    let dest (r : BitVec w) : Thread := v.setReg x.rd (BitVec.ofNat 64 r.toNat)
    Issues s o x →
      (b ≠ 0 → s.nextIrq x.thread = none → (fetchedFor s o x).nextIrq x.thread = none →
        Gives s (.div x) o x (dest (a.sdiv b)) ∧ Gives s (.divu x) o x (dest (a / b)) ∧
        Gives s (.rem x) o x (dest (a.srem b)) ∧ Gives s (.remu x) o x (dest (a % b))) ∧
      (b = 0 → ∀ i ∈ [Instr.div x, .divu x, .rem x, .remu x], Raises s s i x.thread (Flt.mk' 0x0D 0x01 0))

/-- BFX, BFXS, BFI, CLZ, CTZ and PERM (R120 to R123), narrowed to the operand width. -/
def Obligations.BitFieldResults : Prop :=
  ∀ (x : Insn) (s : State),
    let v := s.thread x.thread
    let w := x.width
    let a := v.reg x.ra
    let b := v.reg x.rb
    let dest (r : Nat) : Thread := v.setReg x.rd (BitVec.ofNat 64 (r % 2 ^ w))
    (Issues s (opR3 true false validField) x →
      Gives s (.bfx x) (opR3 true false validField) x (dest (a.extractLsb' x.rb (x.fn + 1)).toNat) ∧
      Gives s (.bfxs x) (opR3 true false validField) x (dest ((a.extractLsb' x.rb (x.fn + 1)).signExtend 64).toNat) ∧
      ∃ r : Word, Gives s (.bfi x) (opR3 true false validField) x (dest r.toNat) ∧
        ∀ i, i < 64 → r.getLsbD i =
          if x.rb ≤ i ∧ i < x.rb + (x.fn + 1) then a.getLsbD (i - x.rb) else (v.reg x.rd).getLsbD i) ∧
    (Issues s (opR3 true false (fun x => isInt x.rd && isInt x.ra && x.rb == 0 && x.fn == 0)) x →
      ∃ l r,
        Gives s (.clz x) (opR3 true false (fun x => isInt x.rd && isInt x.ra && x.rb == 0 && x.fn == 0)) x
          (v.setReg x.rd (BitVec.ofNat 64 l)) ∧
        Gives s (.ctz x) (opR3 true false (fun x => isInt x.rd && isInt x.ra && x.rb == 0 && x.fn == 0)) x
          (v.setReg x.rd (BitVec.ofNat 64 r)) ∧
        (if a.toNat % 2 ^ w = 0 then l = w ∧ r = w
         else l < w ∧ r < w ∧ a.getLsbD (w - 1 - l) = true ∧ a.getLsbD r = true ∧
           ∀ i, i < w → (w - 1 - l < i ∨ i < r → a.getLsbD i = false))) ∧
    (Issues s (opR3 true false validR3) x →
      ∃ r : Word, Gives s (.perm x) (opR3 true false validR3) x (dest r.toNat) ∧
        ∀ i, i < 8 →
          let sel := (b.extractLsb' (4 * i) 4).toNat
          let byte : Byte := if sel % 8 * 8 < w then a.extractLsb' (8 * (sel % 8)) 8 else 0
          r.extractLsb' (8 * i) 8 = if sel < 8 then byte else if byte.getLsbD 7 then 0xFF else 0)

/-! ### Flags, branches and windows -/

/-- NOP, SETcc, RDFL, WRFL, RDFCSR and WRFCSR (R115 to R117, R140, Tables 3-3 and 3-9). -/
def Obligations.FlagMovesAndSetcc : Prop :=
  ∀ (x : Insn) (s : State),
    let v := s.thread x.thread
    let n := v.fl.getLsbD 3
    let z := v.fl.getLsbD 2
    let c := v.fl.getLsbD 1
    let o := v.fl.getLsbD 0
    let setOp := opR2 0 (fun x => isInt x.rd2 && x.rs2 == 0)
    let rdOp := opR2 1 (fun x => isInt x.rd2 && x.rs2 == 0)
    let wrOp := opR2 2 (fun x => x.rd2 == 0 && isInt x.rs2)
    let rdf := Op.plain true .r3 (fun x => isInt x.rd && x.ra == 0 && x.rb == 0 && x.fn == 0)
    let wrf := Op.plain true .r3 (fun x => x.rd == 0 && isInt x.ra && x.rb == 0 && x.fn == 0)
    let holds : List Bool :=
      [true, false, z, !z, !c, c, !c && !z, c || z, n == o, n != o, !z && n == o, z || n != o, n, !n, o, !o]
    (∀ op2 : Byte, Issues s (opNop 0x01 op2) x → Gives s (.nop ⟨x, 0x01, op2⟩) (opNop 0x01 op2) x v) ∧
    (Issues s setOp x → ∀ cond : BitVec 4,
      Gives s (.setcc x cond) setOp x (v.setReg x.rd2 (if holds[cond.toNat]?.getD false then 1 else 0))) ∧
    (Issues s rdOp x → Gives s (.rdfl x) rdOp x (v.setReg x.rd2 (v.fl.zeroExtend 64))) ∧
    (Issues s wrOp x → Gives s (.wrfl x) wrOp x { v with fl := (v.reg x.rs2).extractLsb' 0 4 }) ∧
    (Issues s rdf x → Gives s (.rdfcsr x) rdf x (v.setReg x.rd (v.fcsr.zeroExtend 64))) ∧
    (Issues s wrf x → Gives s (.wrfcsr x) wrf x { v with fcsr := (v.reg x.ra).extractLsb' 0 12 })

/-- JMP, Bcc, BZ, BNZ and DBNZ (R65, R75, R115, R118, R119): a taken branch to a canonical target goes there, one not taken
goes to the next instruction, and a taken one to a target that is not canonical raises fault 0x04 with subcode 0x30 with no
other effect. Beside what its fetch leaves only IP changes, but for the register of DBNZ, the record of a misprediction, which is
counted (R277), and the predictors of the core. -/
def Obligations.BranchOutcomes : Prop :=
  ∀ (x : Insn) (s : State),
    let g := x.thread
    let v := s.thread g
    let r := v.reg (bSpec x)
    let branch (i : Instr) (o : Op) (taken : Prop) (u : Thread) : Prop :=
      let a := if ds x = 0 then r else s.after o x + x.disp .b
      let f := (fetchedFor s o x).trainPredictor g
      Issues s o x →
        (taken → a.toNat < 2 ^ 48 → ∃ t, exec i s = .next t ∧ RetiresIn s f t g a { u with misp := false }) ∧
        (taken → 2 ^ 48 ≤ a.toNat → Raises s s i g (Flt.mk' 0x04 0x30 a)) ∧
        (¬taken → ∃ t, exec i s = .next t ∧ RetiresIn s f t g (s.after o x) { u with misp := false })
    branch (.jmp x) opJump True v ∧
    (∀ cond : BitVec 4, branch (.bcc x cond) (opBranch (fun x => bSpec x == 0)) (condTrue cond v.fl = true) v) ∧
    branch (.bz x) (opBranch (fun x => isInt (bSpec x))) (r = 0) v ∧
    branch (.bnz x) (opBranch (fun x => isInt (bSpec x))) (r ≠ 0) v ∧
    branch (.dbnz x) (opBranch (fun x => isInt (bSpec x) && bSpec x != 32)) (r - 1 ≠ 0) (v.setReg (bSpec x) (r - 1))

/-- CALL to a canonical target with RES at 6 or less slides the window: w24–w31 become w0–w7, w7 takes the return address and
w8–w31 are zero, the caller's w0–w23 stay resident. RET with a resident caller slides back: w0–w23 are the caller's,
w24–w31 the returning window's w0–w7, and control goes to w7 (R77, R78, R82). -/
def Obligations.CallAndReturnSlideTheWindow : Prop :=
  ∀ (x : Insn) (s : State),
    let g := x.thread
    let v := s.thread g
    let a := if ds x = 0 then v.reg (bSpec x) else s.after opJump x + x.disp .b
    let retOp := Op.plain false .n (fun _ => true)
    (Issues s opJump x → a.toNat < 2 ^ 48 → v.res ≤ 6 →
      ∃ t u w, exec (.call x) s = .next t ∧ RetiresIn s ((fetchedFor s opJump x).trainPredictor g) t g a u ∧
        u = { v with cur := u.cur, older := w :: v.older, ras := u.ras, misp := false } ∧ u.reg 7 = s.after opJump x ∧
        (∀ i, i < 7 → u.reg i = v.reg (24 + i)) ∧ (∀ i, 8 ≤ i → i < 32 → u.reg i = 0) ∧
        ∀ i, i < 24 → FMap.get w i 0 = v.reg i) ∧
    (Issues s retOp x → (v.reg 7).toNat < 2 ^ 48 → ∀ w older, v.older = w :: older →
      ∃ t u, exec (.ret x) s = .next t ∧ RetiresIn s ((fetchedFor s retOp x).trainPredictor g) t g (v.reg 7) u ∧
        u = { v with cur := u.cur, older := older, ras := u.ras, misp := false } ∧
        (∀ i, i < 24 → u.reg i = FMap.get w i 0) ∧ ∀ i, i < 8 → u.reg (24 + i) = v.reg i)

/-- A spill writes w0–w23 of the oldest resident window to WBSP, adds 192 to WBSP and 1 to SPILLED, modulo 2^32 (the model's
choice, log 13), and takes one resident window; a fill is its inverse (R83, R84, R95). WFLUSH with one resident window changes
nothing, and with two spills one (R92). None of them passes a TFENCE or a store that holds (R304, R461). -/
def Obligations.SpillsAndFillsMoveOneWindow : Prop :=
  ∀ (s : State) (g : Nat),
    let v := s.thread g
    let at_ := (v.wbsp + (2 ^ 48 - 192)) % 2 ^ 48
    let o := Op.plain true .n (fun _ => true)
    let spilt (s s' : State) (rs : List ByteRef) (w : FMap Word) (u : Thread) : Prop :=
      Stores s s' rs (windowBytes w) ∧
      u = { v with older := v.older.dropLast, sys := u.sys } ∧ u.wbsp = (v.wbsp + 192) % 2 ^ 48 ∧
      u.spilled = (v.spilled + 1) % 2 ^ 32 ∧ ∀ k, k ≠ 0x400 → k ≠ 0x402 → u.sysGet k = v.sysGet k
    (∀ w rs, v.older.getLast? = some w → v.wbsp + 192 ≤ v.sysNat Sys.wblim →
      s.check g 0 Need.blockSt v.wbsp 192 = .ok rs → v.fenced = false → v.stq = none →
        (v.run = .running → bitOf (v.sysNat Sys.wctl) 0 = true → 6 ≤ v.res →
          ∃ s' u, exec (.backgroundSpill g) s = .next (s'.setThread g u) ∧ spilt s s' rs w u) ∧
        (∀ x : Insn, x.thread = g → v.res = 2 → Issues s o x →
          ∀ rf, (fetchedFor s o x).check g 0 Need.blockSt v.wbsp 192 = .ok rf →
          ∃ t s' u, exec (.wflush x) s = .next t ∧ RetiresIn s s' t g (s.after o x) u ∧ spilt (fetchedFor s o x) s' rf w u)) ∧
    (∀ x : Insn, x.thread = g → v.res = 1 → Issues s o x → Gives s (.wflush x) o x v) ∧
    (∀ rs, v.run = .running → bitOf (v.sysNat Sys.wctl) 0 = true → v.older = [] → 0 < v.spilled → v.fenced = false →
      v.stq = none → s.check g 0 Need.blockLd at_ 192 = .ok rs → hasLoam rs = false → hasPcie rs = false →
      (∀ r ∈ rs, r.tgt ≠ .rom) →
        ∃ s' u w, exec (.backgroundFill g) s = .next (s'.setThread g u) ∧ Loads s s' rs ∧
          u = { v with older := [w], sys := u.sys } ∧ u.wbsp = at_ ∧ u.spilled = v.spilled - 1 ∧
          (∀ i, i < 24 → FMap.get w i 0 = BitVec.ofNat 64 (leNat (((s.refBytes g rs).drop (8 * i)).take 8))) ∧
          ∀ k, k ≠ 0x400 → k ≠ 0x402 → u.sysGet k = v.sysGet k)

/-! ### Floating point -/

/-- FADD, FSUB, FMUL, FDIV, FMIN, FMAX, FSQRT and FMA (R138 to R141): the rounded result of the IEEE operation in the format the
function selects and the sticky flags; an enabled exception raises fault 0x0E with the destination unchanged and the flags
set. -/
def Obligations.FloatResultsAndTraps : Prop :=
  ∀ (x : Insn) (s : State),
    let g := x.thread
    let v := s.thread g
    let k := fmtOf x.fn
    let rm := v.frm
    let a := k.unpack (v.fval k x.ra)
    let b := k.unpack (v.fval k x.rb)
    let o2 := Op.plain false .r3 (validF (fun x => isFp x.rd) (fun x => isFp x.rb))
    let o1 := Op.plain false .r3 (validF (fun x => isFp x.rd) (fun x => x.rb == 0))
    let op (i : Instr) (o : Op) (r : FOut) : Prop :=
      (trapSub r.exc v.fte = none → Gives s i o x ((v.addFlags r.exc).setFreg x.rd (BitVec.ofNat 64 r.val))) ∧
      (∀ sub, trapSub r.exc v.fte = some sub →
        Raises s (s.setThread g (v.addFlags r.exc)) i g (Flt.mk' 0x0E sub 0))
    (Issues s o2 x →
      op (.fadd x) o2 (k.addNum rm a b) ∧ op (.fsub x) o2 (k.addNum rm a b.negate) ∧ op (.fmul x) o2 (k.mulNum rm a b) ∧
      op (.fdiv x) o2 (k.divNum rm a b) ∧ op (.fmin x) o2 (k.minMax false (v.fval k x.ra) (v.fval k x.rb)) ∧
      op (.fmax x) o2 (k.minMax true (v.fval k x.ra) (v.fval k x.rb)) ∧
      op (.fma x) o2 (k.fmaNum rm a b (k.unpack (v.fval k x.rd)))) ∧
    (Issues s o1 x → op (.fsqrt x) o1 (k.sqrtNum rm a))

/-- FCMP and FCMPE write FL as Table 3-8 gives and no register: N and C when less, Z when equal, V when unordered; invalid is
signalled by a signalling NaN, or for FCMPE by any NaN (R142).
The conversions (R139, R143, R820): between the binary formats and from an integer rounded once; to an integer by FCSR.RM,
a NaN giving 0 and a value outside the range the nearest extreme, both with invalid. -/
def Obligations.CompareAndConvertResults : Prop :=
  (∀ (x : Insn) (s : State),
     let g := x.thread
     let v := s.thread g
     let k := fmtOf x.fn
     let a := k.unpack (v.fval k x.ra)
     let b := k.unpack (v.fval k x.rb)
     let o := Op.plain false .r3 (validF (fun x => x.rd == 0) (fun x => isFp x.rb))
     let fl : BitVec 4 := match numCmp a b with
       | none => 1
       | some r => if r < 0 then 10 else if 0 < r then 0 else 4
     let op (i : Instr) (invalid : Bool) : Prop :=
       let u := v.addFlags (natOf invalid)
       ((invalid = false ∨ bitOf v.fte 0 = false) → Gives s i o x { u with fl := fl }) ∧
       (invalid = true → bitOf v.fte 0 = true → Raises s (s.setThread g u) i g (Flt.mk' 0x0E 0x01 0))
     Issues s o x → op (.fcmp x) (a.snan || b.snan) ∧ op (.fcmpe x) (a.isNan || b.isNan)) ∧
  ∀ (x : Insn) (s : State),
    let g := x.thread
    let v := s.thread g
    let k := fmtOf x.fn
    let done (i : Instr) (o : Op) (exc : Nat) (u : Thread → Thread) : Prop :=
      (trapSub exc v.fte = none → Gives s i o x (u (v.addFlags exc))) ∧
      (∀ sub, trapSub exc v.fte = some sub → Raises s (s.setThread g (v.addFlags exc)) i g (Flt.mk' 0x0E sub 0))
    let ff := Op.plain true .r3 (fun x => isFp x.rd && isFp x.ra && x.rb == 0 && x.fn == 0)
    let fi := Op.plain true .r3 (fun x => isInt x.rd && isFp x.ra && x.rb == 0 && decide (x.fn < 2))
    let nf := Op.plain true .r3 (fun x => isFp x.rd && isInt x.ra && x.rb == 0 && decide (x.fn < 2))
    let conv (i : Instr) (src dst : BinFmt) : Prop :=
      let r := dst.convert v.frm (src.unpack (v.fval src x.ra))
      done i ff r.exc (fun t => t.setFreg x.rd (BitVec.ofNat 64 r.val))
    let toInt (i : Instr) (w : Nat) (lo hi : Int) : Prop :=
      let put (n : Int) (t : Thread) : Thread := t.setReg x.rd (BitVec.ofNat 64 (n % 2 ^ w).toNat)
      match k.unpack (v.fval k x.ra) with
      | .nan _ => done i fi 1 (put 0)
      | .inf neg => done i fi 1 (put (if neg then lo else hi))
      | .fin neg m e =>
        let (n, inexact) := roundToInt v.frm neg m e
        if n < lo then done i fi 1 (put lo) else if hi < n then done i fi 1 (put hi)
        else done i fi (if inexact then 16 else 0) (put n)
    let fromInt (i : Instr) (n : Int) : Prop :=
      let r := k.round v.frm (decide (n < 0)) n.natAbs 0 false
      done i nf r.exc (fun t => t.setFreg x.rd (BitVec.ofNat 64 r.val))
    (Issues s ff x → conv (.fcvtB64ToB32 x) binary64 binary32 ∧ conv (.fcvtB32ToB64 x) binary32 binary64) ∧
    (Issues s fi x → toInt (.fcvtToS32 x) 32 (-2 ^ 31) (2 ^ 31 - 1) ∧ toInt (.fcvtToU32 x) 32 0 (2 ^ 32 - 1) ∧
      toInt (.fcvtToS64 x) 64 (-2 ^ 63) (2 ^ 63 - 1) ∧ toInt (.fcvtToU64 x) 64 0 (2 ^ 64 - 1)) ∧
    (Issues s nf x →
      let r := v.reg x.ra
      fromInt (.fcvtFromS32 x) (r.extractLsb' 0 32).toInt ∧ fromInt (.fcvtFromU32 x) (r.extractLsb' 0 32).toNat ∧
      fromInt (.fcvtFromS64 x) r.toInt ∧ fromInt (.fcvtFromU64 x) r.toNat)

/-! ### Memory -/

/-- LD, LDS, ST, LDC and STC to memory (R42, R59, R171): with the access permitted byte by byte, a load writes the register with
with the little-endian value extended from the operand width and stores nothing, and a store writes the low bytes of its register
at the checked addresses and no other byte. LDC and STC are checked at the less privileged of the current ring and GCALLER. The
core holds the lines of the access, before its bytes are fetched and after; no data breakpoint matches, no TFENCE waits and no
codeword is poisoned. -/
def Obligations.LoadsAndStores : Prop :=
  ∀ (x : Insn) (s : State) (r0 rs : List ByteRef),
    let g := x.thread
    let v := s.thread g
    let w := x.width
    let lower := max v.ring (bitsOf (v.sysNat Sys.gcaller) 1 0)
    let load (i : Instr) (o : Op) (p : Nat) (value : Nat → Word) : Prop :=
      let a := (s.ea o x).toNat
      let f := fetchedFor s o x
      Issues s o x → Reached s g p Need.ld a (w / 8) r0 → Reached f g p Need.ld a (w / 8) rs → v.dataHits false a (w / 8) = [] →
        ∃ t s', exec i s = .next t ∧ Loads f s' rs ∧
          RetiresIn s (s'.trainPrefetcher g) t g (s.after o x) (v.setReg x.rd (value (leNat (f.refBytes g rs))))
    let store (i : Instr) (o : Op) (p : Nat) : Prop :=
      let a := (s.ea o x).toNat
      let f := fetchedFor s o x
      Issues s o x → Reached s g p Need.st a (w / 8) r0 → Reached f g p Need.st a (w / 8) rs → v.dataHits true a (w / 8) = [] →
        ∃ t s', exec i s = .next t ∧ Stores f s' rs (leBytes (w / 8) (v.reg x.rd).toNat) ∧
          RetiresIn s s' t g (s.after o x) v
    let zero (n : Nat) : Word := BitVec.ofNat 64 n
    load (.ld x) (opMem false false) v.ring zero ∧
    load (.lds x) (opMem false true) v.ring (fun n => (BitVec.ofNat w n).signExtend 64) ∧
    load (.ldc x) (opMem true false) lower zero ∧
    store (.st x) (opMem false false) v.ring ∧ store (.stc x) (opMem true false) lower

/-- The atomics (R134, R135): the register takes the old value, and memory the new one, at the operand width; an address that is
not a multiple of the width raises fault 0x07 with subcode 0x01 and stores nothing. -/
def Obligations.AtomicsReadModifyWrite : Prop :=
  ∀ (x : Insn) (s : State) (r0 rs : List ByteRef),
    let g := x.thread
    let v := s.thread g
    let w := x.width
    let any : Insn → Bool := fun _ => true
    let atomic (i : Instr) (valid : Insn → Bool) (op : BitVec w → BitVec w → BitVec w → BitVec w) : Prop :=
      let o := opAtomic valid
      let a := (s.ea o x).toNat
      let f := fetchedFor s o x
      let old := BitVec.ofNat w (leNat (f.refBytes g rs))
      let new := op old (BitVec.ofNat w (v.reg x.rd).toNat) (BitVec.ofNat w (v.reg (x.rd + 1)).toNat)
      Issues s o x →
        (a % (w / 8) = 0 → Reached s g v.ring Need.rmw a (w / 8) r0 → Reached f g v.ring Need.rmw a (w / 8) rs →
          v.dataHits true a (w / 8) = [] →
            ∃ t s', exec i s = .next t ∧ Stores f s' rs (leBytes (w / 8) new.toNat) ∧
              RetiresIn s (s'.trainPrefetcher g) t g (s.after o x) (v.setReg x.rd (old.zeroExtend 64))) ∧
        (a % (w / 8) ≠ 0 → Raises s s i g (Flt.mk' 0x07 0x01 (s.ea o x)))
    atomic (.swap x) any (fun _ d _ => d) ∧
    atomic (.cas x) (fun x => decide (x.rd ≤ 30)) (fun old d e => if old = d then e else old) ∧
    atomic (.aadd x) any (fun old d _ => old + d) ∧ atomic (.aand x) any (fun old d _ => old &&& d) ∧
    atomic (.aor x) any (fun old d _ => old ||| d) ∧ atomic (.axor x) any (fun old d _ => old ^^^ d) ∧
    atomic (.amax x) any (fun old d _ => if old.slt d then d else old) ∧
    atomic (.amaxu x) any (fun old d _ => if old.ult d then d else old) ∧
    atomic (.amin x) any (fun old d _ => if d.slt old then d else old) ∧
    atomic (.aminu x) any (fun old d _ => if d.ult old then d else old)

/-- MOVS between ranges of the domain's own DRAM, with no interrupt presented and no breakpoint enabled, leaves memory as the
byte-at-a-time copy does, overlapping ranges included, and its registers past the last byte with a count of zero (R124 to
R126). -/
def Obligations.MovsCopiesByteByByte : Prop :=
  ∀ (x : Insn) (s : State),
    let g := x.thread
    let v := s.thread g
    let d := (v.reg x.rd).toNat
    let a := (v.reg x.ra).toNat
    let c := (v.reg x.rb).toNat
    let f := fetchedFor s opMovs x
    let lines (z : State) : Prop := ∀ i, i < c → FMap.find (z.core (g / 2)).l2 ((d + i) / 64) = some .modified ∧
      FMap.has (z.core (g / 2)).l2 ((a + i) / 64) = true
    Issues s opMovs x → s.fenceWait g = none → InOrder s g → s.presented g = none → lines s → lines f →
      (∀ n, n < 4 → bitOf (v.sysNat (Sys.bpc n)) 0 = false) → OwnDram s g d c → OwnDram s g a c →
        (c = 0 → Gives s (.movs x) opMovs x v) ∧
        (c ≠ 0 → ∃ t s', exec (.movs x) s = .next t ∧
          Marked f s' ∧ s'.dram = copyBytes f.dram d a c ∧
          RetiresIn s (s'.trainPrefetcher g) t g (s.after opMovs x)
            (((v.setReg x.rd (BitVec.ofNat 64 (d + c))).setReg x.ra (BitVec.ofNat 64 (a + c))).setReg x.rb 0))

/-! ### What every scalar instruction meets first -/

/-- A scalar instruction of a thread that is halted, Wedged or waiting for acknowledgements or a drain does nothing (R38, R222,
R762). -/
def Obligations.StoppedThreadsIssueNothing : Prop :=
  ∀ (i : Instr) (o : Op) (x : Insn) (s : State),
    framing i = some (o, x) → (s.thread x.thread).issues = false → exec i s = .next s

/-- Every scalar instruction raises its fetch and decoding faults before any effect (R70, R73), and then (the order of the two is
the model's choice, log 65) an execute breakpoint that matches its address, as fault 0x17 with subcode 0x02 and its HIT bits set
(R234). The decoding faults of R70 and R60 in their order: a fifth prefix, a repeated prefix, a reserved prefix byte, an opcode
that no instruction has (R61, R62), an unassigned function, a reserved size code, more than 16 bytes, a prefix not permitted, and
invalid fields. What the fetch of an instruction that retires leaves beside its own effect: its lines in caches and, with
translation on, accessed bits (R158, R272). -/
def Obligations.DecodingFaults : Prop :=
  (∀ (i : Instr) (o : Op) (x : Insn) (s : State),
     framing i = some (o, x) → x.thread < 256 → (s.thread x.thread).issues = true → s.decodes x.thread = true →
       (s.thread x.thread).checks = [] →
       (∀ f, s.frontFault o x = some f → Raises s s i x.thread f) ∧
       (s.frontFault o x = none → (s.thread x.thread).execHits ≠ [] →
         Raises s (s.onThread x.thread (fun t => t.noteHits t.execHits)) i x.thread (Flt.mk' 0x17 2 0))) ∧
  (∀ op op2 : Byte, op ≠ 0x01 →
    let sub (x : Insn) := ((opNop op op2).decodeFault x).map (·.1)
    ∀ x : Insn, x.prefixes = [] →
      (op = 0 → framing (.nop ⟨x, op, op2⟩) = some (opNop op op2, x) ∧ sub x = some 0x01) ∧
      (0xF2 ≤ op.toNat ∨ (op = 0xF0 ∧ 0x42 ≤ op2.toNat) ∨ (op = 0xF1 ∧ 0x0C ≤ op2.toNat) ∨
          (0x06 ≤ op.toNat ∧ op.toNat < 0x10) →
        framing (.nop ⟨x, op, op2⟩) = some (opNop op op2, x) ∧ sub x = some 0x02)) ∧
  (∀ (o : Op) (x : Insn), (∀ b ∈ x.prefixes, 0xE0 ≤ b.toNat ∧ b.toNat < 0xF0) → o.bad = none →
    let sub := (o.decodeFault x).map (·.1)
    (4 < x.prefixes.length → (x.prefixes.take 4).Nodup → (∀ b ∈ x.prefixes.take 4, b.toNat < 0xE7) → sub = some 0x04) ∧
    (∀ b : Byte, x.prefixes = [b, b] → b.toNat < 0xE7 → sub = some 0x03) ∧
    (∀ b : Byte, x.prefixes = [b] → b.toNat = 0xE7 ∨ 0xEA ≤ b.toNat → sub = some 0x06) ∧
    (x.prefixes = [] →
      (o.fnOk x = false → sub = some 0x02) ∧
      (o.fnOk x = true → x.immBytes o.form = none → sub = some 0x08) ∧
      (o.fnOk x = true → ∀ k, x.immBytes o.form = some k →
        (o.need = true → sub = some 0x07) ∧
        (o.need = false → o.valid x = false → sub = some 0x08) ∧
        (o.need = false → o.valid x = true → sub = none)))) ∧
  ∀ (s : State) (g n : Nat),
    let f := s.fetched g n
    Marked s f ∧ (bitOf ((s.thread g).sysNat Sys.xlate) 0 = false → f.dram = s.dram) ∧
    ∀ rs, s.check g (s.thread g).ring Need.ifetch (s.thread g).pc.toNat n = .ok rs →
      ∀ a, a ∉ marks rs → Mem.byte f.dram a = Mem.byte s.dram a

/-- With PSW.SS 1, an instruction that completes leaves trap 0x18 with subcode 0x01 and DBGSTAT.SSHIT set; a matched data
breakpoint instead leaves trap 0x17 with subcode 0x03; with neither nothing is left (R235, R236).
At the boundary the next instruction's synchronous fault goes first, then a deliverable tile-stream fault, then the trap, which is
then no longer kept, and only then the instruction itself (R232). -/
def Obligations.TrapsAtTheEnd : Prop :=
  (∀ (s : State) (g : Nat) (ip : Word) (ss : Bool),
    let v := s.thread g
    let noted := v.sysSet Sys.dbgstat (v.sysGet Sys.dbgstat ||| 0x10)
    let kept (v : Thread) (code sub : Nat) : Thread := { v with
      traps := v.traps ++ [{ code := code, sub := sub, fip := ip, faddr := 0, atIp := v.ip, atSp := v.reg 39 }] }
    s.endTraps g ip false false = s ∧
    (s.endTraps g ip true false).thread g = kept noted 0x18 1 ∧
    (s.endTraps g ip ss true).thread g = kept (if ss then noted else v) 0x17 3 ∧
    ∀ db, s.endTraps g ip ss db = s.setThread g ((s.endTraps g ip ss db).thread g) ∨ (ss = false ∧ db = false)) ∧
  ∀ (i : Instr) (o : Op) (x : Insn) (s : State) (p : Trap),
    let g := x.thread
    let v := s.thread g
    framing i = some (o, x) → g < 256 → v.issues = true → s.decodes g = true → v.checks = [] → v.deliveryWaits = false →
      (∀ f, s.frontFault o x = some f → exec i s = .next (s.fault g f)) ∧
      (s.frontFault o x = none → v.execHits = [] →
        i ∈ [Instr.sbar x, .mfence x, .isync x, .add x, .sub x, .addi x, .mul x, .rdfl x, .wrfl x] →
        (∀ c u, v.tileFaultDue = some (c, u) → exec i s = .next (s.deliverTile g c u)) ∧
        (v.tileFaultDue = none → v.traps = [p] → p.atIp = v.ip → p.atSp = v.reg 39 →
          exec i s = .next ((s.setThread g { v with traps := [] }).deliverTrap g p.code p.sub p.fip p.faddr)))

/-! ### System registers -/

/-- RDSR copies what the register reads as, and WRSR sets the writable fields of a register with plain fields and ignores a write
to one without any (R19, R45, R98). PL0 writes PSW whole, and a WRSR of a counter leaves what it wrote there, its own retirement
uncounted (R29). A WRSR of a tile control register enters the Tile Queue with the ring and value captured (R293), and one of XLATE
drops the translations that the core holds for the domain (R763). Which RDSR and WRSR fault (R46, R207, R292): an unallocated
number with 0x01/0x09 at every ring, the tile control registers without NTXEN outside PL0 with 0x10, a register of a more
privileged ring with 0x02/0x02, and the fault-report registers of a more privileged delivery with 0x02/0x03. -/
def Obligations.SystemRegisterAccess : Prop :=
  (∀ (x : Insn) (s : State),
     let g := x.thread
     let v := s.thread g
     let n := x.fld 23 12
     let r := x.fld 5 0
     let w := v.reg r
     let f := fetchedFor s opSys x
     let plain : List Nat :=
       [0x101, 0x104, 0x105, 0x106, 0x107, 0x108, 0x109, 0x10A, 0x10B, 0x10C, 0x10D, 0x10E, 0x10F, 0x110, 0x111, 0x200, 0x201,
        0x202, 0x203, 0x204, 0x205, 0x400, 0x401, 0x402, 0x403, 0x500, 0x50B, 0x50C, 0x50E, 0x601, 0x602, 0x800, 0x801, 0x802,
        0x803, 0xF10]
     Issues s opSys x →
       (v.sysFault n false = none → Gives s (.rdsr x) opSys x (v.setReg r (s.sysRead g n))) ∧
       (v.sysFault n true = none →
         (n ∈ plain → Gives s (.wrsr x) opSys x
           (v.sysSet n ((v.sysGet n &&& ~~~BitVec.ofNat 64 (sysMask n)) ||| (w &&& BitVec.ofNat 64 (sysMask n))))) ∧
         (sysReadOnly n = true → Gives s (.wrsr x) opSys x v) ∧
         (n = 0x100 → v.psw.ss = false →
           ∃ t, exec (.wrsr x) s = .next t ∧ Turned f t g (s.after opSys x) { v with psw := Psw.ofWord w }) ∧
         (n = Sys.xlate → Ends s (.wrsr x) opSys x (fun s' u =>
           u.sysGet Sys.xlate = w &&& 0xFFFFFFFFFF001 ∧ (∀ k, k ≠ Sys.xlate → u.sysGet k = v.sysGet k) ∧
           s'.dram = f.dram ∧ ∀ d, s.domOf g = some d → ∀ e, e ∈ (s'.core (g / 2)).tlb ↔ e ∈ (f.core (g / 2)).tlb ∧ e.dom ≠ d)) ∧
         (0x710 ≤ n → n < 0x718 → v.psw.ss = false → ∃ t, exec (.wrsr x) s = .next t ∧
           (t.thread g).sysGet n = w &&& 0xFFFFFFFFFFFF ∧ (t.thread g).psw = { v.psw with brs := false }) ∧
         (0x501 ≤ n → n ≤ 0x507 → v.tile.queue.length < 32 →
           Gives s (.wrsr x) opSys x { v with tile := { v.tile with
             queue := v.tile.queue ++ [{ op := .wrsr n r, ring := v.ring, value := w, ip := some v.pc }] } })) ∧
       (∀ f, v.sysFault n false = some f → Raises s s (.rdsr x) g f) ∧
       (∀ f, v.sysFault n true = some f → Raises s s (.wrsr x) g f)) ∧
  ∀ (v : Thread) (n : Nat),
    (sysAllocated n = false → v.sysFault n false = some (Flt.mk' 0x01 0x09 0) ∧ v.sysFault n true = some (Flt.mk' 0x01 0x09 0)) ∧
    (v.ring = 0 → sysAllocated n = true → v.sysFault n false = none ∧ v.sysFault n true = none) ∧
    (v.ring ≠ 0 → v.sysNat Sys.ntxen = 0 → (0x501 ≤ n ∧ n ≤ 0x50A) ∨ (0x510 ≤ n ∧ n ≤ 0x517) →
      v.sysFault n false = some (Flt.mk' 0x10 0x00 0) ∧ v.sysFault n true = some (Flt.mk' 0x10 0x00 0)) ∧
    (v.ring ≠ 0 → n ∈ [0x100, 0x101, 0x112, 0x300, 0x400, 0x500, 0x50B, 0x601, 0x700, 0x800] →
      v.sysFault n false = some (Flt.mk' 0x02 0x02 0) ∧ v.sysFault n true = some (Flt.mk' 0x02 0x02 0)) ∧
    (0x200 ≤ n → n ≤ 0x205 →
      v.sysFault n false = if bitsOf (v.sysNat Sys.cause) 17 16 < v.ring then some (Flt.mk' 0x02 0x03 0) else none)

/-- WRSR of XLATE at release and every barrier: XLATE_WRITE sets XLATE and drops the domain's translations in the core (R763);
SBAR and MFENCE retire with no other effect, MFENCE once no store holds, and ISYNC discards what its thread has in flight (R257,
R458); PFLUSH at PL0 empties the domain's predictor state of its core
and raises fault 0x02 with subcode 0x01 elsewhere (R257, R258). -/
def Obligations.BarriersAndFlushes : Prop :=
  ∀ (x : Insn) (s : State),
    let g := x.thread
    let v := s.thread g
    let o := Op.plain true .n (fun _ => true)
    let f := fetchedFor s o x
    (Issues s o x →
      Gives s (.sbar x) o x v ∧
      (v.stq = none → Gives s (.mfence x) o x v) ∧
      Ends s (.isync x) o x (fun s' u =>
        u = { v with sys := u.sys } ∧ (∀ k, isCounter k = false → u.sysGet k = v.sysGet k) ∧
        s' = { f with threads := s'.threads, cores := s'.cores } ∧
        (∀ c, s'.core c = { f.core c with spec := (s'.core c).spec }) ∧
        ∀ q ∈ (s'.core (g / 2)).spec, q.acc.thread = g → q.dead = true) ∧
      (v.ring = 0 → Ends s (.pflush x) o x (fun s' u =>
        u = { v with ras := [] } ∧ s' = { f with threads := s'.threads, cores := s'.cores } ∧
        (∀ c, c ≠ g / 2 → s'.core c = f.core c) ∧
        ∃ l m, s'.core (g / 2) = { f.core (g / 2) with bpTags := l, pfTags := m } ∧
          (∀ d, d ∈ l ↔ d ∈ (s.core (g / 2)).bpTags ∧ s.domOf g ≠ some d) ∧
          ∀ d, d ∈ m ↔ d ∈ (s.core (g / 2)).pfTags ∧ s.domOf g ≠ some d)) ∧
      (v.ring ≠ 0 → Raises s s (.pflush x) g (Flt.mk' 0x02 0x01 0))) ∧
    (∀ w : Word, v.issues = true → v.ring = 0 → g < 256 → ∃ t u, exec (.xlateWrite g w) s = .next t ∧ t.thread g = u ∧
      u.sysGet Sys.xlate = w &&& 0xFFFFFFFFFF001 ∧ u = { v with sys := u.sys } ∧
      (∀ k, k ≠ Sys.xlate → u.sysGet k = v.sysGet k) ∧ t = { s with threads := t.threads, cores := t.cores } ∧
      ∀ d, s.domOf g = some d → ∀ e, e ∈ (t.core (g / 2)).tlb ↔ e ∈ (s.core (g / 2)).tlb ∧ e.dom ≠ d)

/-! ### Gates and returns -/

/-- GATE through a usable descriptor, with its arguments passed and room for its frame, enters the handler: the frame is pushed at
the target ring, the window slides, w7 holds the return address, GCALLER the caller's ring, and PSW, sp and IP are the target's
(R164 to R168).
GATE refuses in the order of R164 and R165, with no effect: n at or above COUNT, no readable descriptor, not a call gate, MINPL,
TPL, a malformed descriptor, then the arguments. -/
def Obligations.GatesEnterOrFault : Prop :=
  (∀ (x : Insn) (s s0 s1 : State) (d : GateDesc) (r0 rs : List ByteRef),
     let g := x.thread
     let v := s.thread g
     let f := fetchedFor s opGate x
     let n := x.immRI.toNat
     let stack := if d.ssel = 0 ∧ d.tpl ≠ v.ring then v.sysNat (Sys.sp d.tpl) else v.sp.toNat
     let at_ := (stack - 64) / 64 * 64
     Issues s opGate x → n < v.gtlCount → s.fenceWait g = none → s.gateDesc g n = some d → f.gateDesc g n = some d → d.kind = 1 →
       v.ring ≤ d.minpl → d.tpl ≤ v.ring → d.malformed v.ring = false → s.argsCheck g d.args 0 = .ok s0 →
       f.argsCheck g d.args 0 = .ok s1 → v.res ≤ 6 → 64 ≤ stack → v.sysNat (Sys.slim d.tpl) ≤ at_ →
       stack < 2 ^ 64 → s0.check g d.tpl Need.blockSt at_ 64 = .ok r0 → s1.check g d.tpl Need.blockSt at_ 64 = .ok rs →
       s0.thread g = v → s1.thread g = v →
         ∃ t s2 u w, exec (.gate x) s = .next t ∧ Turned s2 t g (BitVec.ofNat 64 d.hip) u ∧
           Stores s1 s2 rs (gateFrame v (s.after opGate x) n) ∧
           u = { v with cur := u.cur, k := u.k, older := w :: v.older, sys := u.sys,
                        psw := { v.psw with pl := BitVec.ofNat 2 d.tpl, ml := BitVec.ofNat 4 (max v.psw.ml.toNat d.ml),
                                            ss := false, brs := false } } ∧
           u.reg 7 = s.after opGate x ∧ (∀ i, i < 7 → u.reg i = v.reg (24 + i)) ∧ (∀ i, 8 ≤ i → i < 32 → u.reg i = 0) ∧
           (∀ i, i < 24 → FMap.get w i 0 = v.reg i) ∧ u.reg 39 = BitVec.ofNat 64 at_ ∧
           u.sysGet Sys.gcaller = BitVec.ofNat 64 v.ring ∧ ∀ k, k ≠ Sys.gcaller → u.sysGet k = v.sysGet k) ∧
  ∀ (x : Insn) (s : State),
    let g := x.thread
    let v := s.thread g
    let n := x.immRI.toNat
    let fault (f : Flt) : Prop := Raises s s (.gate x) g f
    Issues s opGate x →
      (v.gtlCount ≤ n → fault (Flt.mk' 0x0A 0x01 0)) ∧
      (n < v.gtlCount → s.fenceWait g = none →
        (s.gateDesc g n = none → fault (Flt.mk' 0x0A 0x06 (BitVec.ofNat 64 (v.descAddr n)))) ∧
        ∀ d, s.gateDesc g n = some d →
          (d.kind ≠ 1 → fault (Flt.mk' 0x0A 0x02 0)) ∧
          (d.kind = 1 → d.minpl < v.ring → fault (Flt.mk' 0x0A 0x03 0)) ∧
          (d.kind = 1 → v.ring ≤ d.minpl → v.ring < d.tpl → fault (Flt.mk' 0x0A 0x04 0)) ∧
          (d.kind = 1 → v.ring ≤ d.minpl → d.tpl ≤ v.ring →
            (d.malformed v.ring = true → fault (Flt.mk' 0x0A 0x05 0)) ∧
            (d.malformed v.ring = false → ∀ i e, s.argsCheck g d.args 0 = .error (i, e) →
              fault { code := 0x0B, sub := e.sub, faddr := BitVec.ofNat 64 e.at_, fprog := BitVec.ofNat 64 i })))

/-- GRET and FRET read the frame at sp and restore what it records (R172, R211, R217, R218): PSW with ML capped for PL1 to PL3,
sp, IP, the caller's window, and GCALLER or FL and the fault-report registers. A trap kept at the stack pointer that FRET returns
to goes before the next instruction (R232; where it is kept is the model's choice, log 67). A frame of the wrong kind or of a
more privileged ring raises fault 0x0A with no effect. -/
def Obligations.ReturnsRestoreTheFrame : Prop :=
  ∀ (x : Insn) (s : State) (r0 rs : List ByteRef),
    let g := x.thread
    let v := s.thread g
    let o := Op.plain false .n (fun _ => true)
    let z := fetchedFor s o x
    let f := frameOf (s.refBytes g r0)
    let k := f.psw.pl.toNat
    let psw := if k = 0 then f.psw
      else { f.psw with ml := BitVec.ofNat 4 (min f.psw.ml.toNat (bitsOf (v.sysNat Sys.ringctl) (4 * k + 23) (4 * k + 20))) }
    let kept := v.traps.map (fun p => if p.atSp == f.sp then { p with atIp := BitVec.ofNat 48 f.ip } else p)
    let back (u : Thread) (w : FMap Word) (older : List (FMap Word)) (traps : List Trap) : Prop :=
      u = { v with cur := u.cur, k := u.k, older := older, sys := u.sys, psw := psw, fl := u.fl, traps := traps } ∧
      (∀ i, i < 24 → u.reg i = FMap.get w i 0) ∧ (∀ i, i < 8 → u.reg (24 + i) = v.reg i) ∧ u.reg 39 = f.sp
    let plain (l : List ByteRef) : Prop := ∀ r ∈ l, r.tgt = .dram
    Issues s o x → s.fenceWait g = none → s.check g v.ring Need.blockLd v.sp.toNat 64 = .ok r0 → plain r0 →
      (f.kind = 3 → v.ring ≤ k → v.psw.ss = false → f.psw.ss = false → z.check g v.ring Need.blockLd v.sp.toNat 64 = .ok rs →
        plain rs → z.refBytes g rs = s.refBytes g r0 → ∀ w older, v.older = w :: older →
        ∃ t s' u, exec (.gret x) s = .next t ∧ Loads z s' rs ∧ Turned s' t g (BitVec.ofNat 64 f.ip) u ∧ back u w older v.traps ∧
          u.fl = v.fl ∧ u.sysGet Sys.gcaller = f.quad 0 &&& 3 ∧ ∀ n, n ≠ Sys.gcaller → u.sysGet n = v.sysGet n) ∧
      (f.kind = 1 ∨ f.kind = 2 ∨ f.kind = 4 → f.win = false → v.ring ≤ k → v.psw.ss = false →
        z.check g v.ring Need.blockLd v.sp.toNat 64 = .ok rs → plain rs → z.refBytes g rs = s.refBytes g r0 →
        ∀ w older, v.older = w :: older →
          ∃ t s' u, exec (.fret x) s = .next t ∧ Loads z s' rs ∧ Turned s' t g (BitVec.ofNat 64 f.ip) u ∧ back u w older kept ∧
            u.fl = f.fl ∧ u.sysGet Sys.cause = f.quad 0 &&& 0x3FFFF ∧ u.sysGet Sys.faddr = f.quad 1 ∧
            u.sysGet Sys.fprog = f.quad 2 ∧ u.sysGet Sys.ecause = f.quad 3 &&& 0x1FFFF ∧
            u.sysGet Sys.fip = f.quad 4 &&& 0xFFFFFFFFFFFF ∧
            ∀ n, n ∉ [Sys.cause, Sys.faddr, Sys.fip, Sys.fprog, Sys.ecause] → u.sysGet n = v.sysGet n) ∧
      (f.kind ≠ 3 → Raises s s (.gret x) g (Flt.mk' 0x0A 0x09 0)) ∧
      (f.kind = 3 → k < v.ring → Raises s s (.gret x) g (Flt.mk' 0x0A 0x08 0)) ∧
      (f.kind ≠ 1 ∧ f.kind ≠ 2 ∧ f.kind ≠ 4 → Raises s s (.fret x) g (Flt.mk' 0x0A 0x0A 0)) ∧
      (f.kind = 1 ∨ f.kind = 2 ∨ f.kind = 4 → k < v.ring → Raises s s (.fret x) g (Flt.mk' 0x0A 0x0B 0))

/-! ### Grants -/

/-- GDERIVE mints a child of the named grant in the entry free longest and returns its handle; GQUERY returns the field its
selector names, 0 for a handle that is not valid (R177, R182). The refusals of GDERIVE come in its order. -/
def Obligations.GrantsDeriveAndQuery : Prop :=
  ∀ (x : Insn) (s : State) (d : Nat),
    let g := x.thread
    let v := s.thread g
    let st := (s.domain d).store
    let h := v.reg x.rs2
    let p := st.entry (hIndex h)
    let off := (v.reg x.rd2).toNat
    let len := (v.reg (x.rd2 + 1)).toNat
    let rights := x.immRI.toNat % 256
    let bad := rights &&& p.rights.toNat ≠ rights ∨ rights &&& kindRights p.kind ≠ rights ∨ len = 0 ∨
      off % kindGranule p.kind ≠ 0 ∨ len % kindGranule p.kind ≠ 0 ∨ p.len < off + len
    let od := opAuth 1 (fun x => decide (x.rd2 ≤ 30) && isInt x.rs2)
    let oq := opAuth 1 (fun x => isInt x.rd2 && isInt x.rs2 && decide (x.immRI.toNat ≤ 3))
    let fault (f : Nat) : Prop := Raises s s (.gderive x) g (Flt.mk' 0x0C f 0)
    s.domOf g = some d →
      (Issues s od x →
        (st.check g h = 1 → fault 0x01) ∧ (st.check g h = 2 → fault 0x02) ∧
        (st.check g h = 0 →
          (p.rights.getLsbD 7 = false → fault 0x03) ∧
          (p.rights.getLsbD 7 = true → bad → fault 0x05) ∧
          (p.rights.getLsbD 7 = true → ¬bad → 15 ≤ p.depth → fault 0x07) ∧
          (p.rights.getLsbD 7 = true → ¬bad → p.depth < 15 → st.freeEntry = none → fault 0x06) ∧
          (p.rights.getLsbD 7 = true → ¬bad → p.depth < 15 → ∀ i, st.freeEntry = some i →
            let gen := if 0xFFFFF ≤ (st.entry i).gen then 1 else (st.entry i).gen + 1
            Ends s (.gderive x) od x (fun s' u =>
              u = v.setReg x.rd2 (BitVec.ofNat 64 (gen * 4096 + i)) ∧
              StoreOnly (fetchedFor s od x) { s' with threads := s.threads } d (· = i) ∧
              (s'.domain d).store.entry i =
                { inUse := true, gen := gen, kind := p.kind, object := p.object, rights := BitVec.ofNat 8 rights,
                  base := p.base + off, len := len, parent := hIndex h, depth := p.depth + 1, holder := some g,
                  parked := none })))) ∧
      (Issues s oq x →
        let e := st.entry (hIndex h)
        let root := decide (e.depth = 0)
        Gives s (.gquery x) oq x (v.setReg x.rd2 (BitVec.ofNat 64
          (if st.check g h ≠ 0 then 0
           else if x.immRI.toNat = 0 then e.kind + e.rights.toNat * 16 + e.depth * 4096 + natOf root * 65536 +
             natOf e.parked.isSome * 131072
           else if x.immRI.toNat = 1 then e.object else if x.immRI.toNat = 2 then e.base else e.len))))

/-- GREVOKE of a grant that the thread holds, or an ancestor of which it holds, frees the entries of its mode and raises their
generations, then waits for drain; REVOCATION_DRAIN_END retires it once no marked operation of the domain is in flight, which is
at once when none was (R180, R181). -/
def Obligations.RevocationFreesAndDrains : Prop :=
  ∀ (x : Insn) (s : State) (d : Nat),
    let g := x.thread
    let v := s.thread g
    let st := (s.domain d).store
    let h := v.reg x.rs2
    let o := opAuth 1 (fun x => x.rd2 == 0 && isInt x.rs2 && decide (x.immRI.toNat ≤ 1))
    let l := (if x.immRI.toNat = 0 then [hIndex h] else []) ++ st.below (hIndex h) 16
    s.domOf g = some d →
      (Issues s o x →
        (st.check g h = 1 → Raises s s (.grevoke x) g (Flt.mk' 0x0C 0x01 0)) ∧
        (st.check g h ≠ 1 → st.holdsAbove g (hIndex h) 16 = false → Raises s s (.grevoke x) g (Flt.mk' 0x0C 0x02 0)) ∧
        (st.check g h ≠ 1 → st.holdsAbove g (hIndex h) 16 = true →
          (x.immRI.toNat = 0 → (st.entry (hIndex h)).depth = 0 → Raises s s (.grevoke x) g (Flt.mk' 0x0C 0x08 0)) ∧
          (x.immRI.toNat = 1 ∨ (st.entry (hIndex h)).depth ≠ 0 → l.Nodup →
            ∃ t, exec (.grevoke x) s = .next t ∧ (t.thread g).revoke = some x ∧ (t.thread g).draining = true ∧
              t.dram = s.dram ∧
              (∀ i, i ∈ l → let e := (t.domain d).store.entry i
                e.inUse = false ∧ e.holder = none ∧ e.gen = if 0xFFFFF ≤ (st.entry i).gen then 1 else (st.entry i).gen + 1) ∧
              (∀ i, i ∉ l → (t.domain d).store.entry i = st.entry i) ∧
              (t.drained d = true → v.psw.ss = false → ∃ r, exec (.revocationDrainEnd g) t = .next r ∧
                (r.thread g).revoke = none ∧ (r.thread g).draining = false ∧
                (r.thread g).ip = ((s.after o x).truncate 48 : BitVec 48))))) ∧
      (v.draining = true → s.drained d = true →
        let n := (opAuth 1 (fun _ => true)).length x
        (v.revoke = none → exec (.revocationDrainEnd g) s = .next (s.setThread g { v with draining := false })) ∧
        (v.revoke = some x → v.psw.ss = false → ∃ t, exec (.revocationDrainEnd g) s = .next t ∧
          Retired (s.fetched g n) t g (v.pc + BitVec.ofNat 64 n) { v with draining := false, revoke := none }))

/-- GXFER.S to a thread of the domain takes the grant from its sender, detaching the windows it is attached to, and puts it last
in the receiver's mailbox, or answers 1 when that is full; GXFER.R makes the receiver its holder with the same handle, or answers
0 (R183, R184). GATTACH puts the grant's window into GW n; GDETACH and GDETACH.P empty it (R185 to R187). -/
def Obligations.GrantTransfersAndWindows : Prop :=
  (∀ (x : Insn) (s : State) (d : Nat),
     let g := x.thread
     let v := s.thread g
     let st := (s.domain d).store
     let h := v.reg x.rs2
     let e := st.entry (hIndex h)
     let dest := (v.reg x.rd2).toNat
     let os := opAuth 1 (fun x => isInt x.rd2 && isInt x.rs2 && x.immRI.toNat == 0)
     let or_ := opAuth 1 (fun x => isInt x.rd2 && x.rs2 == 0 && x.immRI.toNat == 1)
     let fault (f : Nat) : Prop := Raises s s (.gxferS x) g (Flt.mk' 0x0C f 0)
     s.domOf g = some d →
       (Issues s os x →
         (st.check g h ≠ 0 → fault (st.check g h)) ∧
         (st.check g h = 0 →
           (e.rights.getLsbD 6 = false → fault 0x03) ∧
           (e.rights.getLsbD 6 = true → s.domOf dest ≠ some d ∨ 256 ≤ dest → fault 0x0A) ∧
           (e.rights.getLsbD 6 = true → s.domOf dest = some d → dest < 256 →
             (8 ≤ (s.thread dest).gmail.length → Gives s (.gxferS x) os x (v.setReg x.rd2 1)) ∧
             ((s.thread dest).gmail.length < 8 → Ends s (.gxferS x) os x (fun s' u =>
               (s'.thread dest).gmail = (s.thread dest).gmail ++ [hIndex h] ∧ u.reg x.rd2 = 0 ∧ s'.dram = (fetchedFor s os x).dram ∧
               ((s'.domain d).store.entry (hIndex h)).holder = none ∧
               (∀ n w, FMap.find u.gw n = some w → w.index = hIndex h → w.gen ≠ e.gen) ∧
               (v.windowsOf (hIndex h) e.gen = [] → ∀ i, i ≠ hIndex h → (s'.domain d).store.entry i = st.entry i)))))) ∧
       (Issues s or_ x →
         (v.gmail = [] → Gives s (.gxferR x) or_ x (v.setReg x.rd2 0)) ∧
         (∀ i rest, v.gmail = i :: rest → Ends s (.gxferR x) or_ x (fun s' u =>
           u = { v with gmail := rest }.setReg x.rd2 (st.handle i) ∧
           StoreOnly (fetchedFor s or_ x) { s' with threads := s.threads } d (· = i) ∧
           (s'.domain d).store.entry i = { st.entry i with holder := some g })))) ∧
  ∀ (x : Insn) (s : State) (d : Nat),
    let g := x.thread
    let v := s.thread g
    let st := (s.domain d).store
    let h := v.reg x.rs2
    let n := x.immRI.toNat
    let e := st.entry (hIndex h)
    let oa := opAuth 1 (fun x => x.rd2 == 0 && isInt x.rs2 && decide (x.immRI.toNat ≤ 7))
    let od := opAuth 1 (fun x => x.rd2 == 0 && x.rs2 == 0 && decide (x.immRI.toNat ≤ 7))
    let op := opAuth 1 (fun x => x.rd2 == 0 && x.rs2 == 0 && decide (8 ≤ x.immRI.toNat) && decide (x.immRI.toNat ≤ 15))
    let emptied (i : Instr) (o : Op) (k : Nat) : Prop := Issues s o x → Ends s i o x (fun s' u =>
      s'.dram = (fetchedFor s o x).dram ∧ FMap.find u.gw k = none ∧ (∀ j, j ≠ k → FMap.find u.gw j = FMap.find v.gw j) ∧
      u = { v with gw := u.gw })
    s.domOf g = some d →
      (Issues s oa x →
        (st.check g h ≠ 0 → Raises s s (.gattach x) g (Flt.mk' 0x0C (st.check g h) 0)) ∧
        (st.check g h = 0 → FMap.find v.gw n = none →
          (s.windowFor e (hIndex h) = none → Raises s s (.gattach x) g (Flt.mk' 0x0C 0x0C 0)) ∧
          (∀ w, s.windowFor e (hIndex h) = some w → Ends s (.gattach x) oa x (fun s' u =>
            s'.dram = (fetchedFor s oa x).dram ∧ u = { v with gw := u.gw } ∧ FMap.find u.gw n = some w ∧
            ∀ j, j ≠ n → FMap.find u.gw j = FMap.find v.gw j)))) ∧
      emptied (.gdetach x) od n ∧ emptied (.gdetachP x) op (n % 8)

/-! ### Translation invalidation, events and traps -/

/-- TINV at PL0, with no store that holds, sends its invalidation to every core of the domain and waits; each core that receives
it drops the translations it names, with what its walker caches hold of them (R272), and acknowledges; with every acknowledgement
TINV retires (R159). Elsewhere it raises fault 0x02 with subcode 0x01. -/
def Obligations.TranslationInvalidation : Prop :=
  ∀ (x : Insn) (s : State) (d : Nat),
    let g := x.thread
    let v := s.thread g
    s.domOf g = some d →
      (Issues s opTinv x →
        (v.ring ≠ 0 → Raises s s (.tinv x) g (Flt.mk' 0x02 0x01 0)) ∧
        (v.ring = 0 → v.stq = none → ∃ op : TinvOp, exec (.tinv x) s = .next (s.setThread g { v with tinv := some op }) ∧
          op.insn = x ∧
          op.mode = x.immRI.toNat ∧ op.va = (v.reg x.rs2).toNat % 2 ^ 48 ∧ op.root = bitsOf (v.sysNat Sys.xlate) 51 12 ∧
          ∀ c, c ∈ op.wait ↔ c < 128 ∧ (s.domain d).tiles.getLsbD (c / 2) = true)) ∧
      ∀ op : TinvOp, v.tinv = some op →
        (∀ c, c ∈ op.wait → (∀ o ∈ (s.core c).spec, o.walk = []) → ∃ t, exec (.tinvInvalidate g c) s = .next t ∧
          t = { s with threads := t.threads, cores := t.cores } ∧
          t.thread g = { v with tinv := some { op with wait := op.wait.filter (· != c) } } ∧
          (∀ k, k ≠ c → t.core k = s.core k) ∧ ∃ l m, t.core c = { s.core c with tlb := l, walker := m } ∧
            (∀ e, e ∈ l ↔ e ∈ (s.core c).tlb ∧ ¬(e.dom = d ∧
              (op.mode = 0 → (e.root = op.root ∨ e.g = true) ∧ e.va = op.va / 2 ^ e.bits * 2 ^ e.bits) ∧
              (op.mode = 1 → e.root = op.root ∧ e.g = false))) ∧
            ∀ w, w ∈ m ↔ w ∈ (s.core c).walker ∧ ¬(w.dom = d ∧
              (op.mode = 0 → w.root = op.root ∧ w.at_ = op.va / 2 ^ (12 + 9 * w.level)) ∧ (op.mode = 1 → w.root = op.root))) ∧
        (op.wait = [] → v.psw.ss = false → ∃ t, exec (.tinvAckComplete g) s = .next t ∧
          Retired (s.fetched g (opTinv.length op.insn)) t g (v.pc + BitVec.ofNat 64 (opTinv.length op.insn)) { v with tinv := none })

/-- The delivery of an event through its descriptor (R214): the 64-byte frame on the stack of the target ring, the window slid by
24, the fault-report registers, PSW with the ring and the highest of the masks, sp at the frame and IP at the handler. -/
def Obligations.DeliveryEntersTheHandler : Prop :=
  ∀ (s : State) (g : Nat) (e : Event) (d : GateDesc) (rs : List ByteRef),
    EntryReady s g e d rs → d.hip < 2 ^ 48 → Entered s (s.deliver g e) g e d rs

/-- A synchronous fault at or below the mask of its class escalates to 0x16 with subcode 0x01, whose ECAUSE records it (R212). -/
def Obligations.MaskedFaultsEscalate : Prop :=
  ∀ (s : State) (g : Nat) (f : Flt) (d : GateDesc) (rs : List ByteRef),
    let e := faultEvent s g f
    let up : Event := { e with code := 0x16, sub := 0x01 }
    classLevel f.code < 15 → classLevel f.code ≤ (s.thread g).psw.ml.toNat → EntryReady s g up d rs →
      let t := s.fault g f
      (t.thread g).ip = BitVec.ofNat 48 d.hip ∧
      (t.thread g).sysGet Sys.cause = BitVec.ofNat 64 (0x16 + 2 ^ 8 + d.tpl * 2 ^ 16) ∧
      (t.thread g).sysGet Sys.faddr = f.faddr ∧ (t.thread g).sysGet Sys.efaddr = f.faddr ∧
      (t.thread g).sysGet Sys.ecause = BitVec.ofNat 64 (f.code + f.sub * 2 ^ 8 + 2 ^ 16)

/-- The events at a boundary: BRK retires and leaves trap 0x17 with subcode 0x01 for the boundary after it (R232, R233); the
presented interrupt that is takeable is delivered through its descriptor and is no longer pending (R214, R227 to R232); the held
tile-stream fault is delivered and no longer held (R205); a machine check records its error and is delivered as 0x30, or wedges a
thread already in its handler, and waits for the boundary after a TINV (R239, R240); a corrected error counts for both threads of
its core (R239). -/
def Obligations.EventsAtABoundary : Prop :=
  ∀ (s : State) (g : Nat),
    let v := s.thread g
    (∀ x : Insn, x.thread = g → let o := Op.plain false .n (fun _ => true)
      Issues s o x → v.psw.ss = false →
      ∃ t r, exec (.brk x) s = .next t ∧ Retired (fetchedFor s o x) r g (s.after o x) v ∧
        t = r.setThread g { r.thread g with traps := v.traps ++
          [{ code := 0x17, sub := 1, fip := v.pc, faddr := 0, atIp := (r.thread g).ip, atSp := v.reg 39 }] }) ∧
    (∀ n l m d rs, v.issues = true → v.checks = [] → v.tileFaultDue = none → v.trapHere = none → v.deliveryWaits = false → g < 256 →
      n < 1024 → l < 16 →
      s.presented g = some (n, l) → s.takeable g (sourceCause n) l = true → s.domOf g = some m →
      let e : Event := { code := sourceCause n, sub := 0, faddr := BitVec.ofNat 64 (n + l * 2 ^ 16), fip := v.pc,
                         fprog := BitVec.ofNat 64 v.prog, retIp := v.pc, level := some l, gate := false }
      EntryReady s g e d rs → ∃ t s1, exec (.interruptDelivery g) s = .next t ∧ Entered s s1 g e d rs ∧
        t = { s1 with domains := t.domains, ports := t.ports } ∧ ((t.domain m).src n).pend = false ∧
        ∀ k, k ≠ n → (t.domain m).src k = (s.domain m).src k) ∧
    (∀ c u d rs, v.issues = true → v.checks = [] → v.deliveryWaits = false → g < 256 → v.tile.held = some (c, u) →
      v.psw.ml.toNat < classLevel c →
      let s1 := s.setThread g { v with tile := { v.tile with held := none } }
      let e : Event := { code := c, sub := u, faddr := v.tile.faddr, fip := v.pc, fprog := 0, retIp := v.pc, level := none,
                         gate := false }
      EntryReady s1 g e d rs → d.hip < 2 ^ 48 →
        ∃ t, exec (.tileStreamFaultDelivery g) s = .next t ∧ Entered s1 t g e d rs ∧ (t.thread g).tile.held = none) ∧
    (∀ e : HwError, e.thread = g → v.run = .running → g < 256 →
      let sub := if e.corrupt then 2 else 1
      (v.tinv.isSome = true → exec (.machineCheck e) s = .next (s.setThread g { v with checks := v.checks ++ [e] })) ∧
      (v.tinv = none → v.revoke = none → bitOf (v.sysNat Sys.estat) 10 = true →
        ∃ t, exec (.machineCheck e) s = .next t ∧ (t.thread g).run = .wedged) ∧
      (v.tinv = none → v.revoke = none → bitOf (v.sysNat Sys.estat) 10 = false → ∃ s1 : State,
        exec (.machineCheck e) s = .next (s1.deliver g
          { code := 0x30, sub := sub, faddr := 0, fip := v.pc, fprog := 0, retIp := v.pc, level := none, gate := false }) ∧
        s1.dram = s.dram ∧ bitOf ((s1.thread g).sysNat Sys.estat) 10 = true ∧
        (bitsOf (v.sysNat Sys.estat) 6 3 < 8 → bitsOf ((s1.thread g).sysNat Sys.estat) 6 3 = bitsOf (v.sysNat Sys.estat) 6 3 + 1))) ∧
    (∀ e : HwError, e.thread / 2 = g / 2 → e.unit ≤ 8 → ∃ t, exec (.correctedError e) s = .next t ∧ t.dram = s.dram ∧
      (t.thread g).sysNat (Sys.ecnt e.unit) =
        if v.sysNat (Sys.ecnt e.unit) = 0xFFFFFFFF then 0xFFFFFFFF else (v.sysNat (Sys.ecnt e.unit) + 1) % 2 ^ 64)

/-! ### The tile extension -/

/-- A tile instruction that does not join enters the Tile Queue with its captured register, ring and address, and retires (R299,
R302); a queued WRSR writes its register from the head of the queue (R293); a TWAIT waits until its count is reached, and stops
the stream when the counter carries an error (R429, R430); a TFENCE completes at the head (R304).
TSYNC on an empty queue retires and changes nothing else (R305). TMOV to a scalar register copies one element, zero-extended.
On a stopped stream both raise the recorded fault. TQRY writes the state of the stream (R311), and TRESUME restarts a stopped
stream, at row DONE, past its head, or with nothing queued (R310). -/
def Obligations.TileQueueInOrderAndJoined : Prop :=
  ((∀ (t : TileInsn) (s : State),
     let v := s.thread t.thread
     t.joins = false → TileIssues s t → v.tile.queue.length < 32 →
       TileEnds s (.tileQueueEnter t) t (fun s' u => s' = tileFetched s t ∧ ∃ e : TqEntry,
         u = { v with tile := { v.tile with queue := v.tile.queue ++ [e] } } ∧
         e.op = .tile t ∧ e.ring = v.psw.pl.toNat ∧ e.ip = some v.pc ∧
         (t.esc = 0xE9 → e.value = v.reg (t.fw % 64)) ∧
         (t.esc ≠ 0xE9 → t.op.toNat ∈ [3, 4, 5, 6, 0x18, 0x19] → e.value = v.reg (bitsOf t.fw 23 18)) ∧
         (t.esc ≠ 0xE9 → t.op.toNat = 7 → e.value = v.reg (bitsOf t.fw 24 19)))) ∧
   ∀ (g : Nat) (s : State) (e : TqEntry),
     let v := s.thread g
     let c := s.core (g / 2)
     (∀ n r, s.tileHead g = some e → v.tile.timed = [] → e.op = .wrsr n r → n ≠ Sys.tctl →
       HeadDone s (.queuedWrsrApply g) g (fun u => u.tile.data = v.tile.data ∧ u.tile.inuse = v.tile.inuse ∧ SysBut v u [n] ∧
         u.sysGet n = (v.sysGet n &&& ~~~BitVec.ofNat 64 (sysMask n)) ||| (e.value &&& BitVec.ofNat 64 (sysMask n)))) ∧
     (∀ r, s.tileHead g = some e → v.tile.timed = [] → e.op = .wrsr Sys.tctl r →
       (e.ring = 0 → bitsOf e.value.toNat 9 8 ≠ 3 → bitsOf e.value.toNat 9 8 ≠ c.mode →
         exec (.queuedWrsrApply g) s = .next (s.onCore (g / 2) (fun c => { c with modeDrain := some g }))) ∧
       (e.ring ≠ 0 ∨ bitsOf e.value.toNat 9 8 = 3 ∨ bitsOf e.value.toNat 9 8 = c.mode →
         HeadDone s (.queuedWrsrApply g) g (fun u => u.tile.data = v.tile.data ∧ u.tile.inuse = v.tile.inuse ∧
           SysBut v u [Sys.tctl] ∧ u.sysGet Sys.tctl = e.value &&& 0x7F))) ∧
     (∀ k r, (s.core k).modeDrain = some g → s.getInFlight (2 * k) = false → s.getInFlight (2 * k + 1) = false →
       (s.thread (2 * k)).tile.move = none → (s.thread (2 * k + 1)).tile.move = none → v.tile.queue.head? = some e →
         e.op = .wrsr Sys.tctl r → e.ring = 0 → bitsOf e.value.toNat 9 8 ≠ 3 →
       bitsOf e.value.toNat 9 8 ≠ (s.core (g / 2)).mode →
         ∃ u, exec (.swardModeChange k) s = .next ((s.setThread g u).onCore k (fun c =>
             { c with modeDrain := none, mode := bitsOf e.value.toNat 9 8, owner := g % 2 })) ∧
           Popped v u ∧ u.tile.data = v.tile.data ∧ u.tile.inuse = v.tile.inuse ∧ SysBut v u [Sys.tctl] ∧
             u.sysGet Sys.tctl = e.value &&& 0x7F) ∧
     ∀ t : TileInsn,
       let alone (o : Nat) : Prop := s.tileHead g = some e ∧ e.op = .tile t ∧ t.op.toNat = o ∧ v.tile.timed = []
       (alone 0x11 →
         exec (.twait g) s = .next (s.onThread g (fun v => { v with tile := { v.tile with waiting := true } })) ∧
         (v.tile.waiting = true →
           let count := (FMap.get c.scnt (t.fw % 16) 0).toNat
           let past := (count + (2 ^ 32 - t.i.toNat)) % 2 ^ 32
           (2 ^ 31 ≤ past → exec (.twaitRelease g) s = .next s) ∧
           (past < 2 ^ 31 → bitOf count 32 = false →
             HeadDone s (.twaitRelease g) g (fun u => u.tile.data = v.tile.data ∧ u.sys = v.sys ∧ u.tile.inuse = v.tile.inuse)) ∧
           (past < 2 ^ 31 → bitOf count 32 = true → exec (.twaitRelease g) s = .next (s.stopTile g 0x13 0x08 0 0)))) ∧
       (alone 0x13 →
         HeadDone s (.tfence g) g (fun u => u.tile.data = v.tile.data ∧ u.sys = v.sys ∧ u.tile.inuse = v.tile.inuse))) ∧
  ∀ (t : TileInsn) (s : State),
    let g := t.thread
    let v := s.thread g
    let p := v.sysNat Sys.tprog
    let stopped := bitOf p 63 = true
    let same (s' : State) : Prop := s' = tileFetched s t
    TileIssues s t → v.tile.timed = [] →
      (t.op.toNat = 0x12 →
        (bitOf p 63 = false → v.tile.queue = [] → s.sward g = true → TileEnds s (.tsync t) t (fun s' u => same s' ∧ u = v)) ∧
        (stopped → bitOf t.fw 0 = true → s.sward g = true → TileEnds s (.tsync t) t (fun s' u => same s' ∧ u = v)) ∧
        (stopped → bitOf t.fw 0 = false → v.tile.held = none →
          Raises s s (.tsync t) g (Flt.mk' (bitsOf p 39 32) (bitsOf p 47 40) v.tile.faddr)) ∧
        (∀ c u, stopped → bitOf t.fw 0 = false → v.tile.held = some (c, u) →
          Raises s (s.setThread g { v with tile := { v.tile with held := none } }) (.tsync t) g (Flt.mk' c u v.tile.faddr))) ∧
      (t.op.toNat = 7 → bitOf t.fw 0 = false → bitOf p 63 = false → v.tile.queue = [] → s.sward g = true →
        let code := bitsOf t.fw 5 1
        let w := if 16 ≤ code then 32 else if 8 ≤ code then 8 else typeWidth (bitsOf (v.sysNat (Sys.tcfg code)) 3 0)
        let row := bitsOf t.fw 11 6
        let el := bitsOf t.fw 18 12
        row < regRows code → el < rowBytes code * 8 / w →
          TileEnds s (.tmovToScalar t) t (fun s' u => same s' ∧
            u = v.setReg (bitsOf t.fw 24 19) (BitVec.ofNat 64 ((elemsOf w (v.tile.row code row)).getD el 0)))) ∧
      (t.op.toNat = 0x17 →
        TileEnds s (.tqry t) t (fun s' u => same s' ∧ ∃ r : Word, u = v.setReg (t.fw % 64) r ∧
          bitsOf r.toNat 5 0 = v.tile.queue.length % 64 ∧ bitOf r.toNat 6 = bitOf p 63 ∧
          bitOf r.toNat 7 = v.tile.held.isSome ∧ bitsOf r.toNat 15 8 = bitsOf p 39 32 ∧
          bitsOf r.toNat 23 16 = bitsOf p 47 40 ∧ (bitOf r.toNat 24 = true ↔ v.tile.inuse ≠ 0) ∧
          bitOf r.toNat 25 = bitOf (v.sysNat Sys.txprog) 0 ∧ r.toNat < 2 ^ 26)) ∧
      (t.op.toNat = 0x16 →
        let resumed (n row : Nat) (u : Thread) : Prop :=
          u = { v with sys := u.sys, tile := { v.tile with
            queue := v.tile.queue.drop n, held := none, waiting := false, move := none, resume := row } } ∧
          SysBut v u [Sys.tprog] ∧ u.sysGet Sys.tprog = 0
        (t.fw = 0 → stopped → TileEnds s (.tresume t) t (fun s' u => same s' ∧ resumed 0 (bitsOf p 6 0) u)) ∧
        (t.fw = 1 → stopped → TileEnds s (.tresumeSkip t) t (fun s' u => same s' ∧ resumed 1 0 u)) ∧
        (2 ≤ t.fw → stopped → v.tile.queue ≠ [] →
          TileEnds s (.tresumeFlush t) t (fun s' u => same s' ∧ resumed v.tile.queue.length 0 u)))

/-- TCFG writes a checked configuration word or stops with the subcode of the first check that fails (R300), TZERO clears a
register and its TINUSE bit (R294), and TMOV to a tile writes the low bits of the captured value into one element (R405). A stop
records the fault, its instruction and the rows done, and leaves the queue (R307). In Fixed-time mode an instruction issues in the
next cycle of its schedule and keeps its queue entry (R411), and a row read in a cycle gives what the row holds before that
cycle's writes (R405). -/
def Obligations.TileRegistersAndStops : Prop :=
  ∀ (g : Nat) (s : State) (e : TqEntry) (t : TileInsn),
    let v := s.thread g
    let c := bitsOf t.fw 25 8
    (AtHead s g e t 1 →
      (bitsOf c 3 0 = 0 → HeadDone s (.tcfg g) g (fun u => u.tile.data = v.tile.data ∧ u.tile.inuse = v.tile.inuse ∧
        SysBut v u [Sys.tcfg (t.fw % 8)] ∧ u.sysNat (Sys.tcfg (t.fw % 8)) = 0)) ∧
      (1 ≤ bitsOf c 3 0 → bitsOf c 3 0 ≤ 8 → 1 ≤ bitsOf c 10 4 → bitsOf c 10 4 ≤ 64 →
        bitsOf c 13 12 = 0 ∨ (bitsOf c 13 12 < 3 ∧ bitsOf c 3 0 < 6 ∧ blkOk (bitsOf c 3 0) (bitsOf c 16 14) (bitOf c 17) = true) →
        HeadDone s (.tcfg g) g (fun u => u.tile.data = v.tile.data ∧ u.tile.inuse = v.tile.inuse ∧
          SysBut v u [Sys.tcfg (t.fw % 8)] ∧ u.sysNat (Sys.tcfg (t.fw % 8)) = setBits c 11 11 0)) ∧
      (8 < bitsOf c 3 0 → exec (.tcfg g) s = .next (s.stopTile g 0x11 0x01 0 0)) ∧
      (1 ≤ bitsOf c 3 0 → bitsOf c 3 0 ≤ 8 → bitsOf c 10 4 = 0 ∨ 64 < bitsOf c 10 4 →
        exec (.tcfg g) s = .next (s.stopTile g 0x11 0x02 0 0))) ∧
    (AtHead s g e t 2 → t.fw < 20 →
      HeadDone s (.tzero g) g (fun u => u.sys = v.sys ∧ DataBut v u t.fw ∧
        (∀ a, regBase t.fw ≤ a → a < regBase t.fw + regBytes t.fw → Mem.byte u.tile.data a = 0) ∧
        ∀ j, j < 20 → (u.tile.inuse.getLsbD j = true ↔ v.tile.inuse.getLsbD j = true ∧ j ≠ t.fw))) ∧
    (AtHead s g e t 7 →
      let code := bitsOf t.fw 5 1
      let w := if 16 ≤ code then 32 else if 8 ≤ code then 8 else typeWidth (bitsOf (v.sysNat (Sys.tcfg code)) 3 0)
      let per := rowBytes code * 8 / w
      let row := bitsOf t.fw 11 6
      let el := bitsOf t.fw 18 12
      (code < 20 → row < regRows code → el < per →
        HeadDone s (.tmovToTile g) g (fun u => u.sys = v.sys ∧
          Wrote v u code w per (fun k => if k = row * per + el then
            some { val := e.value.toNat % 2 ^ w, nan := false, inf := false, ovf := false, sat := false } else none))) ∧
      (regRows code ≤ row ∨ per ≤ el → exec (.tmovToTile g) s = .next (s.stopTile g 0x11 0x06 0 0))) ∧
    (∀ (code sub done : Nat) (a ip : Word), v.tile.queue.head? = some e → e.ip = some ip →
      ∃ u, s.stopTile g code sub a done = s.setThread g u ∧ SysBut v u [Sys.tprog, Sys.tqip] ∧
        u = { v with sys := u.sys, tile := { v.tile with
          held := some (code, sub), faddr := a, waiting := false, move := none, resume := 0 } } ∧
        u.sysNat Sys.tqip = ip.toNat % 2 ^ 48 ∧
        (code < 256 → sub < 256 →
          u.sysNat Sys.tprog = done % 128 + code * 2 ^ 32 + sub * 2 ^ 40 + 2 ^ 63)) ∧
    (∀ i o, (i, o) ∈ [(Instr.tzero g, 0x02), (.tscl g, 0x0A), (.tadd g, 0x0C), (.tmul g, 0x0D), (.tmax g, 0x0E), (.tmin g, 0x0F)] →
      s.tileHead g = some e → e.op = .tile t → t.op.toNat = o → (s.core (g / 2)).mode = 2 → v.tile.timed = [] →
      v.tile.move = none →
        exec i s = .next (s.setThread g { v with tile := { v.tile with
          resume := 0
          timed := [{ entry := e, insn := t, at_ := v.tile.clock, move := none, sys := v.sys, snap := [], rows := [] }] } })) ∧
    ∀ (i : Nat) (o : TimedOp) (code row : Nat), v.tile.timed[i]? = some o → o.at_ ≤ v.tile.clock →
      (code, row) ∈ o.readsAt (v.tile.clock - o.at_) →
        ∃ o' : TimedOp, ((s.timedCycle g).thread g).tile.timed[i]? = some o' ∧
          Mem.block o'.snap (regBase code + row * rowBytes code) (rowBytes code) = v.tile.row code row

/-- The arithmetic tile instructions (R371 to R383, R354 to R359): every element of the destination that the instruction gives,
under TCTL.RM and TCTL.SAT, with the flags and records of TSTAT and TFIRST.
The exact group of TMMA.E does not depend on the order of its members, and, where no finite member reaches below bit L − 65,
it is the exact sum rounded once (R374, R376). The round-each tree over 32 leaves adds neighbours in index order (R378). -/
def Obligations.TileArithmeticIsExact : Prop :=
  (∀ (g : Nat) (s : State) (e : TqEntry) (t : TileInsn),
     let v := s.thread g
     let ctl := v.sysNat Sys.tctl
     let rm := bitsOf ctl 1 0
     let d := t.fw % 4
     let a := bitsOf t.fw 3 2
     let b := bitsOf t.fw 5 4
     let x (k : Nat) : Nat := accElem v a k
     let y (k : Nat) : Nat := accElem v b k
     let each (i : Instr) (o : Nat) (f : Nat → FOut) : Prop :=
       AtHead s g e t o → HeadDone s i g (fun u => WroteF32 v u d (fun k => if k < 4096 then some (f k) else none))
     let m := bitsOf t.fw 4 2
     let n := bitsOf t.fw 7 5
     let cm := v.sysNat (Sys.tcfg m)
     let cn := v.sysNat (Sys.tcfg n)
     let k := min (typeK (bitsOf cm 3 0)) (typeK (bitsOf cn 3 0))
     let floats (exact_ : Bool) : Prop :=
       ∀ c ∈ [cm, cn], 1 ≤ bitsOf c 3 0 ∧ bitsOf c 3 0 < 6 ∧ (exact_ = true → bitsOf c 13 12 ≠ 2)
     let product (i : Instr) (exact_ : Bool) (dot : List Machine.Num → List Machine.Num → Nat → FOut) : Prop :=
       AtHead s g e t 8 → bitsOf t.fw 9 8 = (if exact_ then 1 else 2) ∨ (bitsOf t.fw 9 8 = 0 ∧ bitOf ctl 6 = !exact_) →
         floats exact_ →
           HeadDone s i g (fun u => WroteF32 v u d (fun i => if i / 64 < min (bitsOf cm 10 4) 64 ∧ i % 64 < min (bitsOf cn 10 4) 64
             then some (dot ((operandNums v.tile cm m k).getD (i / 64) []) ((operandNums v.tile cn n k).getD (i % 64) [])
               (accElem v d i)) else none))
     NoNumericTrap v →
       each (.tadd g) 0x0C (fun k => tileAdd binary32 rm (exactOut (x k)) (exactOut (y k))) ∧
       each (.tmul g) 0x0D (fun k => tileMul rm (x k) (y k)) ∧
       each (.tmax g) 0x0E (fun k => exactOut (binary32.minMax true (x k) (y k)).val) ∧
       each (.tmin g) 0x0F (fun k => exactOut (binary32.minMax false (x k) (y k)).val) ∧
       each (.tscl g) 0x0A (fun k => tileMul rm (x k) (v.sysNat (Sys.ts b) % 2 ^ 32)) ∧
       (AtHead s g e t 0x10 →
         let row (i : Nat) : List Nat := (List.range 64).map (fun j => x (64 * i + j))
         let column (i : Instr) (f : List Nat → FOut) : Prop :=
           HeadDone s i g (fun u => WroteF32 v u d (fun k =>
             if k < 4096 ∧ k % 64 = bitsOf t.fw 10 5 then some (f (row (k / 64))) else none))
         (bitOf t.fw 4 = false → column (.tredSum g) (fun l => treeRoot rm 6 (l.map exactOut))) ∧
         (bitOf t.fw 4 = true → column (.tredMax g) rowMax)) ∧
       product (.tmmaE g) true (dotExact rm) ∧ product (.tmmaF g) false (dotRounded rm k) ∧
       (AtHead s g e t 9 → (∀ c ∈ [cm, cn], 6 ≤ bitsOf c 3 0) →
         HeadDone s (.tmmai g) g (fun u => Wrote v u (16 + d) 32 64 (fun i =>
           if i / 64 < min (bitsOf cm 10 4) 64 ∧ i % 64 < min (bitsOf cn 10 4) 64 then
             let sum := ((List.zipWith (· * ·) ((operandInts v.tile cm m k).getD (i / 64) [])
               ((operandInts v.tile cn n k).getD (i % 64) [])).sum + (BitVec.ofNat 32 (accElem v d i)).toInt)
             let exceeds := decide (sum < -2 ^ 31) || decide (2 ^ 31 ≤ sum)
             some { val := if exceeds && bitOf ctl 3 then (if sum < 0 then 0x80000000 else 0x7FFFFFFF) else (sum % 2 ^ 32).toNat,
                    nan := false, inf := false, ovf := exceeds, sat := exceeds && bitOf ctl 3 }
           else none))) ∧
       (AtHead s g e t 0x0B →
         let ty := bitsOf t.fw 8 5
         let part := bitsOf t.fw 10 9
         let dst := bitsOf t.fw 4 2
         let w := if ty = 3 ∨ ty = 6 ∨ ty = 9 then 4 else if ty = 4 ∨ ty = 5 then 16 else 8
         let from_ (i : Nat) : Nat := accElem v d i
         let elem (i : Nat) : Elem :=
           match cvtElem ty rm (from_ i) with
           | .float o => Elem.ofFloat (typeFmt ty) (bitOf ctl 2) o
           | .int r c => { val := r, nan := false, inf := false, ovf := false, sat := c }
         1 ≤ ty → ty ≤ 11 → part ≤ 1 → (w = 8 → part = 0) →
           HeadDone s (.tcvt g) g (fun u => Wrote v u dst w (512 / w) (fun i =>
             if w = 4 then (if i < 8192 ∧ i % 128 / 64 = part then some (elem (i / 128 * 64 + i % 64)) else none)
             else if w = 16 then (if i < 2048 then some (elem (i / 32 * 64 + 32 * part + i % 32)) else none)
             else if i < 4096 then some (elem i) else none)))) ∧
  (∀ (rm : Nat) (l m : List Machine.Num), l.Perm m → exactGroup rm l = exactGroup rm m) ∧
  (∀ (rm : Nat) (l : List Machine.Num) (low : Int),
    (∀ x ∈ l, ∃ n m e, x = .fin n m e ∧ low ≤ e) →
    (∀ x ∈ l, ∀ n m e, x = .fin n m e → m ≠ 0 → e + (bitLen m : Int) - 1 - 65 ≤ low) →
    (∃ x ∈ l, ∃ n m e, x = .fin n m e ∧ m ≠ 0) →
      let sum := (l.map (fun x => match x with | .fin n m e => signedAt n m e low | _ => 0)).sum
      exactGroup rm l =
        if sum = 0 then { val := if rm = 3 then 0x80000000 else 0, exc := 0 } else binary32.roundInt rm sum low) ∧
  ∀ (rm : Nat) (l : List FOut), l.length = 32 →
    treeRoot rm 5 l = tileAdd binary32 rm (treeRoot rm 4 (l.take 16)) (treeRoot rm 4 (l.drop 16))

/-- TLD, TST, TLDA and TSTA (R297, R298, R303, R417): the move that the instruction or its descriptor gives, and the rows that the
command moves, one after the other, between a register and the thread's window of the TSB or the domain's own DRAM, whose lines
the core holds (R463). The entry is freed after the last row. A first row outside the TSB window stops the stream with fault 0x13
and subcode 0x07.
TSAVE and TRSTR over an area in the domain's own DRAM, with no interrupted run to continue and not cut (R316 to R320): TSAVE
writes the header, the registers marked in TINUSE and the word with FORMAT 0x01, and empties a stopped stream; TRSTR writes the
registers of the saved mask, zero elsewhere, and the control state, or raises fault 0x11 for its header.
That TSAVE of a stopped stream clears all of TPROG and leaves TQIP, and that TRSTR with STOP = 0 sets TPROG to 0 and leaves TQIP,
is the model's choice (log 28). -/
def Obligations.TileMemoryMovesAndSaves : Prop :=
  (∀ (g : Nat) (s : State) (e : TqEntry) (t : TileInsn),
     let v := s.thread g
     let core := s.core (g / 2)
     let op := t.op.toNat
     let fits (m : TileMove) : Prop :=
       m.row0 + m.nrow ≤ regRows m.code ∧ (core.mode = 2 → m.tsb = true) ∧ m.base % 64 = 0 ∧ m.stride % 64 = 0
     let named : TileMove :=
       { code := t.fw % 32, row0 := bitsOf t.fw 10 5, nrow := bitsOf t.fw 17 11, base := e.value.toNat, stride := t.i.toInt,
         tsb := !t.fabric && bitOf t.fw 24, win := bitsOf t.fw 26 24, e := t.e.toNat }
     let a := e.value.toNat
     let q (o : Nat) : Nat := leNat (Mem.read s.dram (a + o) 8)
     let f := q 16
     let described : TileMove :=
       { code := f % 32, row0 := bitsOf f 10 5, nrow := bitsOf f 17 11, base := q 0, stride := (BitVec.ofNat 64 (q 8)).toInt,
         tsb := !t.fabric && bitOf f 24, win := bitsOf f 26 24, e := q 24 }
     let setUp (m : TileMove) (s1 : State) : Prop := ∀ k : TileMove → State → State, s.moveSetup g e t k = k m s1
     let issued (m : TileMove) (s1 : State) : State := s1.setThread g { v with tile := { v.tile with move := some m } }
     op ∈ [3, 4, 5, 6, 0x18, 0x19] →
       (∀ m, v.tile.move = some m → setUp m s) ∧
       (v.tile.move = none → t.esc ≠ 0xE9 → fits named → setUp named (issued named s)) ∧
       (v.tile.move = none → t.esc = 0xE9 → a % 32 = 0 → OwnDram s g a 32 → LinesHeld s g a 32 false →
         f < 2 ^ (if t.fabric then 27 else 25) → bitsOf f 23 18 = 0 → q 24 < (if t.fabric then 64 else 1) →
         (if op = 5 ∨ op = 6 then 16 ≤ f % 32 ∧ f % 32 < 20 else f % 32 < 16) → 1 ≤ bitsOf f 17 11 → bitsOf f 17 11 ≤ 64 →
           fits described → ∃ s1, Marked s s1 ∧ s1.dram = s.dram ∧ setUp described (issued described s1)) ∧
       ∀ (m : TileMove) (s1 : State) (rows : Option Nat), setUp m s1 →
         let v1 := s1.thread g
         let core1 := s1.core (g / 2)
         let i0 := v1.tile.resume
         let n := rows.getD (m.nrow - i0)
         let moved (i : Nat) : Prop := i0 ≤ i ∧ i < i0 + n ∧ i < m.nrow
         let rb := rowBytes m.code
         let lo := bitsOf (v.sysNat Sys.tsbbase) 18 12 * 4096
         let hi := bitsOf (v.sysNat Sys.tsblim) 19 12 * 4096
         let inside (own : Bool) (i : Nat) : Prop :=
           if m.tsb then lo ≤ m.at_ i ∧ m.at_ i + rb ≤ hi
           else OwnDram s1 g (m.at_ i) rb ∧ LinesHeld s1 g (m.at_ i) rb own
         let clean (i : Nat) : Prop := m.tsb = true → ∀ l, l < rb / 64 → m.at_ i / 64 + l ∉ core1.poison
         let mem (i j : Nat) : Byte :=
           if m.tsb then (Mem.block core1.tsb (m.at_ i) rb).getD j 0 else Mem.byte s1.dram (m.at_ i + j)
         let reg (r j : Nat) : Nat := regBase m.code + r * rb + j
         let on (u : Thread) : Prop :=
           if m.nrow ≤ i0 + n then Popped v1 u
           else u = { v1 with tile := { v1.tile with data := u.tile.data, inuse := u.tile.inuse, resume := i0 + n } }
         let load (i : Instr) (o : Nat) : Prop :=
           AtHead s g e t o → (∀ i, moved i → inside false i ∧ clean i) →
             ∃ s' u, exec i s = .next (s'.setThread g u) ∧ Marked s1 s' ∧ s'.dram = s1.dram ∧ on u ∧ u.sys = v1.sys ∧
               DataBut v1 u m.code ∧
               (∀ r j, r < regRows m.code → j < rb → Mem.byte u.tile.data (reg r j) =
                 if m.row0 + i0 ≤ r ∧ r < m.row0 + min m.nrow (i0 + n) then mem (r - m.row0) j
                 else Mem.byte v1.tile.data (reg r j)) ∧
               ∀ c, c < 20 → (u.tile.inuse.getLsbD c = true ↔ v1.tile.inuse.getLsbD c = true ∨
                 (c = m.code ∧ ∃ i j, moved i ∧ j < rb ∧ mem i j ≠ 0))
         let kept (u : Thread) : Prop := on u ∧ u.sys = v1.sys ∧ u.tile.data = v1.tile.data ∧ u.tile.inuse = v1.tile.inuse
         let stored (old new : Mem) : Prop :=
           (∀ b, (∀ i, moved i → b < m.at_ i ∨ m.at_ i + rb ≤ b) → Mem.byte new b = Mem.byte old b) ∧
           ∀ i j, moved i → j < rb →
             (∀ k, i < k → moved k → m.at_ i + j < m.at_ k ∨ m.at_ k + rb ≤ m.at_ i + j) →
               Mem.byte new (m.at_ i + j) = (v1.tile.row m.code (m.row0 + i)).getD j 0
         let store (i : Instr) (o : Nat) : Prop :=
           AtHead s g e t o → (∀ i, moved i → inside true i) →
             ∃ s' u, exec i s = .next (s'.setThread g u) ∧ kept u ∧
               (m.tsb = false → Marked s1 s' ∧ stored s1.dram s'.dram) ∧
               (m.tsb = true → s' = { s1 with cores := s'.cores } ∧ (∀ c, c ≠ g / 2 → s'.core c = s1.core c) ∧
                 s'.core (g / 2) = { core1 with tsb := (s'.core (g / 2)).tsb, poison := (s'.core (g / 2)).poison } ∧
                 stored core1.tsb (s'.core (g / 2)).tsb ∧
                 ∀ l, l ∈ (s'.core (g / 2)).poison ↔ l ∈ core1.poison ∧
                   ∀ i, moved i → 64 * l < m.at_ i ∨ m.at_ i + rb < 64 * l + 64)
         load (.tld ⟨g, rows⟩) 3 ∧ load (.tlda ⟨g, rows⟩) 5 ∧ store (.tst ⟨g, rows⟩) 4 ∧ store (.tsta ⟨g, rows⟩) 6 ∧
         (m.tsb = true → moved i0 → m.at_ i0 < lo ∨ hi ≤ m.at_ i0 →
           ∀ i o, (i, o) ∈ [(Instr.tld ⟨g, rows⟩, 3), (.tst ⟨g, rows⟩, 4), (.tlda ⟨g, rows⟩, 5), (.tsta ⟨g, rows⟩, 6)] →
             AtHead s g e t o →
             exec i s = .next (s1.stopTile g 0x13 0x07 (BitVec.ofNat 64 (m.at_ i0)) i0))) ∧
  ∀ (t : TileInsn) (units : Option Nat) (s : State),
    let g := t.thread
    let v := s.thread g
    let f := tileFetched s t
    let area := bitsOf (v.sysNat Sys.tsavea) 47 12 * 4096
    let stopped := bitOf (v.sysNat Sys.tprog) 63
    let slot (c j : Nat) : Nat := area + 0x400 + regBase c + j
    let uncut (l : List Nat) (own : Bool) : Prop :=
      (∀ k, units = some k → l.length ≤ k) ∧
        ∀ off ∈ l, LinesHeld s g (area + off) 64 own ∧ LinesHeld f g (area + off) 64 own
    TileIssues s t → v.tile.timed = [] → (v.tile.queue = [] ∨ stopped = true) → s.sward g = true →
      bitOf (v.sysNat Sys.txprog) 0 = false → OwnDram s g area 0x19400 →
        (t.op.toNat = 0x14 → uncut (saveUnits v.tile.inuse) true →
          TileEnds s (.tsave t units) t (fun s' u =>
            Marked f s' ∧
            u = { v with sys := u.sys, tile := if stopped then
                { v.tile with queue := [], held := none, waiting := false, move := none, resume := 0 } else v.tile } ∧
            SysBut v u [Sys.tprog, Sys.txprog] ∧ u.sysGet Sys.tprog = (if stopped then 0 else v.sysGet Sys.tprog) ∧
            u.sysGet Sys.txprog = v.sysGet Sys.txprog &&& ~~~(1 : Word) ∧
            (let w := leNat (Mem.read s'.dram area 8)
             w % 256 = 1 ∧ bitOf w 8 = stopped ∧ bitOf w 9 = v.tile.held.isSome ∧
               bitsOf w 15 10 = (if stopped then v.tile.queue.length % 64 else 0) ∧ bitsOf w 35 16 = v.tile.inuse.toNat) ∧
            (∀ j, 8 ≤ j → j < 1024 → Mem.byte s'.dram (area + j) = v.saveHeader.getD j 0) ∧
            (∀ n, n ∈ [(8, Sys.tctl), (16, Sys.tstat), (24, Sys.tfirst), (48, Sys.tprog), (56, Sys.tqip)] →
              leNat (Mem.read s'.dram (area + n.1) 8) = v.sysNat n.2) ∧
            (∀ n, n < 8 → leNat (Mem.read s'.dram (area + 64 + 8 * n) 8) = v.sysNat (Sys.tcfg n)) ∧
            (∀ c, c < 20 → v.tile.inuse.getLsbD c = true → ∀ k j, k < regBytes c / 64 → j < 64 →
              Mem.byte s'.dram (slot c (64 * k + j)) = (Mem.block v.tile.data (regBase c + 64 * k) 64).getD j 0) ∧
            (∀ c, c < 20 → v.tile.inuse.getLsbD c = false → ∀ j, j < regBytes c →
              Mem.byte s'.dram (slot c j) = Mem.byte s.dram (slot c j)) ∧
            ∀ a, a < area ∨ area + 0x19400 ≤ a → Mem.byte s'.dram a = Mem.byte s.dram a)) ∧
        (t.op.toNat = 0x15 →
          let hdr := Mem.read s.dram area 1024
          let q (o : Nat) : Word := BitVec.ofNat 64 (leNat (Mem.read s.dram (area + o) 8))
          let mask := bitsOf (q 0).toNat 35 16
          let stop := bitOf (q 0).toNat 8
          uncut (saveUnits (BitVec.ofNat 20 mask)) false →
          (∀ sub, headerCheck g hdr = .error sub →
            ∃ s1, Marked s s1 ∧ s1.dram = s.dram ∧ Raises s s1 (.trstr t units) g (Flt.mk' 0x11 sub 0)) ∧
          (((q 0).toNat % 256 ≠ 1 ∨ 32 < bitsOf (q 0).toNat 15 10) → headerCheck g hdr = .error 0x0A) ∧
          ∀ residue, headerCheck g hdr = .ok residue →
            TileEnds s (.trstr t units) t (fun s' u =>
              Marked f s' ∧ s'.dram = s.dram ∧
              u = { v with sys := u.sys, tile := { u.tile with
                inuse := BitVec.ofNat 20 mask
                queue := if stop then residue.map (fun e => { e with ring := max e.ring v.psw.pl.toNat }) else []
                held := if bitOf (q 0).toNat 9 then some ((q 128).toNat % 256, bitsOf (q 128).toNat 15 8) else none
                faddr := q 136, waiting := false, move := none, resume := 0, timed := [], clock := 0 } } ∧
              (∀ c j, c < 20 → j < regBytes c → Mem.byte u.tile.data (regBase c + j) =
                if bitOf mask c then Mem.byte s.dram (slot c j) else 0) ∧
              u.sysGet Sys.tctl = q 8 &&& 0x7F ∧ u.sysGet Sys.tstat = q 16 &&& 0xFFFFFFFF00000007 ∧
              u.sysGet Sys.tfirst = q 24 &&& 0x3FFFF0003FFFF ∧
              (∀ n, n < 4 → u.sysNat (Sys.ts n) = leNat (Mem.read s.dram (area + 32 + 4 * n) 4)) ∧
              (∀ n, n < 8 → u.sysNat (Sys.tcfg n) = tcfgValue ((q (64 + 8 * n)).toNat % 2 ^ 18)) ∧
              (stop = false → u.sysGet Sys.tprog = 0 ∧ u.sysGet Sys.tqip = v.sysGet Sys.tqip) ∧
              (stop = true → bitOf (u.sysNat Sys.tprog) 63 = true ∧ u.sysNat Sys.tqip = (q 56).toNat % 2 ^ 48) ∧
              u.sysGet Sys.txprog = v.sysGet Sys.txprog &&& ~~~(1 : Word) ∧
              SysBut v u ([Sys.tctl, Sys.tstat, Sys.tfirst, 0x504, 0x505, 0x506, 0x507, Sys.tprog, Sys.tqip, Sys.txprog] ++
                (List.range 8).map Sys.tcfg)))

/-! ### Speculation, interrupt sources and the Stream engine -/

/-- A mispredicted branch discards what its thread had in flight behind the branch, with the SFB entries of those accesses, and
leaves no architectural trace (R255, R256, R275); its count waits for the branch to retire (R277). An install takes a line into
L1D, from L2 or as an allocating read whose bytes agree, and changes no register and no byte of memory (R271). A freed bound
admits the request that waits at it first (R261), and a miss that completes frees its entry (R259). SETPEND, an MSI and a timer
set PEND of their source (R224, R225, R704). Which entry a freed bound of the slice or of a channel frees is the model's choice
(log 34). -/
def Obligations.SpeculationAndSources : Prop :=
  (∀ (g older : Nat) (s : State), (s.thread g).run = .running → g < 256 →
    let core := s.core (g / 2)
    ∃ t u x, exec (.branchMispredict ⟨g, older⟩) s = .next t ∧ t = (s.setThread g u).setCore (g / 2) x ∧
      u = { s.thread g with sys := u.sys, misp := true } ∧ (∀ k, isCounter k = false → u.sysGet k = (s.thread g).sysGet k) ∧
      x = { core with spec := x.spec } ∧ (∀ o : SpecOp, o.acc.thread ≠ g → (o ∈ x.spec ↔ o ∈ core.spec)) ∧
      ∀ o : SpecOp, o.acc.thread = g → o.dead = false →
        (o ∈ x.spec ↔ o ∈ (core.spec.filter (fun o => o.acc.thread == g && !o.dead)).take older)) ∧
  (∀ (g line : Nat) (s : State) (o : SpecOp), (s.thread g).run = .running →
    let core := s.core (g / 2)
    core.spec.find? (fun o => o.acc.thread == g && o.line == line && o.at_ == .ready && !o.put && !o.dead && !o.acc.fetch) = some o →
      let kept : List SpecOp := core.spec.map (fun x => if x = o then { o with sfb := false, put := true } else x)
      let row : Instr := .sfbInstall g line o.fromL2 (o.part o.data != o.part (s.lineBytes line))
      (∀ i, i ≠ row → (∃ a b, i = .sfbInstall g line a b) → exec i s = .next s) ∧
      (∀ k, o.fromL2 = true → core.l2use.find? (fun e => e.1 == line) = some k →
        ∃ t, exec row s = .next t ∧ CoreSet s t (g / 2) { core with l1d := l1Put core.l1d k, spec := kept }) ∧
      (o.fromL2 = false → FMap.has core.l2 line = true →
        (o.part o.data = o.part (s.lineBytes line) → ∃ t, exec row s = .next t ∧
          CoreSet s t (g / 2) { core with
            l1d := l1Put core.l1d (line, dramTag), l2use := (line, dramTag) :: core.l2use.filter (· != (line, dramTag)),
            spec := kept }) ∧
        (o.part o.data ≠ o.part (s.lineBytes line) → ∃ t, exec row s = .next t ∧ t.dram = s.dram ∧
          ∀ h, t.thread h = { s.thread h with sys := (t.thread h).sys }))) ∧
  (∀ (slice : Nat) (s : State) (k : CohKind) (q : CohReq) (rest : List (CohKind × CohReq)),
    s.stops = (k, q) :: rest → homeOf q.line = slice → s.queueUsed slice < 256 → (s.line q.line).txn.isSome = true →
      ∃ t, exec (.boundEntryFreed (.orderingQueue slice)) s = .next t ∧ t = { s with stops := rest, lines := t.lines } ∧
        t.line q.line = { s.line q.line with waiting := (s.line q.line).waiting ++
          [{ kind := homeKind k, req := q.req, dom := s.reqDom q, off := q.off, bytes := q.bytes }] } ∧
        ∀ l, l ≠ q.line → t.line l = s.line l) ∧
  (∀ (slice : Nat) (s : State) (m : Miss) (rest : List Miss), s.misses = m :: rest → m.slice = slice → m.ddr ≠ 0 →
    s.missWait = [] → (∀ w ∈ rest, w.ddr ≠ 0) →
      exec (.boundEntryFreed (.sliceMisses slice)) s = .next { s with misses := rest } ∧
      (m.ddr = 1 → exec (.boundEntryFreed (.ddr m.chan)) s = .next { s with
        misses := s.misses.map (fun x => if x = m then { x with ddr := 2 } else x) })) ∧
  (∀ (w : CsStore) (s : State) (d : Nat), Reaches s w (.dist d 0x2000) → (s.domain d).valid = true →
    let n := bitsOf w.value.toNat 9 0
    (0x010 ≤ n ∧ n < 0x100 ∨ 0x300 ≤ n → ∃ t, exec (.setpend w) s = .next t ∧ Raised s t d n) ∧
    (n < 0x010 ∨ (0x100 ≤ n ∧ n < 0x300) → exec (.setpend w) s = .next s)) ∧
  (∀ (port data d : Nat) (s : State), (s.port port).exists_ = true → (s.domain d).valid = true → d < 64 →
    (s.domain d).ports.getLsbD port = true → (∀ e, e < d → (s.domain e).valid = true → (s.domain e).ports.getLsbD port = false) →
      ∃ t p, exec (.msiWrite port data) s = .next t ∧ Raised { s with ports := p } t d (0x300 + data % 256)) ∧
  ∀ (g d : Nat) (s : State), s.domOf g = some d → (s.domain d).valid = true → bitOf ((s.thread g).sysNat Sys.tmrctl) 0 = true →
    (s.thread g).sysNat Sys.tmrcmp ≤ s.timeBase →
      ∃ t u, exec (.timerFire g) s = .next t ∧ Raised (s.setThread g u) t d (0x100 + g) ∧
        u = { s.thread g with sys := u.sys } ∧ u.sysGet Sys.tmrctl = 0 ∧ SysBut (s.thread g) u [Sys.tmrctl]

/-- The registers of a Stream engine descriptor that is not busy take the writable bits of a store (Table 10-5), and a store
with GO launches it with its checks in order (R423); on a busy one a launch stays in the store queue (R422) and an ABORT ends it
once its requests in flight have completed (R426). SRCCFG takes its fields (Table 5-8). -/
def Obligations.DescriptorRegistersAndLaunch : Prop :=
  ∀ (w : CsStore) (s : State) (c n : Nat),
    let g := w.thread
    let t := s.thread g
    let v := w.value.toNat
    let core := s.core c
    let d := FMap.get core.descs n Desc.reset
    let wrote (r : Nat) (e : Desc) : Prop :=
      Reaches s w (.stream c (0x100 + 0x40 * n + r)) → n < 16 → d.state ≠ 1 →
        ∃ s' x, CoreSet s s' c x ∧ exec (.registerWrite w) s = .next (s'.onThread g (fun u => { u with hold := .none })) ∧
          DescSet core x n e ∧ x.scnt = core.scnt
    wrote 0x00 { d with src := w.value &&& 0xFFFFFFFFFFC0 } ∧ wrote 0x08 { d with dst := w.value &&& 0x7FFC0 } ∧
    wrote 0x10 { d with shape := w.value &&& 0x3FFF3FFF } ∧
    wrote 0x18 (if v % 64 = 0 then { d with sstr := w.value } else d) ∧
    wrote 0x20 { d with dstr := w.value &&& 0x7FFC0 } ∧
    (Reaches s w (.stream c (0x100 + 0x40 * n + 0x28)) → n < 16 → d.state ≠ 1 → v % 4 = 1 →
      let len := bitsOf d.shape.toNat 13 0
      let rows := bitsOf d.shape.toNat 29 16
      let lo := bitsOf (t.sysNat Sys.tsbbase) 18 12 * 4096
      let hi := bitsOf (t.sysNat Sys.tsblim) 19 12 * 4096
      let sized := 1 ≤ len ∧ len ≤ 8192 ∧ 1 ≤ rows ∧ rows ≤ 8192
      let fits := lo ≤ d.dst.toNat ∧ d.dst.toNat + (rows - 1) * d.dstr.toNat + 64 * len ≤ hi
      let ends (code : Option Nat) : Prop :=
        ∃ s' x, exec (.descriptorLaunch w) s = .next s' ∧ CoreSet s s' c x ∧
          DescSet core x n { d with
            cnt := bitsOf v 7 4, state := if code = none then 1 else 3, rowsDone := 0, code := code.getD 0, ring := t.psw.pl.toNat,
            thr := g, row := 0, off := 0, flight := [], ending := none } ∧
          (code = none → x.scnt = core.scnt) ∧ (code ≠ none → Counted1 core x (bitsOf v 7 4) true)
      (g / 2 = c → sized → fits → ends none) ∧ (g / 2 ≠ c → ends (some 0x09)) ∧
      (g / 2 = c → ¬sized → ends (some 0x06)) ∧ (g / 2 = c → sized → ¬fits → ends (some 0x05))) ∧
    (Reaches s w (.stream c (0x100 + 0x40 * n + 0x28)) → n < 16 → d.state = 1 →
      (v % 4 = 1 → exec (.descriptorLaunch w) s = .next (s.onThread g (fun u => { u with
        stq := some { off := w.offset, value := v, ring := t.psw.pl.toNat, marked := false }, hold := .busyDescriptor }))) ∧
      (v % 4 = 2 → d.ending = none →
        ∃ s' x, exec (.descriptorAbort w) s = .next s' ∧ CoreSet { s with loam := s'.loam } s' c x ∧
          (d.flight = [] → DescSet core x n { d with cnt := bitsOf v 7 4, state := 3, code := 7 } ∧
            Counted1 core x (bitsOf v 7 4) true) ∧
          (d.flight ≠ [] → (∀ p ∈ s.loam.stackMap, ∀ r ∈ p.2.waiting, ∀ row at_ len, r.dest ≠ .stream c n row at_ len) →
            DescSet core x n { d with cnt := bitsOf v 7 4, ending := some (7, none) } ∧ x.scnt = core.scnt))) ∧
    ∀ e, Reaches s w (.dist e (8 * n)) → n < 1024 →
      ∃ s' : State, exec (.registerWrite w) s = .next (s'.onThread g (fun u => { u with hold := .none })) ∧
        s' = { s with domains := s'.domains } ∧ (∀ k, k ≠ e → s'.domain k = s.domain k) ∧
        s'.domain e = { s.domain e with srcs := (s'.domain e).srcs } ∧
        (∀ k, k ≠ n → FMap.find (s'.domain e).srcs k = FMap.find (s.domain e).srcs k) ∧
        let y := (s.domain e).src n
        let z := (s'.domain e).src n
        z.en = bitOf v 4 ∧ z.level = (if bitsOf v 3 0 = 15 then y.level else bitsOf v 3 0) ∧
          z.pend = (y.pend && !bitOf v 5) ∧ z.ovr = (y.ovr && !bitOf v 6) ∧
          (s.domOf (bitsOf v 23 16) = some e → n < 0x100 ∨ 0x200 ≤ n → z.target = bitsOf v 23 16) ∧
          (0x100 ≤ n → n < 0x200 → z.target = y.target)

/-- The Stream engine serves its busy descriptors in turn: a request of at most 4 KiB writes its source bytes to the TSB and moves
the descriptor on (R424, R425), one that fails its checks ends it in error with the failing byte once its requests in flight have
completed (R426), and one whose bytes are all written ends done and counts (R425). A load or a store through the TSB aperture
reaches eight bytes of the TSB (R420), and a load of a poisoned line raises fault 0x14 (R427). -/
def Obligations.StreamTransfers : Prop :=
  (∀ (c n : Nat) (s : State),
    let core := s.core c
    let d := FMap.get core.descs n Desc.reset
    let va := (((d.src.toNat + d.off : Nat) : Int) + d.row * d.sstr.toInt) % 2 ^ 64 |>.toNat
    let size := 64 * bitsOf d.shape.toNat 13 0
    let len := min (size - d.off) (4096 - va % 4096)
    let dest := d.dst.toNat + d.row * d.dstr.toNat + d.off
    let d' : Desc := if size ≤ d.off + len then { d with row := d.row + 1, off := 0 } else { d with off := d.off + len }
    core.serveNext = some n →
      (OwnDram s d.thr va len →
        (∀ l, va / 64 ≤ l → l * 64 < va + len → (s.line l).inL3 = true ∨ s.missOk l ((s.domOf d.thr).getD 64) = true) →
        ∃ t x, exec (.streamRequestIssue c) s = .next t ∧
          CoreSet { s with ddr := { s.ddr with openRow := t.ddr.openRow } } t c x ∧
          x = { core with nextDesc := (n + 1) % 16, descs := x.descs, tsb := x.tsb, poison := x.poison } ∧
          FMap.get x.descs n Desc.reset = { d' with
            rowsDone := d'.row - ((d.flight.map (·.row)).filter (fun r => decide (r < d'.row))).eraseDups.length } ∧
          (∀ k, k ≠ n → FMap.get x.descs k Desc.reset = FMap.get core.descs k Desc.reset) ∧
          (∀ a, Mem.byte x.tsb a = if dest ≤ a ∧ a < dest + len then Mem.byte s.dram (va + (a - dest)) else Mem.byte core.tsb a) ∧
          ∀ l, l ∈ x.poison ↔ l ∈ core.poison ∧ (64 * l < dest ∨ dest + len < 64 * l + 64)) ∧
      ∀ e, s.check d.thr d.ring Need.blockLd va len = .error e →
        ∃ t x, exec (.streamRequestIssue c) s = .next t ∧ CoreSet s t c x ∧
          (d.flight = [] →
            DescSet { core with nextDesc := (n + 1) % 16 } x n
              { d with state := 3, code := e.why.stream, faddr := BitVec.ofNat 64 e.va } ∧
            Counted1 core x d.cnt true) ∧
          (d.flight ≠ [] →
            DescSet { core with nextDesc := (n + 1) % 16 } x n { d with ending := some (e.why.stream, some (BitVec.ofNat 64 e.va)) } ∧
            x.scnt = core.scnt)) ∧
  (∀ (c n : Nat) (s : State),
    let d := FMap.get (s.core c).descs n Desc.reset
    d.state = 1 → bitsOf d.shape.toNat 29 16 ≤ d.row → d.flight = [] → d.ending = none →
      ∃ t x, exec (.descriptorDone c n) s = .next t ∧ CoreSet s t c x ∧ DescSet (s.core c) x n { d with state := 2 } ∧
        Counted1 (s.core c) x d.cnt false) ∧
  ∀ (a : CsAccess) (c off : Nat) (s : State),
    let core := s.core c
    let at_ := core.apbase * 0x8000 + (off - 0x8000)
    Reaches s { thread := a.thread, offset := a.offset, width := a.width, value := a.value } (.stream c off) →
      0x8000 ≤ off → off % 8 = 0 →
        (a.store = true → ∃ t, exec (.tsbApertureAccess a) s = .next t ∧
          CoreSet s t c { core with tsb := (t.core c).tsb, poison := core.poison } ∧
          ∀ b, Mem.byte (t.core c).tsb b =
            if at_ ≤ b ∧ b < at_ + 8 then (leBytes 8 a.value.toNat).getD (b - at_) 0 else Mem.byte core.tsb b) ∧
        (a.store = false → at_ / 64 ∉ core.poison →
          exec (.tsbApertureAccess a) s = .next (s.onThread a.thread (fun u =>
            u.setReg a.reg (BitVec.ofNat 64 (leNat (Mem.block core.tsb at_ 8)))))) ∧
        (a.store = false → at_ / 64 ∈ core.poison →
          exec (.tsbApertureAccess a) s = .next (s.fault a.thread (Flt.mk' 0x14 0x01 (BitVec.ofNat 64 (0xFE0000000000 + a.offset)))))

/-! ### Coherence -/

/-- How a home opens a request by the state of its line (Table 11-3, R450 to R452), frees a directory entry before it where its
set is full (R448), and orders two requests that reach it in one cycle (R451, R484); and an L2 eviction's notice (R447, R454,
R465). What an answer does at the home when it is the last one awaited and no request waits: the transaction closes as Table 11-3
gives. A notice is accepted from the holder that the directory records, recorded while a forward to its sender is open, and stale
otherwise (R454). -/
def Obligations.HomeOrdersEachLine : Prop :=
  ((∀ (s : State) (r : CohReq),
     let x := s.line r.line
     let me := s.holderOf r.req
     let others (l : List Nat) : List Nat := l.filter (· != me)
     let dest (k : MsgKind) (l : List Nat) (req : Option Nat) : List CohMsg :=
       l.map (fun h => { kind := k, line := r.line, peer := h, req := req, held := false, data := [] })
     let rows (k : CohKind) (i : Instr) : Prop :=
       (k, i) ∈ [(CohKind.rds, Instr.rds ⟨r, []⟩), (.rdx, .rdx ⟨r, []⟩), (.upg, .upg ⟨r, []⟩), (.rdna, .rdna ⟨.agent r, []⟩),
         (.wrl, .wrl ⟨r, []⟩)]
     let waits (k : CohKind) (m : MsgKind) (l : List Nat) (req : Option Nat) (kind : ReqKind) : Prop :=
       ∀ i, rows k i → Opens s k r → ∃ t, exec i s = .next t ∧
         LineSet s t r.line { x with
           txn := some { kind := kind, req := r.req, dom := s.reqDom r, off := r.off, bytes := r.bytes, wait := l } } ∧
         t.msgs = s.msgs ++ dest m l req ∧ t.dram = s.dram ∧ Asked s t k r
     let grants (k : CohKind) (m : MsgKind) (d : DirSt) (old : Bool) : Prop :=
       ∀ i, rows k i → Opens s k r → ∃ t, exec i s = .next t ∧
         LineSet s t r.line { x with
           dir := d, pkgs := s.pkgBits d.holders, inL3 := if m = .grantx then x.inL3 else true,
           l3dirty := if m = .grantx then x.l3dirty else x.inL3 && x.l3dirty, l3old := old } ∧
         t.msgs = s.msgs ++ dest m [r.req] none ∧ t.dram = s.dram ∧ Asked s t k r
     (x.dir = .invalid →
       grants .rds .datae (.owned me) true ∧ grants .rdx .datax (.owned me) true ∧ grants .upg .datax (.owned me) true) ∧
     (∀ l, x.dir = .shared l → l ≠ [] →
       grants .rds .datas (.shared (others l ++ [me])) (x.inL3 && x.l3old) ∧
       (others l = [] → grants .rdx .datax (.owned me) true) ∧
       (others l ≠ [] → waits .rdx .inv (others l) (some r.req) .rdx) ∧
       (me ∉ l → waits .upg .inv l (some r.req) .rdx) ∧
       (me ∈ l → others l = [] → grants .upg .grantx (.owned me) x.inL3) ∧
       (me ∈ l → others l ≠ [] → waits .upg .inv (others l) (some r.req) .upg) ∧
       waits .wrl .inv l none .wrl) ∧
     (∀ o, x.dir = .owned o →
       waits .rds .fwds [o] (some r.req) .rds ∧ waits .rdx .fwdx [o] (some r.req) .rdx ∧
       waits .upg .fwdx [o] (some r.req) .rdx ∧ waits .rdna .fwdna [o] (some r.req) .rdna ∧ waits .wrl .inv [o] none .wrl) ∧
     (Opens s .rdna r → (∀ o, x.dir ≠ .owned o) → ∃ t, exec (.rdna ⟨.agent r, []⟩) s = .next t ∧ LineSet s t r.line x ∧
       t.msgs = s.msgs ++ [{ kind := .datana, line := r.line, peer := r.req, req := none, held := false,
                             data := s.lineBytes r.line }] ∧ t.dram = s.dram ∧ Asked s t .rdna r) ∧
     (Opens s .wrl r → x.dir = .invalid → r.bytes.length = 64 → ∃ t, exec (.wrl ⟨r, []⟩) s = .next t ∧
       LineSet s t r.line { x with pkgs := 0, inL3 := true, l3dirty := true, l3old := false } ∧ t.msgs = s.msgs ∧
       (∀ a, Mem.byte t.dram a =
         if r.line * 64 ≤ a ∧ a < r.line * 64 + 64 then r.bytes.getD (a - r.line * 64) 0 else Mem.byte s.dram a) ∧
       ∀ c, c < 128 →
         t.core c = if (r.line, dramTag) ∈ (s.core c).l2use then (s.core c).dropLine r.line else s.core c) ∧
     (∀ k i v, rows k i → k = .rds ∨ k = .rdx ∨ k = .upg → Arrives s k r → s.dirVictim r.line = some v → v ≠ r.line →
       (s.line v).txn = none → (s.line v).waiting = [] → (s.line v).dir.holders ≠ [] →
         ∃ t, exec i s = .next t ∧ (t.line r.line).waiting = [queuedReq s k r] ∧ (t.line r.line).blocked = .entry v ∧
           (t.line v).txn = some { kind := .free, req := r.req, dom := s.reqDom r, off := 0, bytes := [],
                                   wait := (s.line v).dir.holders } ∧
           t.msgs = s.msgs ++ (s.line v).dir.holders.map (fun h =>
             { kind := .binv, line := v, peer := h, req := none, held := false, data := [] })) ∧
     ∀ q : CohReq, q.line = r.line →
       let h := homeOf r.line
       let free (p : CohReq) : Prop := s.sends (.rdx, p) = true ∧ ∀ c, s.localCore p.req = some c → (s.core c).busy p.line = false
       free r → free q → r.req ≠ q.req → s.localCore r.req ≠ s.localCore q.req ∨ s.localCore r.req = none → x.txn.isSome = true →
       s.queueUsed h < 255 → (∀ e ∈ s.stops, homeOf e.2.line ≠ h) →
       s.arrivalPort r.req h < s.arrivalPort q.req h ∨
           (s.arrivalPort r.req h = 7 ∧ s.arrivalPort q.req h = 7 ∧ r.req < q.req) →
         ∀ i ∈ [Instr.rdx ⟨r, [(.rdx, q)]⟩, .rdx ⟨q, [(.rdx, r)]⟩], ∃ t, exec i s = .next t ∧
           (t.line r.line).waiting = x.waiting ++ [queuedReq s .rdx r, queuedReq s .rdx q]) ∧
   ∀ (c line : Nat) (s : State),
     let y := s.core c
     let left (k : MsgKind) (wb : FMap Bool) : Prop :=
       ∃ t, exec (.l2Eviction c line) s = .next t ∧ t = { s with cores := t.cores, msgs := t.msgs } ∧
         (∀ k, k ≠ c → t.core k = s.core k) ∧
         t.msgs = s.msgs ++
           [{ kind := k, line := line, peer := 128 * s.pins.tussockId.toNat + c, req := none, held := false, data := [] }] ∧
         t.core c = { y with l2 := (t.core c).l2, l2use := (t.core c).l2use, l1i := (t.core c).l1i, l1d := (t.core c).l1d,
                             wb := wb } ∧
         (∀ l, FMap.find (t.core c).l2 l = if l = line then none else FMap.find y.l2 l) ∧
         (line, dramTag) ∉ (t.core c).l1i ∧ (line, dramTag) ∉ (t.core c).l1d
     (FMap.find y.l2 line = some .shared → left .evs y.wb) ∧
     (FMap.find y.l2 line = some .exclusive → y.wb.length < 16 → left .eve (FMap.put y.wb line false)) ∧
     (FMap.find y.l2 line = some .modified → y.wb.length < 16 → left .wbm (FMap.put y.wb line true)) ∧
     ((FMap.find y.l2 line = some .exclusive ∨ FMap.find y.l2 line = some .modified) → 16 ≤ y.wb.length →
       exec (.l2Eviction c line) s = .next s) ∧
     ∀ k, FMap.find y.l2 line = none → y.l2use.find? (fun e => e.1 == line) = some k → k.2 ≠ dramTag →
       ∃ t, exec (.l2Eviction c line) s = .next t ∧ CoreSet s t c { y with
         l2use := y.l2use.filter (· != k), l1i := y.l1i.filter (· != k), l1d := y.l1d.filter (· != k) }) ∧
  ∀ (s : State) (line h : Nat),
    let x := s.line line
    let home (k : MsgKind) (peer : Nat) (bs : List Byte) : List CohMsg :=
      [{ kind := k, line := line, peer := peer, req := none, held := false, data := bs }]
    let ends (i : Instr) (m : CohMsg) (y : HomeLine) (l : List CohMsg) : Prop :=
      ∃ t, exec i s = .next t ∧ LineSet s t line y ∧ t.cores = s.cores ∧ t.dram = s.dram ∧
        t.msgs = dropFirst (· == m) s.msgs ++ l
    let closed (y : HomeLine) (d : DirSt) (old : Bool) : HomeLine :=
      { y with txn := none, dir := d, pkgs := s.pkgBits d.holders, l3old := old }
    let alloc (y : HomeLine) : HomeLine := { y with inL3 := true, l3dirty := y.inL3 && y.l3dirty }
    let written (y : HomeLine) : HomeLine := { y with inL3 := true, l3dirty := true }
    ∀ (m : CohMsg) (t : Txn),
      let req := t.req
      let me := s.holderOf req
      let last (kind : ReqKind) : Prop := t.kind = kind ∧ t.wait = [h] ∧ x.txn = some t ∧ x.waiting = [] ∧ h ∉ x.notices
      let alone : Prop := s.entryWaiters line = []
      (s.arriving .fwdack line h = some m →
        (∀ o, last .rds → x.dir = .owned o → o ≠ me → ends (.fwdack line h) m (closed x (.shared [o, me]) false) []) ∧
        (∀ o, last .rdx → x.dir = .owned o → ends (.fwdack line h) m (closed x (.owned me) x.l3old) []) ∧
        (∀ l, last .rdx → x.dir = .shared l →
          ends (.fwdack line h) m (closed (alloc x) (.owned me) true) (home .datax req [])) ∧
        (last .upg → ends (.fwdack line h) m (closed x (.owned me) x.inL3) (home .grantx req [])) ∧
        (last .wrl → t.bytes.length = 64 → ∃ r, exec (.fwdack line h) s = .next r ∧
          LineSet s r line (closed (written x) .invalid false) ∧ r.msgs = dropFirst (· == m) s.msgs ∧
          (∀ c, c < 128 →
            r.core c = if (line, dramTag) ∈ (s.core c).l2use then (s.core c).dropLine line else s.core c) ∧
          ∀ a, Mem.byte r.dram a =
            if line * 64 ≤ a ∧ a < line * 64 + 64 then t.bytes.getD (a - line * 64) 0 else Mem.byte s.dram a) ∧
        (last .rdna → ends (.fwdack line h) m { x with txn := none } []) ∧
        (last .free → alone → ends (.fwdack line h) m (closed x .invalid false) [])) ∧
      (s.arriving .fwdackd line h = some m →
        (∀ o, last .rds → x.dir = .owned o → o ≠ me →
          ends (.fwdackd line h) m (closed (written x) (.shared [o, me]) false) []) ∧
        (last .free → alone → ends (.fwdackd line h) m (closed (written x) .invalid false) [])) ∧
      (s.arriving .fwdnak line h = some m →
        (∀ o, last .rds → x.dir = .owned o → o ≠ me →
          ends (.fwdnak line h) m (closed (alloc x) (.shared [o, me]) false) (home .datas req [])) ∧
        (∀ o, last .rdx → x.dir = .owned o →
          ends (.fwdnak line h) m (closed (alloc x) (.owned me) true) (home .datax req [])) ∧
        (last .rdna → ends (.fwdnak line h) m { x with txn := none, l3old := false } (home .datana req (s.lineBytes line)))) ∧
      (∀ k i, (k, i) ∈ [(MsgKind.wbm, Instr.wbm line h), (.eve, .eve line h), (.evs, .evs line h)] →
        s.arriving k line h = some m → s.outside h = false →
          let open_ : Prop := ∃ t, x.txn = some t ∧ h ∈ t.wait
          let holds : Prop := if k = .evs then ∃ l, x.dir = .shared l ∧ h ∈ l else x.dir = .owned h
          let gone (y : HomeLine) (d : DirSt) : HomeLine := { y with dir := d, pkgs := s.pkgBits d.holders }
          (open_ → ends i m { x with notices := x.notices ++ [h] } []) ∧
          (¬open_ → ¬holds → ends i m x (home .wbstale h [])) ∧
          (¬open_ → x.dir = .owned h → k = .wbm → ends i m { gone (written x) .invalid with l3old := false } (home .wback h [])) ∧
          (¬open_ → x.dir = .owned h → k = .eve → ends i m { gone x .invalid with l3old := false } (home .wback h [])) ∧
          ∀ l, ¬open_ → x.dir = .shared l → h ∈ l → k = .evs →
            let rest := l.filter (· != h)
            ends i m (gone x (if rest = [] then .invalid else .shared rest)) (home .wback h []))

/-- What a forward or an invalidation does at its holder (R452, R453, R454): the holder's line and the messages it sends, or the
forward is held while the holder's own request is open; and a response at its requester: the line installs in the state granted,
and the store that waited for it is performed (R453, R455, R472), while the copy of a non-allocating read goes to the access that
asked for it and to no cache (R268), but for a fetch (R266). -/
def Obligations.HoldersAndRequesters : Prop :=
  ∀ (s : State) (line p c : Nat), s.localCore p = some c →
    let y := s.core c
    let back (k : MsgKind) : List CohMsg := [{ kind := k, line := line, peer := p, req := none, held := false, data := [] }]
    let data (k : MsgKind) (m : CohMsg) (bs : List Byte) : List CohMsg :=
      match m.req with
      | some r => [{ kind := k, line := line, peer := r, req := some p, held := false, data := bs }] | none => []
    let goes (i : Instr) (m : CohMsg) (l : List CohMsg) (keep : Option LineSt) : Prop :=
      ∃ t, exec i s = .next t ∧ t = { s with cores := t.cores, msgs := t.msgs } ∧ (∀ k, k ≠ c → t.core k = s.core k) ∧
        t.msgs = dropFirst (· == m) s.msgs ++ l ∧
        t.core c = { y with l2 := (t.core c).l2, l2use := (t.core c).l2use, l1i := (t.core c).l1i, l1d := (t.core c).l1d } ∧
        (∀ k, FMap.find (t.core c).l2 k = if k = line then keep else FMap.find y.l2 k) ∧
        (keep = none → FMap.find y.l2 line ≠ none → (line, dramTag) ∉ (t.core c).l1d ∧ (line, dramTag) ∉ (t.core c).l1i)
    let held := FMap.find y.l2 line
    let gone := held = none
    let buffer := FMap.find y.wb line
    let forward (i : Instr) (k : MsgKind) (d : MsgKind) (bs : List Byte) (keep : LineSt → Option LineSt) (ack : LineSt → MsgKind)
        (bufAck : MsgKind) : Prop :=
      ∀ m, s.arriving k line p = some m → FMap.has y.want line = false →
        (∀ st, held = some st → goes i m (data d m bs ++ back (ack st)) (keep st)) ∧
        (gone → buffer = some true → goes i m (data d m bs ++ back bufAck) none) ∧
        (gone → buffer ≠ some true → goes i m (back .fwdnak) none)
    let dirty (st : LineSt) : MsgKind := if st = .modified then .fwdackd else .fwdack
    forward (.fwds line p) .fwds .datas [] (fun _ => some .shared) dirty .fwdackd ∧
    forward (.fwdx line p) .fwdx .datax [] (fun _ => none) (fun _ => .fwdack) .fwdack ∧
    forward (.fwdna line p) .fwdna .datana (s.lineBytes line) some (fun _ => .fwdack) .fwdack ∧
    (∀ m, s.arriving .inv line p = some m → FMap.has y.want line = false → goes (.inv line p) m (back .fwdack) none) ∧
    (∀ m, s.arriving .binv line p = some m → FMap.has y.want line = false →
      (∀ st, held = some st → goes (.binv line p) m (back (dirty st)) none) ∧
      (gone → goes (.binv line p) m (back (if buffer = some true then .fwdackd else .fwdack)) none)) ∧
    (∀ k i, (k, i) ∈ [(MsgKind.fwds, Instr.fwds line p), (.fwdx, .fwdx line p), (.fwdna, .fwdna line p), (.inv, .inv line p),
        (.binv, .binv line p)] →
      ∀ m, s.arriving k line p = some m → FMap.has y.want line = true →
        exec i s = .next { s with msgs := s.msgs.map (fun x => if x = m then { x with held := true } else x) }) ∧
    let quiet : Prop := ∀ r ∈ y.later, r.2.line ≠ line
    let answered (i : Instr) (k : MsgKind) (st : LineSt) : Prop :=
      ∀ m, s.arriving k line p = some m → y.victim2 (line, dramTag) = none → quiet →
        ∃ t, exec i s = .next t ∧ t = { s with cores := t.cores, msgs := dropFirst (· == m) s.msgs, dram := t.dram } ∧
          (∀ k, k ≠ c → t.core k = { s.core k with
            l2 := (t.core k).l2, l2use := (t.core k).l2use, l1i := (t.core k).l1i, l1d := (t.core k).l1d }) ∧
          (∀ k, k ≠ c → (line, dramTag) ∉ (s.core k).l2use → t.core k = s.core k) ∧
          t.core c = { y with want := (t.core c).want, l2 := (t.core c).l2, l2use := (t.core c).l2use,
                              l1i := (t.core c).l1i, l1d := (t.core c).l1d } ∧
          (∀ l, FMap.find (t.core c).want l = if l = line then none else FMap.find y.want l) ∧
          (∀ l, FMap.find (t.core c).l2 l = if l = line then some st else FMap.find y.l2 l) ∧
          t.dram = (match FMap.find y.want line with
            | some w => if st = .modified ∧ w.bytes ≠ [] then
                Mem.write s.dram (line * 64 + w.off) (w.bytes.take (64 - w.off)) else s.dram
            | none => s.dram)
    answered (.datas line p) .datas .shared ∧ answered (.datae line p) .datae .exclusive ∧
    answered (.datax line p) .datax .modified ∧ answered (.grantx line p) .grantx .modified ∧
    (∀ m, s.arriving .datana line p = some m →
      let s1 : State := { s with msgs := dropFirst (· == m) s.msgs }
      let asked := y.spec.find? (fun o => o.at_ == .sent && o.line == line)
      (asked = none → exec (.datana line p) s = .next s1) ∧
      (∀ o, asked = some o → o.dead = false → o.acc.fetch = false →
        ∃ t, exec (.datana line p) s = .next t ∧ CoreSet s1 t c { y with
          spec := y.spec.map (fun x => if x = o then { o with at_ := .ready, miss := false, data := m.data } else x) }) ∧
      ∀ o, asked = some o → o.dead = false → o.acc.fetch = true → y.victim2 (line, dramTag) = none →
        ∃ t, exec (.datana line p) s = .next t ∧ CoreSet s1 t c { y with
          spec := dropFirst (· == o) y.spec, l1i := l1Put y.l1i (line, dramTag), l2 := FMap.put y.l2 line .shared,
          l2use := (line, dramTag) :: y.l2use.filter (· != (line, dramTag)) }) ∧
    let freed (i : Instr) (k : MsgKind) : Prop :=
      ∀ m, s.arriving k line p = some m → quiet →
        ∃ t, exec i s = .next t ∧ t = { s with cores := t.cores, msgs := dropFirst (· == m) s.msgs } ∧
          (∀ k, k ≠ c → t.core k = s.core k) ∧ t.core c = { y with wb := (t.core c).wb } ∧
          ∀ l, FMap.find (t.core c).wb l = if l = line then none else FMap.find y.wb l
    freed (.wback line p) .wback ∧ freed (.wbstale line p) .wbstale

/-! ### Loam -/

/-- A read of a unit never written needs no page read; a read whose top page is not in the map cache takes a page-read entry and
senses that page at LEARN, or waits for its read where one is in flight for the domain; a request at a stack that is not ready
holds (R491, R492, R495, R517). That a map page's read is merged with so is the model's inference (log 66). A sensed page's codewords are
taken one by one in the order of the reads of their plane, whose program they wait for (R512), a correct one is sent at once, and
with the eighth correct one a data page enters the decoded-page buffer and frees its entry (R495, R499, R509). A read-retry step
tries the next setting of the ranking, and a retry that ends with every codeword correct sets LEARN (R500). A store of 1 to LCLR
clears the counts of the domain's slice (R504). -/
def Obligations.LoamReads : Prop :=
  (∀ (r : LoamReq) (s : State) (rev : Revision),
    let n := bitsOf r.offset 16 14
    let x := s.stack n
    let u := (r.offset - (s.volume r.volume).vbase) / 16384
    s.loamDue r = true →
      (x.ready = false → ∃ t, exec (.loamReadRequest r) s = .next t ∧ StackSet s t n { x with waiting := x.waiting ++ [r] }) ∧
      ((s.volume r.volume).rev r.revision = some rev → x.ready = true → x.state ≠ 2 →
        (FMap.find rev.tops (u % 8) = none →
          ∃ t, exec (.loamReadRequest r) s = .next t ∧
            LoamServed s t n { x with mapTop := (t.stack n).mapTop, mapLeaf := (t.stack n).mapLeaf }) ∧
        ∀ top, FMap.find rev.tops (u % 8) = some top → (r.volume, rev.number) ∉ x.mapTop →
          (∀ e ∈ x.reads, e.domain = r.domain → e.volume = r.volume → e.rev = r.revision → e.unit ≠ u) →
          s.loamAdmits n r.domain = true → (∀ w ∈ x.waiting, s.loamAdmits n w.domain = false) →
          (∀ e ∈ x.reads, e.entry < x.nextRead) →
            let joins := x.reads.any (fun e => e.stage != 0 && e.domain == r.domain && e.page == top)
            ∃ t e, exec (.loamReadRequest r) s = .next t ∧ LoamOnly s t ∧ e ∈ (t.stack n).reads ∧
              e.entry = x.nextRead ∧ e.domain = r.domain ∧ e.page = top ∧ e.stage = 2 ∧ e.sensed = false ∧ e.good = [] ∧
              e.reqs = [r] ∧ e.tried = [(x.block (slotOf top)).learn] ∧ (t.stack n).leads e = !joins ∧
              ((t.stack n).block (slotOf top)).senses = (x.block (slotOf top)).senses + natOf (!joins) ∧
              ((t.stack n).slice r.domain).rdpg = (x.slice r.domain).rdpg + natOf (!joins) ∧
              ((t.stack n).slice r.domain).mapm = (x.slice r.domain).mapm + 1)) ∧
  (∀ (n entry cw : Nat) (s : State) (e : PageRead),
    let x := s.stack n
    let put (e' : PageRead) : List PageRead := x.reads.map (fun y => if y.entry == e.entry then e' else y)
    let freed : List PageRead := x.reads.filter (fun y => y.entry != e.entry)
    x.reads.find? (fun e => e.entry == entry) = some e →
      (x.leads e = false → exec (.loamPageSenseDone n entry) s = .next s ∧
        (∀ ok, exec (.loamCodewordDecoded n entry cw ok) s = .next s) ∧ ∀ fixed, exec (.readRetryStep n entry fixed) s = .next s) ∧
      (x.leads e = true → x.waiting = [] →
      (x.planeFirst e = true → (∀ h ∈ x.programs, h.started = true ∧ planeOf (slotOf h.page) ≠ planeOf (slotOf e.page)) →
        ∃ t, exec (.loamPageSenseDone n entry) s = .next t ∧ StackSet s t n { x with reads := put { e with sensed := true } }) ∧
      (x.programming (planeOf (slotOf e.page)) = true → exec (.loamPageSenseDone n entry) s = .next s) ∧
      (e.sensed = true → cw < 8 → cw ∉ e.good → cw ∉ e.failing →
        (∃ t, exec (.loamCodewordDecoded n entry cw false) s = .next t ∧
          StackSet s t n { x with reads := put { e with failing := cw :: e.failing } }) ∧
        (e.good.length + 1 ≠ 8 → ∃ t, exec (.loamCodewordDecoded n entry cw true) s = .next t ∧
          LoamServed s t n { x with reads := put { e with good := cw :: e.good } } ∧
          ∀ g r, e.stage = 0 → e.reqs = [r] → r.dest = .scalar g → cw ∈ loamCodewords r →
            (s.core (g / 2)).victim2 (loamLine r) = none →
              loamLine r ∈ (t.core (g / 2)).l2use ∧ loamLine r ∈ (t.core (g / 2)).l1d) ∧
        (e.good.length + 1 = 8 → e.stage = 0 → ∃ t, exec (.loamCodewordDecoded n entry cw true) s = .next t ∧
          LoamServed s t n { x with reads := freed, buffer := (t.stack n).buffer } ∧
          (t.stack n).buffer.head? = some (e.page, e.domain) ∧ (t.stack n).buffer.length ≤ 64)) ∧
      (e.failing ≠ [] → e.good.length + e.failing.length = 8 →
        let b := x.block (slotOf e.page)
        (∀ k fixed, b.ranking.find? (fun k => !e.tried.contains k) = some k →
          (fixed = [] → e.tried.length + 1 < 8 →
            ∃ t, exec (.readRetryStep n entry fixed) s = .next t ∧ LoamOnly s t ∧
              (t.stack n).reads = put { e with tried := k :: e.tried } ∧
              (t.stack n).block (slotOf e.page) = { b with senses := b.senses + 1, st := ((t.stack n).block (slotOf e.page)).st } ∧
              ((t.stack n).slice e.domain).retry = (x.slice e.domain).retry + 1) ∧
          ((∀ c ∈ e.failing, c ∈ fixed) → e.stage = 0 →
            ∃ t, exec (.readRetryStep n entry fixed) s = .next t ∧ LoamServed s t n (t.stack n) ∧
              (t.stack n).reads = freed ∧ ((t.stack n).block (slotOf e.page)).learn = k ∧
              (t.stack n).buffer.head? = some (e.page, e.domain))) ∧
        (b.ranking.find? (fun k => !e.tried.contains k) = none → e.stage = 0 →
          (∀ c ∈ e.failing, ∃ r ∈ e.reqs, c ∈ loamCodewords r) → (∀ r ∈ e.reqs, r.domain = e.domain) →
          ∃ t, exec (.readRetryStep n entry []) s = .next t ∧
            (t.stack n).reads = freed ∧ ((t.stack n).block (slotOf e.page)).learn = b.learn ∧
            ((t.stack n).slice e.domain).unc = (x.slice e.domain).unc + e.failing.length)))) ∧
  ∀ (w : CsStore) (s : State) (n d : Nat), Reaches s w (.lc n d 0x040) → bitOf w.value.toNat 0 = true →
    ∃ t, exec (.lclr w) s = .next t ∧ StackSet s t n { s.stack n with slices := (t.stack n).slices } ∧
      (∀ e, e ≠ d → (t.stack n).slice e = (s.stack n).slice e) ∧
      (t.stack n).slice d = { (s.stack n).slice d with rdpg := 0, retry := 0, unc := 0, mapm := 0 }

/-- Volumes and update sessions (R522 to R526, R529): what LVCREATE, LVRESIZE to a larger VLEN, LVDELETE of a pinned volume,
LOPEN, LSTAGE, LZERO, LABORT, LPARAM and LHEALTH do once their checks pass, and the statuses of Table 13-5 for those that
fail. -/
def Obligations.LoamCommands : Prop :=
  ∀ (c : SynryReq) (s : State),
    let p (i n : Nat) : Nat := leAt c.params i n
    let v := p 0 2
    let x := s.volume v
    let healthy := ∀ n, n < 8 → (s.stack n).state ≠ 1 ∧ (s.stack n).state ≠ 2
    let apart (base len : Nat) : Prop := ∀ q ∈ s.loam.volumes, q.1 = v ∨ rangesMeet base len q.2.vbase q.2.vlen = false
    let kept (r : State) : Prop := r = { s with loam := { s.loam with volumes := r.loam.volumes }, seed := r.seed }
    let z := s.loam.sessions.find? (fun z => z.number == p 0 2 && z.domain == c.iface.domain && !z.commit)
    (Taken s 0x206 c → v < 1024 → extentOk (p 2 8) (p 10 8) = true →
      (x.vlen = 0 → apart (p 2 8) (p 10 8) → healthy →
        Does s (.lvcreate c) 0x206 c St.ok [] (fun r => kept r ∧ VolumeSet s r v
          { vbase := p 2 8, vlen := p 10 8, current := none, lastRev := 0, deleting := false, revs := [] })) ∧
      (x.vlen ≠ 0 → Does s (.lvcreate c) 0x206 c St.overlap [] (· = s))) ∧
    (Taken s 0x207 c → v < 1024 → extentOk x.vbase (p 2 8) = true →
      (x.vlen ≠ 0 → x.deleting = false → s.volumeBusy v = false →
        (x.vlen < p 2 8 → healthy → apart x.vbase (p 2 8) →
          Does s (.lvresize c) 0x207 c St.ok [] (fun r => kept r ∧ VolumeSet s r v { x with vlen := p 2 8 })) ∧
        (p 2 8 < x.vlen → s.rootBeyond v (p 2 8) = true → Does s (.lvresize c) 0x207 c St.grantRange [] (· = s)) ∧
        (p 2 8 < x.vlen → s.rootBeyond v (p 2 8) = false → (∀ y ∈ s.loam.sessions, y.volume ≠ v) →
          (x.now = none → Does s (.lvresize c) 0x207 c St.ok [] (fun r => kept r ∧ VolumeSet s r v { x with vlen := p 2 8 })) ∧
          ∀ m q, x.now = some m → m.units.all (fun u => decide (u.1 * 16384 < p 2 8)) = true →
            s.shrink v (p 2 8) ({ iface := c.iface, tag := c.tag, code := 0x207 }, c.params) = some q →
              Runs s (.lvresize c) 0x207 c (fun r => r = q ∧
                r = { s with loam := { s.loam with compacts := r.loam.compacts }, seed := r.seed } ∧
                ∃ y ∈ r.loam.compacts, y.volume = v ∧ y.vlen = some (p 2 8) ∧ y.made.number = m.number ∧
                  y.made.units = m.units ∧ ∀ a, Mem.byte y.made.bytes a = if a < p 2 8 then Mem.byte m.bytes a else 0))) ∧
      (x.vlen = 0 ∨ x.deleting = true → Does s (.lvresize c) 0x207 c St.noVol [] (· = s))) ∧
    (Taken s 0x208 c →
      (x.vlen ≠ 0 → x.deleting = false → s.volumeBusy v = false → (∃ r ∈ x.revs, r.pins ≠ 0) →
        Does s (.lvdelete c) 0x208 c St.ok [] (fun r => kept r ∧ VolumeSet s r v { x with deleting := true })) ∧
      (x.vlen = 0 ∨ x.deleting = true → Does s (.lvdelete c) 0x208 c St.noVol [] (· = s))) ∧
    (Taken s 0x201 c → c.iface = .mgmt → v < 1024 → x.vlen ≠ 0 → x.deleting = false → (∀ n, n < 8 → (s.stack n).state ≠ 1) →
      ((∀ y ∈ s.loam.sessions, y.volume ≠ v) → s.loam.sessions.length < 128 →
        let n := s.loam.nextSession
        Does s (.lopen c) 0x201 c St.ok (leBytes 2 n) (fun r =>
          r = { s with loam := { s.loam with
            sessions := s.loam.sessions ++ [
              { number := n, volume := v, domain := 64, grant := 0, staged := [], bytes := [], ops := [], nextOp := 0,
                commit := false, reply := none, made := none, root := none }]
            nextSession := if n = 65535 then 1 else n + 1 } })) ∧
      ((∃ y ∈ s.loam.sessions, y.volume = v) → Does s (.lopen c) 0x201 c St.busy [] (· = s))) ∧
    (Taken s 0x202 c → c.iface = .mgmt → ∀ y, z = some y →
      let first := p 2 4
      let count := p 6 4
      ((first + count) * 16384 ≤ (s.volume y.volume).vlen → s.sourceOk 64 (p 10 8) (count * 16384) = true → healthy →
        (∀ n, n < 8 → s.headroom n + ((upFrom first count).filter (fun u => u % 8 == n)).length ≤ headroomMax) → 0 < count →
          ∀ pages q, s.takePages (upFrom first count) = some (pages, q) →
            Runs s (.lstage c) 0x202 c (fun r => r = { s with loam := r.loam, seed := r.seed } ∧
              ∃ y' ∈ r.loam.sessions, y'.number = y.number ∧ y'.volume = y.volume ∧ y'.nextOp = y.nextOp + 1 ∧
                FMap.find y'.ops y.nextOp = some { iface := c.iface, tag := c.tag, code := 0x202 } ∧
                (∀ u, FMap.find y'.staged u =
                  if first ≤ u ∧ u < first + count then some (FMap.find pages u) else FMap.find y.staged u) ∧
                (DramOk s → Memory.wf y.bytes = true → ∀ a, Mem.byte y'.bytes a =
                  if first * 16384 ≤ a ∧ a < (first + count) * 16384 then Mem.byte s.dram (p 10 8 + (a - first * 16384))
                  else Mem.byte y.bytes a))) ∧
      ((s.volume y.volume).vlen < (first + count) * 16384 → Does s (.lstage c) 0x202 c St.unitRange [] (· = s))) ∧
    (Taken s 0x203 c → c.iface = .mgmt → ∀ y, z = some y → (p 2 4 + p 6 4) * 16384 ≤ (s.volume y.volume).vlen →
      (∀ n, n < 8 → (s.stack n).state ≠ 1) →
        Does s (.lzero c) 0x203 c St.ok [] (fun r => LoamOnly s r ∧ r.loam.volumes = s.loam.volumes ∧
          ∃ y' ∈ r.loam.sessions, y'.number = y.number ∧
            ∀ u, FMap.find y'.staged u = if p 2 4 ≤ u ∧ u < p 2 4 + p 6 4 then some none else FMap.find y.staged u)) ∧
    (Taken s 0x205 c →
      (z = none → Does s (.labort c) 0x205 c St.noSession [] (· = s)) ∧
      (∀ y, z = some y → s.mayUpdate c y 0 0 = false → Does s (.labort c) 0x205 c St.grant [] (· = s)) ∧
      ∀ y, z = some y → s.mayUpdate c y 0 0 = true → y.ops = [] →
        Does s (.labort c) 0x205 c St.ok [] (fun r => LoamOnly s r ∧ r.loam.volumes = s.loam.volumes ∧
          ∀ y', y' ∈ r.loam.sessions ↔ y' ∈ s.loam.sessions ∧ y'.number ≠ y.number)) ∧
    (Taken s 0x209 c →
      (lparamOk (p 0 1) (p 1 1) (p 2 1) = true →
        Does s (.lparam c) 0x209 c St.ok [] (fun r =>
          r = { s with
            loam := { s.loam with patrolHours := p 0 1, refreshBits := p 1 1, pgmPlanes := p 2 1 }, seed := r.seed })) ∧
      (lparamOk (p 0 1) (p 1 1) (p 2 1) = false → Does s (.lparam c) 0x209 c St.badParam [] (· = s))) ∧
    (Taken s 0x20A c →
      (p 0 1 < 8 → ∃ res, Does s (.lhealth c) 0x20A c St.ok res (· = s) ∧ res.length = 56 ∧
        let y := s.stack (p 0 1)
        leAt res 0 1 = y.state % 256 ∧ leAt res 1 1 = natOf y.ready ∧ leAt res 2 2 = y.temp % 2 ^ 16 ∧
        leAt res 4 4 = y.spares % 2 ^ 32 ∧ leAt res 8 4 = y.spare0 % 2 ^ 32 ∧ leAt res 12 4 = y.grown % 2 ^ 32 ∧
        leAt res 20 4 = y.meanCycles % 2 ^ 32 ∧ leAt res 28 8 = y.unc % 2 ^ 64 ∧ leAt res 36 4 = y.rfDist % 2 ^ 32 ∧
        leAt res 40 4 = y.rfPatrol % 2 ^ 32 ∧ leAt res 44 8 = y.passTime % 2 ^ 64 ∧ leAt res 52 4 = s.headroom (p 0 1) % 2 ^ 32) ∧
      (8 ≤ p 0 1 → Does s (.lhealth c) 0x20A c St.badParam [] (· = s)))

/-- COMMIT (R527 to R530, R539): LCOMMIT of an empty session makes the next revision, which becomes current at COMMIT_SWITCH once
its root record has reached its commit point, with its Loam lines of other revisions dropped from L3 (R466). The internal commit
of a shrink or a compaction switches likewise and keeps the revision's number and attachments. A revision that is not current, has
no attachment and is not being read is freed. -/
def Obligations.CommitMakesARevision : Prop :=
  (∀ (c : SynryReq) (s : State) (y : Session), Taken s 0x204 c → s.sessionOf c = some y → s.mayUpdate c y 0 0 = true → y.staged = [] →
    (∀ n, n < 8 → (s.stack n).state ≠ 1 ∧ (s.stack n).state ≠ 2) → s.programsOf y.number = false →
    s.volumeBusy y.volume = false →
      let old := (s.volume y.volume).now
      Runs s (.lcommit c) 0x204 c (fun r => r = { s with loam := { s.loam with sessions := r.loam.sessions }, seed := r.seed } ∧
        ∃ y' ∈ r.loam.sessions, y'.number = y.number ∧ y'.commit = true ∧ y'.root ≠ none ∧
          y'.reply = some { iface := c.iface, tag := c.tag, code := 0x204 } ∧
          ∃ m, y'.made = some m ∧ m.number = (if 0xFFFFFFFF ≤ (s.volume y.volume).lastRev then 1 else (s.volume y.volume).lastRev + 1) ∧
            m.pins = 0 ∧ m.units = ((old.map (·.units)).getD []) ∧ m.bytes = ((old.map (·.bytes)).getD []))) ∧
  (∀ (v : Nat) (s : State) (y : Session) (m : Revision) (q : Nat) (reply : Reply),
    s.loam.sessions.find? (fun z => z.volume == v && z.commit) = some y → y.made = some m → y.root = some q →
    y.reply = some reply → seqLarger q s.seed.done = false → s.smc.waiting = [] →
      ∃ t, exec (.commitSwitch v) s = .next t ∧
        VolumeSet s t v { s.volume v with current := some m.number, lastRev := m.number, revs := (s.volume v).revs ++ [m] } ∧
        (∀ y', y' ∈ t.loam.sessions ↔ y' ∈ s.loam.sessions ∧ y'.number ≠ y.number) ∧
        (∀ l ∈ t.l3, l ∈ s.l3) ∧ t.threads = s.threads ∧ t.dram = s.dram) ∧
  (∀ (v q : Nat) (s : State) (z : Compact) (m : Revision), s.loam.sessions.find? (fun z => z.volume == v && z.commit) = none →
    s.loam.compacts.find? (fun z => z.volume == v) = some z → z.root = some q → z.reply = none → seqLarger q s.seed.done = false →
    s.smc.waiting = [] → (s.volume v).now = some m → z.made.number = m.number →
      ∃ t, exec (.commitSwitch v) s = .next t ∧ (∀ y ∈ t.loam.compacts, y.volume ≠ v) ∧ t.loam.sessions = s.loam.sessions ∧
        t = { s with loam := t.loam, seed := t.seed } ∧
        VolumeSet s t v { (s.volume v).setRev { z.made with pins := m.pins } with vlen := z.vlen.getD (s.volume v).vlen }) ∧
  ∀ (v n : Nat) (s : State) (m : Revision), (s.volume v).rev n = some m → (s.volume v).deleting = false → m.pins = 0 →
    (s.volume v).current ≠ some n → s.revisionIdle v n = true →
      ∃ t, exec (.revisionFree v n) s = .next t ∧ LoamOnly s t ∧
        VolumeSet s t v { s.volume v with revs := (s.volume v).revs.filter (fun y => y.number != n) } ∧
        t.loam.sessions = s.loam.sessions

/-- Programs, erases, relocation, checkpoints, patrol and readiness of a stack (R514, R532 to R545), and a die that stops
answering, which fails its stack (R515, R548). -/
def Obligations.LoamKeeping : Prop :=
  ∀ (n k : Nat) (s : State),
    let x := s.stack n
    let b := x.block k
    let p := k / 256
    let only (t : State) : Prop := t = { s with loam := { s.loam with stackMap := t.loam.stackMap }, seed := t.seed } ∧
      ∀ m, m ≠ n → t.stack m = s.stack m
    (∀ page g, x.programs.find? (fun g => g.page == page && g.started) = some g → (∃ v, g.what = .compact v ∧
      ∀ z ∈ s.loam.compacts, z.volume ≠ v) → s.smc.waiting = [] →
      (∀ h ∈ x.programs, h.page ≠ page → h.started = true) →
        ∃ t, exec (.pageProgramDone n page true) s = .next t ∧ only t ∧
          t.stack n = { x with programs := x.programs.filter (fun h => h.page != page) }) ∧
    (slotOk k = true → x.ready = true → x.state ≠ 2 → x.stale k = true → x.eraseIn p = false → x.senses p = false → x.temp < 105 →
      (∀ g ∈ x.programs, g.started = true → planeOf (slotOf g.page) ≠ p) → b.cycles < 5000 →
        ∃ t, exec (.blockErase n k) s = .next t ∧ only t ∧
          BlockSet x (t.stack n) k { b with st := .erasing, cycles := b.cycles + 1, attempt := 0 } ∧
          (∀ e ∈ (t.stack n).buffer, slotOf e.1 ≠ k)) ∧
    ((∀ e ∈ x.reads, planeOf (slotOf e.page) ≠ p) →
      ∃ t, exec (.eraseResume n p) s = .next t ∧ StackSet s t n { x with blocks := (t.stack n).blocks } ∧
        ∀ j, (t.stack n).block j =
          if planeOf j = p ∧ (x.block j).st = .suspended then { x.block j with st := .erasing } else x.block j) ∧
    (b.st = .erasing → x.programs = [] → s.smc.waiting = [] →
      ∃ t, exec (.eraseDone n k true) s = .next t ∧ only t ∧
        BlockSet x (t.stack n) k { b with st := .free, used := 0, live := 0, senses := 0, saved := 0, attempt := 0 }) ∧
    (x.ready = true →
      (∃ t, exec (.senseCountCheckpoint n) s = .next t ∧ StackSet s t n { x with blocks := (t.stack n).blocks } ∧
        ∀ j, (t.stack n).block j = { x.block j with saved := (x.block j).senses }) ∧
      (∃ t, exec (.patrolFactorUpdate n) s = .next t ∧
        StackSet s t n { x with factor := if x.temp ≤ 55 then 1 else if x.temp ≤ 65 then 2 else if x.temp ≤ 75 then 4
                                            else if x.temp ≤ 85 then 8 else 16 })) ∧
    (∀ f, x.leastWorn (x.freeSlots (planeOf k) (metaSlot k)) = some f → s.mayRelocate n k = true → 20000000 ≤ b.senses →
        ∃ t, exec (.readDisturbRefresh n k) s = .next t ∧ only t ∧ (t.stack n).rfDist = x.rfDist + 1 ∧
          (t.stack n).physical k = x.physical f ∧ (t.stack n).physical f = x.physical k ∧
          ((t.stack n).block k).live = b.live ∧ ((t.stack n).block f).live = 0 ∧
          ((t.stack n).block k).cycles = (x.block f).cycles) ∧
    (∀ f, x.freeSlots (planeOf k) (metaSlot k) = [f] → s.mayRelocate n k = true → b.cycles < (x.block f).cycles →
      x.meanCycles + 200 ≤ (x.block f).cycles →
        ∃ t, exec (.wearRelocation n k) s = .next t ∧ only t ∧
          (t.stack n).physical k = x.physical f ∧ (t.stack n).physical f = x.physical k ∧
          ((t.stack n).block k).live = b.live ∧ ((t.stack n).block f).live = 0) ∧
    (∀ r : PatrolResult, r.stack = n → n < 8 → r.slot = k → x.ready = true → x.state ≠ 2 → slotOk k = true → 0 < b.live →
      r.retried = false → r.uncorrect = false → r.corrected ≤ s.loam.refreshBits → rankingOk r.ranking = true → r.learn < 8 →
        ∃ t, exec (.patrolBlock r) s = .next t ∧ only t ∧ t.seed = s.seed ∧
          BlockSet x (t.stack n) k { b with senses := b.senses + 15, ranking := r.ranking ++ [0], learn := r.learn }) ∧
    (x.ready = true → x.state ≠ 2 → 4 * (headroomMax - s.headroom n) < headroomMax →
      ∀ slot v units q, s.compactSlot n = some slot → (∀ e ∈ s.movable n slot, e.1 = v) → s.movable n slot ≠ [] →
        units = (s.movable n slot).map (fun e => e.2.1) → s.moveUnits n v units = some q →
          exec (.compaction n) s = .next q) ∧
    (s.smcRuns = true → s.smc.step = 6 → s.seed.recovered = true → x.ready = false → s.loam.sessions = [] → s.loam.compacts = [] →
      (∀ v ∈ s.loam.volumes, v.2.deleting = false ∧ ∀ r ∈ v.2.revs, v.2.current = some r.number) →
      (∀ e ∈ x.blocks, e.2.st ≠ .incomplete) →
        ∃ t, exec (.loamRecovery n) s = .next t ∧
          t = { s with loam := t.loam, seed := { s.seed with ferric := t.seed.ferric } } ∧ (∀ m, m ≠ n → t.stack m = s.stack m) ∧
          (t.stack n).programs = [] ∧ (t.stack n).reads = [] ∧ (t.stack n).buffer = [] ∧ (t.stack n).mapTop = [] ∧
          (t.stack n).mapLeaf = []) ∧
    ∀ die, die < 16 → x.state ≠ 2 → x.reads = [] → x.waiting = [] →
      ∃ t, exec (.loamDieStopsAnswering n die) s = .next t ∧ (t.stack n).state = 2 ∧ (t.stack n).reads = [] ∧
        (t.stack n).waiting = [] ∧ (∀ m, m ≠ n → t.stack m = s.stack m) ∧ t.threads = s.threads ∧ t.dram = s.dram ∧
          t.cores = s.cores ∧
        ∀ d, d < 64 → (s.domain d).valid = true → (∃ i ∈ (s.domain d).roots, ((s.domain d).grant i).kind = 1) →
          ((t.domain d).src 0x003).pend = true

/-! ### Seedbank -/

/-- A new value of an A/B record reads back (R567, R568). A commit moves the open buffer to its commit point, journaled in Ferric,
and opens the other (R570, R573); it programs page by page, retries a failed verify twice, and then takes a spare (R576, R581). A
Ferric unit is written whole or not at all (R562). Patrol rewrites a weak page and finds an uncorrectable one (R580, R582).
Recovery ends step 2 with every partition closed (R577, R583). -/
def Obligations.SeedbankCommits : Prop :=
  (∀ (b : Seedbank) (now a : Nat) (payload : List Byte), payload.length ≤ 56 → b.room a = true → b.room (a + 1) = true →
    a ∉ b.bad → a + 1 ∉ b.bad → (b.write1 now a payload).rec1 a = some (payload ++ List.replicate (56 - payload.length) 0)) ∧
  (∀ s : State, s.seed.recovered = true → NoWaiters s → s.seed.commit = none →
    let o := s.seed.openBuf
    let committed (t : State) : Prop :=
      SeedOnly s t ∧ BuffersOnly s.seed t.seed ∧ t.seed.done = o.cseq ∧
        t.seed.openBuf = { cseq := (o.cseq + 1) % 2 ^ 32, images := [], first := none, asked := false } ∧
        t.seed.commit = some { cseq := o.cseq, todo := o.images, images := o.images, tries := 0 }
    (64 ≤ o.images.length ∨ (o.asked = true ∧ o.images ≠ []) →
      ∃ t, exec .seedbankCommit s = .next t ∧ committed t) ∧
    (∀ first, o.first = some first → first + 1000000 ≤ s.timeBase → o.images ≠ [] →
      ∃ t, exec .commitBufferTimeout s = .next t ∧ committed t) ∧
    (o.images.length < 64 → o.asked = false → (∀ first, o.first = some first → s.timeBase < first + 1000000) →
      exec .seedbankCommit s = .next s ∧ exec .commitBufferTimeout s = .next s)) ∧
  (∀ (s : State) (c : SbCommit) (i : Nat) (img : List Byte) (rest : FMap (List Byte)),
    s.seed.recovered = true → NoWaiters s → s.seed.commit = some c → c.todo = (i, img) :: rest → img.length = 64 →
      let b := s.seed
      (rest ≠ [] → ∃ t, exec (.seedbankPageProgrammed true) s = .next t ∧ SeedOnly s t ∧
        t.seed = { b with
          page := t.seed.page, bad := b.bad.filter (· != i), commit := some { c with todo := rest, tries := 0 } } ∧
        ∀ a, Mem.byte t.seed.page a = if 64 * b.cellsOf i ≤ a ∧ a < 64 * b.cellsOf i + 64 then
          img.getD (a - 64 * b.cellsOf i) 0 else Mem.byte b.page a) ∧
      (rest = [] → b.openBuf.images.length < 64 → b.openBuf.asked = false → b.openBuf.first = none →
        ∃ t, exec (.seedbankPageProgrammed true) s = .next t ∧ SeedOnly s t ∧ t.seed.commit = none ∧
          leNat (Mem.read t.seed.ferric (commitAt + 56) 4) = 0xD0D0D0D0) ∧
      (c.tries < 2 → ∃ t, exec (.seedbankPageProgrammed false) s = .next t ∧ SeedOnly s t ∧
        t.seed = { b with commit := some { c with tries := c.tries + 1 } }) ∧
      (2 ≤ c.tries → b.sparesUsed < 1024 → ∃ t, exec (.seedbankPageProgrammed false) s = .next t ∧ SeedOnly s t ∧
        t.seed.sparesUsed = b.sparesUsed + 1 ∧ FMap.find t.seed.spareMap i = some b.sparesUsed)) ∧
  (∀ (off : Nat) (data : List Byte) (s : State), off % 16 = 0 → off < 0x10000 → data.length = 16 →
    exec (.ferricWrite off data false) s = .next s ∧
    ∃ t, exec (.ferricWrite off data true) s = .next t ∧ t = { s with seed := { s.seed with ferric := t.seed.ferric } } ∧
      ∀ a, Mem.byte t.seed.ferric a = if off ≤ a ∧ a < off + 16 then data.getD (a - off) 0 else Mem.byte s.seed.ferric a) ∧
  (∀ s : State, s.seed.recovered = true → NoWaiters s →
    exec (.seedbankPatrol 65535 .good) s = .next { s with seed := { s.seed with patrolAt := s.timeBase } } ∧
    ∀ i, i < 65535 → s.seed.room i = true → s.seed.commit.isSome = true →
      ∃ t, exec (.seedbankPatrol i .weak) s = .next t ∧ SeedOnly s t ∧ t.seed.weak = s.seed.weak + 1 ∧
        FMap.find t.seed.openBuf.images i = some (s.seed.readPage i)) ∧
  (∀ (s : State) (i : Nat), s.seed.recovered = true → NoWaiters s → i < 65535 → i ∉ s.seed.bad →
    exec (.seedbankPatrol i .lost) s = .next { s with seed := { s.seed with bad := s.seed.bad ++ [i] } }) ∧
  ∀ s : State, s.smcRuns = true → s.smc.step = 2 → s.seed.recovered = false → 3 ∉ s.smc.railBad →
    ∃ t, exec .seedbankRecovery s = .next t ∧ t.smc.step = 3 ∧ t.smc.stepBegan = s.timeBase ∧ t.seed.recovered = true ∧
      (∀ p, t.seed.part p = { rdOpen := false, wrOpen := false, fails := 0, refused := false, ticket := 0 }) ∧
      t.smc.logQ = [] ∧ t.threads = s.threads ∧ t.dram = s.dram ∧ t.domains = s.domains ∧ t.loam = s.loam

/-- A domain's Seedbank window (R583 to R585, R591, R592): unlocking by the thread's SBPWD, which is then zero, the count of
failures and its limit of ten, closing, setting a password that the next presentation needs, the commit request, and loads and
stores of the partition through the aperture. The Synry commands of Seedbank (Table 14-9, R583 to R588) once their checks pass. -/
def Obligations.SeedbankWindowsAndCommands : Prop :=
  (∀ (s : State) (g d : Nat),
     let b := s.seed
     let pw := (s.thread g).sbpwd.toNat
     let x := b.part d
     let right (n : Nat) : Prop := ∃ w, s.grantAt g d 3 (0xFE0002004000 + d * 0x10000) [n] none = .ok w
     let cleared (t : State) : Prop :=
       ∃ r, t = (State.setThread { s with seed := r } g { s.thread g with sbpwd := 0 }) ∧ t.seed = r
     let part (t : State) (y : SbPart) : Prop :=
       t.seed = { b with parts := t.seed.parts } ∧ t.seed.part d = y ∧ ∀ p, p ≠ d → t.seed.part p = b.part p
     let unlocks (i : Instr) (write : Bool) (opened : SbPart) : Prop :=
       ∃ t, exec i s = .next t ∧ cleared t ∧
         (10 ≤ x.fails → t.seed = b) ∧
         (x.fails < 10 → b.password d write = pw → part t opened) ∧
         (x.fails < 10 → b.password d write ≠ pw → part t { x with fails := x.fails + 1 })
     AtWindow s g d →
       (right 0 → unlocks (.sbunlkRd g) false { x with rdOpen := true, fails := 0 }) ∧
       (right 1 → unlocks (.sbunlkWr g) true { x with wrOpen := true, fails := 0 }) ∧
       (∃ t, exec (.sbunlkClose g) s = .next t ∧ cleared t ∧ part t { x with rdOpen := false, wrOpen := false }) ∧
       (right 1 → PasswordRoom b d →
         (b.isOpen d true = true →
           (∃ t, exec (.sbsetpwRd g) s = .next t ∧ cleared t ∧ t.seed.password d false = pw ∧
             t.seed.password d true = b.password d true) ∧
           ∃ t, exec (.sbsetpwWr g) s = .next t ∧ cleared t ∧ t.seed.password d true = pw ∧
             t.seed.password d false = b.password d false) ∧
         (b.isOpen d true = false →
           (∃ t, exec (.sbsetpwRd g) s = .next t ∧ cleared t ∧ part t { x with refused := true }) ∧
           ∃ t, exec (.sbsetpwWr g) s = .next t ∧ cleared t ∧ part t { x with refused := true })) ∧
       (right 1 → NoWaiters s → b.commit = none →
         ∃ t, exec (.sbcommitGo g) s = .next t ∧ SeedOnly s t ∧ BuffersOnly b t.seed ∧ t.seed.done = b.openBuf.cseq ∧
           t.seed.openBuf.cseq = (b.openBuf.cseq + 1) % 2 ^ 32) ∧
       ∀ (a : CsAccess) (off : Nat), a.thread = g → csLocate a.offset = .seed d off → 0x4000 ≤ off → off < 0x8000 → off % 8 = 0 →
         a.width = 8 →
           let here (n : Nat) : Prop := ∃ w, s.grantAt g d 3 (BitVec.ofNat 64 (0xFE0000000000 + a.offset)).toNat [n] none = .ok w
           let at_ := 0x300000 + 0x4000 * d + (off - 0x4000)
           (a.store = false → here 0 →
             (b.isOpen d false = true → b.unreadable at_ 8 = false →
               exec (.seedbankApertureAccess a) s = .next (s.setThread g
                 ((s.thread g).setReg a.reg (BitVec.ofNat 64 (leNat (b.readBytes at_ 8)))))) ∧
             (b.isOpen d false = false → exec (.seedbankApertureAccess a) s =
               .next (s.fault g (Flt.mk' 0x06 0x43 (BitVec.ofNat 64 (0xFE0000000000 + a.offset)))))) ∧
           (a.store = true → here 1 → b.isOpen d true = true → b.domRoom d (at_ / 64) = true → NoWaiters s → FullPages b →
             ∃ t, exec (.seedbankApertureAccess a) s = .next t ∧ SeedOnly s t ∧
               t.seed.readBytes at_ 8 = leBytes 8 a.value.toNat ∧ (t.seed.part d).ticket = b.openBuf.cseq) ∧
           (a.store = true → here 1 → b.isOpen d true = true → b.domRoom d (at_ / 64) = false →
             exec (.seedbankApertureAccess a) s = .next (heldFor
               { thread := g, offset := a.offset, width := 8, value := a.value } .seedbankBuffer s))) ∧
  ∀ (c : SynryReq) (s : State),
    let b := s.seed
    let p := leAt c.params 0 1
    let kind := leAt c.params 1 1
    let pw := leAt c.params 2 8
    let off := leAt c.params 1 4
    let n := leAt c.params 5 2
    let bs := c.params.drop 5
    let x := b.part p
    let parts (r : State) (y : SbPart) : Prop := SeedOnly s r ∧ r.seed = { b with parts := r.seed.parts } ∧
      r.seed.part p = y ∧ ∀ q, q ≠ p → r.seed.part q = b.part q
    (Taken s 0x301 c → ∀ o z, partRange p = some (o, z) →
      (n ≤ 256 → off + n ≤ z → inPwTable (o + off) n = false → b.isOpen p false = true → b.unreadable (o + off) n = false →
        Does s (.sbread c) 0x301 c St.ok (b.readBytes (o + off) n) (· = s)) ∧
      (n ≤ 256 → z < off + n → Does s (.sbread c) 0x301 c St.range [] (· = s)) ∧
      (n ≤ 256 → off + n ≤ z → inPwTable (o + off) n = false → b.isOpen p false = false →
        Does s (.sbread c) 0x301 c St.closed [] (· = s))) ∧
    (Taken s 0x302 c → NoWaiters s → ∀ o z, partRange p = some (o, z) → off + bs.length ≤ z →
      inPwTable (o + off) bs.length = false →
        (b.isOpen p true = true → s.protects p = false → b.failed = [] → b.openBuf.images.length < 60 → FullPages b →
          (∀ k, (o + off) / 64 ≤ k → 64 * k < o + off + bs.length → b.room k = true) → bs ≠ [] →
            Does s (.sbwrite c) 0x302 c St.ok [] (fun r => SeedOnly s r ∧
              r.seed.readBytes (o + off) bs.length = bs)) ∧
        (b.isOpen p true = false → Does s (.sbwrite c) 0x302 c St.closed [] (· = s)) ∧
        (b.isOpen p true = true → s.protects p = true → Does s (.sbwrite c) 0x302 c St.wprot [] (· = s))) ∧
    (Taken s 0x303 c → NoWaiters s → b.commit = none → b.failed = [] →
      let q := b.openBuf.cseq
      Does s (.sbcommit c) 0x303 c St.ok (leBytes 4 q) (fun r => SeedOnly s r ∧ BuffersOnly b r.seed ∧
        r.seed.done = q ∧ r.seed.openBuf.cseq = (q + 1) % 2 ^ 32)) ∧
    (Taken s 0x304 c → (partRange p).isSome = true → kind ≤ 1 →
      let write := kind == 1
      (10 ≤ x.fails → Does s (.sbunlock c) 0x304 c St.locked [] (· = s)) ∧
      (x.fails < 10 → b.password p write ≠ pw →
        Does s (.sbunlock c) 0x304 c St.badPw [] (fun r => parts r { x with fails := x.fails + 1 })) ∧
      (x.fails < 10 → b.password p write = pw →
        Does s (.sbunlock c) 0x304 c St.ok [] (fun r =>
          parts r (if write then { x with wrOpen := true, fails := 0 } else { x with rdOpen := true, fails := 0 })))) ∧
    (Taken s 0x305 c → NoWaiters s → (partRange p).isSome = true → kind ≤ 1 →
      (b.isOpen p true = false → Does s (.sbsetpw c) 0x305 c St.closed [] (· = s)) ∧
      (b.isOpen p true = true → PasswordRoom b p →
        Does s (.sbsetpw c) 0x305 c St.ok [] (fun r => SeedOnly s r ∧ BuffersOnly b r.seed ∧
          r.seed.password p (kind == 1) = pw ∧ r.seed.password p (kind != 1) = b.password p (kind != 1)))) ∧
    (Taken s 0x306 c →
      ((partRange p).isSome = true →
        Does s (.sbclose c) 0x306 c St.ok [] (fun r => parts r { x with rdOpen := false, wrOpen := false })) ∧
      (partRange p = none → Does s (.sbclose c) 0x306 c St.noPart [] (· = s))) ∧
    (Taken s 0x307 c →
      (leAt c.params 4 1 ≤ 16 → Does s (.sbaudit c) 0x307 c St.ok
        (b.ringRead Part.audit 12288 (leAt c.params 0 4) (leAt c.params 4 1)) (· = s)) ∧
      (16 < leAt c.params 4 1 → Does s (.sbaudit c) 0x307 c St.badParam [] (· = s))) ∧
    (Taken s 0x308 c →
      (leAt c.params 4 1 ≤ 16 → Does s (.sblog c) 0x308 c St.ok
        (b.ringRead Part.log 4096 (leAt c.params 0 4) (leAt c.params 4 1)) (· = s)) ∧
      (16 < leAt c.params 4 1 → Does s (.sblog c) 0x308 c St.badParam [] (· = s))) ∧
    (Taken s 0x309 c → NoWaiters s →
      (s.pins.wpN = true → Does s (.sbauditclr c) 0x309 c St.ok [] (fun r => SeedOnly s r ∧ r.seed.auditHead = 0 ∧
        r.seed.auditLive = 0 ∧ ∀ a, 0x22E000 ≤ a → a < 0x2EE000 → Mem.byte r.seed.page a = 0)) ∧
      (s.pins.wpN = false → Does s (.sbauditclr c) 0x309 c St.wprot [] (· = s))) ∧
    (Taken s 0x30A c →
      (p < 64 → Does s (.sbcount c) 0x30A c St.ok (leBytes 8 (b.counter p)) (· = s)) ∧
      (64 ≤ p → Does s (.sbcount c) 0x30A c St.badParam [] (· = s))) ∧
    (Taken s 0x30B c →
      Does s (.sbhealth c) 0x30B c St.ok
        (leBytes 2 (1024 - b.sparesUsed) ++ leBytes 2 b.failed.length ++ leBytes 4 b.replayed ++ leBytes 8 b.patrolAt ++
          leBytes 4 b.weak) (· = s))

/-! ### Change sets and domains -/

/-- The Synry commands of change sets (R611, R612, Table 15-3) and the direct commands DRELEASE, DSTART, OVCLEAR and THRESTART
(R623, R628, R723, Table 15-8), once their checks pass. -/
def Obligations.ChangeSetCommands : Prop :=
  ∀ (c : SynryReq) (s : State),
    let key := ifaceKey c.iface
    let n := leAt c.params 0 2
    let busy := (s.smc.sets.filter (fun y => y.st == .queued || y.st == .removal || y.st == .addition)).length
    let fresh := s.smc.nextSet % 65536
    let d := c.iface.domain
    let g := leAt c.params 0 1
    let ip := leAt c.params 8 8
    (Taken s 0x401 c →
      let open_ := (s.smc.sets.filter (fun y => y.st == .building)).length
      (4 ≤ open_ → Does s (.csbegin c) 0x401 c Ds.setBusy [] (· = s)) ∧
      (open_ < 4 → Does s (.csbegin c) 0x401 c St.ok (leBytes 2 fresh) (fun r => SetsOnly s r fresh ∧
        r.openSet key fresh =
          some { number := fresh, iface := key, persist := c.flags.getLsbD 0, items := [], st := .building,
                 status := St.pending, edge := false, reply := none }))) ∧
    (Taken s 0x402 c →
      (s.openSet key n = none → Does s (.csitem c) 0x402 c Ds.noSet [] (· = s)) ∧
      ∀ x, s.openSet key n = some x → x.items.length < 256 →
        let i : Item :=
          { code := leAt c.params 2 2, params := c.params.drop 4, status := St.pending, phase := 0, deadline := 0,
            forced := false, todo := [], removed := false, added := false }
        Does s (.csitem c) 0x402 c St.ok [] (fun r => SetsOnly s r n ∧
          r.openSet key n = some { x with items := x.items ++ [i] })) ∧
    (Taken s 0x403 c →
      (s.openSet key n = none → Does s (.csend c) 0x403 c Ds.noSet [] (· = s)) ∧
      ∀ x, s.openSet key n = some x →
        (5 ≤ busy → Does s (.csend c) 0x403 c Ds.setBusy [] (· = s)) ∧
        (busy < 5 → Runs s (.csend c) 0x403 c (fun r => SetsOnly s r n ∧
          r.smc.sets.getLast? = some { x with st := .queued, reply := some { iface := c.iface, tag := c.tag, code := 0x403 } }))) ∧
    (Taken s 0x404 c →
      (s.openSet key n = none → Does s (.csabort c) 0x404 c Ds.noSet [] (· = s)) ∧
      ∀ x, s.openSet key n = some x →
        Does s (.csabort c) 0x404 c St.ok [] (fun r => SetsOnly s r n ∧ ∀ y ∈ r.smc.sets, y.number ≠ n)) ∧
    (Taken s 0x405 c →
      let found := s.smc.sets.find? (fun x => x.number == n && x.iface == key)
      (found = none → Does s (.csstatus c) 0x405 c Ds.noSet [] (· = s)) ∧
      ∀ x, found = some x → Does s (.csstatus c) 0x405 c St.ok
        (leBytes 1 x.st.num ++ leBytes 1 x.status ++ x.items.flatMap (fun i => leBytes 1 i.status)) (· = s)) ∧
    (Taken s 0x406 c →
      let kind := leAt c.params 0 1
      let k := leAt c.params 1 1
      let x := s.domain d
      let owns : Bool := match kind with
        | 0 => x.tiles.getLsbD k | 1 => FMap.has x.windows k | 2 => x.ports.getLsbD k | _ => x.valid
      let legal : Prop := kind ≤ 3 ∧ k ≤ (match kind with | 0 => 63 | 1 => 15 | 2 => 15 | _ => 0)
      let named := s.itemsNow.find? (fun p => p.2.releases d kind k)
      (¬legal → Does s (.drelease c) 0x406 c St.badParam [] (· = s)) ∧
      (legal → owns = false → Does s (.drelease c) 0x406 c Ds.notOwner [] (· = s)) ∧
      (legal → owns = true → named = none → Does s (.drelease c) 0x406 c Ds.invalid [] (· = s)) ∧
      (legal → owns = true → ∀ m i, named = some (m, i) →
        Does s (.drelease c) 0x406 c St.ok [] (fun r =>
          ∃ j, r.applyItem m = some j ∧ j.code = i.code ∧ j.params = i.params ∧ 2 ≤ j.phase ∧ j.forced = false))) ∧
    (Taken s 0x407 c →
      (2 ^ 48 ≤ ip → Does s (.dstart c) 0x407 c St.badParam [] (· = s)) ∧
      (ip < 2 ^ 48 → s.awaitsScrub g = true → ∃ t, exec (.dstart c) s = .next t ∧ Said t 0x407 c true St.pending [] ∧
        t.smc.waiting = s.smc.waiting ++ [(0x407, c)] ∧ t.threads = s.threads ∧ t.domains = s.domains ∧ t.dram = s.dram) ∧
      (ip < 2 ^ 48 → s.awaitsScrub g = false → s.domOf g ≠ some d → Does s (.dstart c) 0x407 c Ds.notOwner [] (· = s)) ∧
      (ip < 2 ^ 48 → s.awaitsScrub g = false → s.domOf g = some d → (s.thread g).run ≠ .halted →
        Does s (.dstart c) 0x407 c St.notStopped [] (· = s)) ∧
      (ip < 2 ^ 48 → s.awaitsScrub g = false → s.domOf g = some d → (s.thread g).run = .halted →
        Does s (.dstart c) 0x407 c St.ok [] (fun r =>
          ∃ u, r = s.setThread g u ∧ Started s g ip [d, 0xFE0004000000 + d * 0x40000] u))) ∧
    (Taken s 0x408 c →
      (s.pins.wpN = false → Does s (.ovclear c) 0x408 c St.wprot [] (· = s)) ∧
      (s.pins.wpN = true → s.seed.bad = [] → s.seed.commit = none → s.seed.openBuf.images.length ≤ 32 →
        Does s (.ovclear c) 0x408 c St.ok [] (fun r => SeedOnly s r ∧
          r.seed.overlay.map (·.2.2) = some (buildImage s.smc.imgGen [])))) ∧
    (Taken s 0x102 c →
      let foreign : Prop := ∃ e, fromDomain c.iface = some e ∧ s.domOf g ≠ some e
      (2 ^ 48 ≤ ip → Does s (.threstart c) 0x102 c St.badParam [] (· = s)) ∧
      (ip < 2 ^ 48 → s.awaitsScrub g = true → ∃ t, exec (.threstart c) s = .next t ∧ Said t 0x102 c true St.pending [] ∧
        t.smc.waiting = s.smc.waiting ++ [(0x102, c)] ∧ t.threads = s.threads ∧ t.domains = s.domains ∧ t.dram = s.dram) ∧
      (ip < 2 ^ 48 → s.awaitsScrub g = false → foreign → Does s (.threstart c) 0x102 c St.notPermitted [] (· = s)) ∧
      (ip < 2 ^ 48 → s.awaitsScrub g = false → ¬foreign → (s.thread g).run = .running →
        Does s (.threstart c) 0x102 c St.notStopped [] (· = s)) ∧
      (ip < 2 ^ 48 → s.awaitsScrub g = false → ¬foreign → (s.thread g).run ≠ .running →
        Does s (.threstart c) 0x102 c St.ok [] (fun r =>
        Started s g ip [] (r.thread g) ∧ (∀ h, h ≠ g → r.thread h = s.thread h) ∧ r.dram = s.dram)))

/-- Validating the set at the head of the queue (R613, R616): a failing item rejects it, and no domain changes; otherwise CSEND is
answered ACCEPTED and the narrowing parts take effect at one edge. The quiesce of a class Q item then runs by its grace period,
its scrub and its zeroing (R619, R621, Table 15-6). -/
def Obligations.SetsValidateAndQuiesce : Prop :=
  ∀ s : State,
    (∀ x r, s.applying = none → s.smc.sets.find? (fun x => x.st == .queued) = some x → x.reply = some r →
      (∀ d cls n g, r.iface = .mailbox d cls n g → (s.domain d).valid = true) →
      let c : SynryReq := { iface := r.iface, tag := r.tag, flags := 0, params := [] }
      let l := s.validate x
      (∀ k st, l[k]? = some st → st ≠ 0 → (∀ j, j < k → l[j]? = some 0) → x.items ≠ [] →
        ∃ t, exec .changeSetValidate s = .next t ∧ Said t r.code c false st (leBytes 1 k ++ leBytes 1 st) ∧
          (∀ y ∈ t.smc.sets, y.number = x.number → y.st = .rejected ∧ y.status = st) ∧
          (∀ d, SameHoldings (t.domain d) (s.domain d)) ∧ t.threads = s.threads ∧ t.dram = s.dram) ∧
      ((∀ st ∈ l, st = 0) → x.items ≠ [] → FMap.rises none s.domains = true → (∀ z ∈ s.loam.sessions, z.ops = []) →
        ∃ t, exec .changeSetValidate s = .next t ∧ Said t r.code c false Ds.accepted [] ∧
          (∀ y ∈ t.smc.sets, y.number = x.number → y.st = .removal ∧ y.status = Ds.accepted) ∧ t.dram = s.dram ∧
          ∀ d, SameHoldings (t.domain d) (FMap.get (x.items.foldl (fun m i => i.narrow m) s.domains) d Domain.reset))) ∧
    (∀ k i, s.applyItem k = some i →
      (i.quiesces = true → i.phase = 1 → i.deadline ≤ s.timeBase →
        ∃ t j, exec (.gracePeriodExpiry k) s = .next t ∧ t.applyItem k = some j ∧ j.code = i.code ∧ j.params = i.params ∧
          2 ≤ j.phase ∧ j.forced = true ∧
          (i.code = It.tmove → ∀ g, g / 4 = leAt i.params 0 1 → (t.thread g).run = .halted)) ∧
      (i.phase ≠ 1 ∨ s.timeBase < i.deadline → exec (.gracePeriodExpiry k) s = .next s)) ∧
    (∀ tile k i, tile < 64 → s.todoItem tile (fun _ => decide (tile < 64)) = some (k, i) → s.smc.waiting = [] →
      (∀ c, c / 2 = tile → s.quiet c = true ∧ (s.core c).holds (fun _ => true) = false) →
        ∃ t, exec (.scrubDone tile) s = .next t ∧ (∀ g, g / 4 = tile → t.thread g = Thread.reset g ∧ t.fab g = FabThread.reset) ∧
          (∀ c, c / 2 = tile → t.core c = Core.reset) ∧
          (i.code = It.tmove → i.todo = [tile] → leAt i.params 0 1 = tile → FMap.find t.tileDom tile = none)) ∧
    ∀ d w k i v, s.todoItem (64 + w) (fun i => i.loser == d) = some (k, i) → FMap.find (s.domain d).windows w = some v →
      (∀ c, (s.core c).holds v.hasLine = false) → ∃ t, exec (.windowZeroDone d w) s = .next t ∧
        (∀ a, Mem.byte t.dram a = if v.base ≤ a ∧ a < v.limit then 0 else Mem.byte s.dram a) ∧
        ((s.domain d).valid = true → i.code = It.windel → i.todo = [64 + w] → leAt i.params 1 1 = w →
          FMap.find (t.domain d).windows w = none)

/-- The addition pass (R614, R616, R618): every class A part that gives or widens takes effect at one edge, whichever row brings
it, and each item that is in force has its status. What a set of one item gives follows row by row (R622, R665, R669, R702). The
rows of removals once their drain has ended (R192, R614, R615, R619, R669): ROOTDEL, FEPDEL, FQDEL and FGRPDEL complete; a root
port leaves its domain; a window loses its target; the tiles and windows of TMOVE and DDESTROY wait for scrub and zeroing. -/
def Obligations.AdditionsAndRemovals : Prop :=
  ((∀ (row : Instr) (s : State) (x : ChangeSet), MayAdd s x →
     (row = .additionPass ∨ ∃ code k i, itemOf row = some (code, k) ∧ x.items[k]? = some i ∧ i.code = code ∧
       (i.adds = true ∨ code = It.resetcfg)) →
     ∃ t, exec row s = .next t ∧
       (∀ d, SameHoldings (t.domain d)
         (FMap.get (x.items.foldl (fun m i => if i.added then m else i.give m) s.domains) d Domain.reset)) ∧
       (∃ y ∈ t.smc.sets, y.number = x.number ∧ (y.st = .addition ∨ y.st = .finished) ∧
         ∀ (k : Nat) (i : Item), x.items[k]? = some i → itemClass i.code = 1 → i.adds = true →
           ∃ j : Item, y.items[k]? = some j ∧ j.added = true ∧ j.status = St.ok)) ∧
   ∀ (s : State) (x : ChangeSet) (i : Item), MayAdd s x → x.items = [i] → i.added = false →
     let p := i.params
     let n := leAt p 0 2
     let row (r : Instr) (P : State → Prop) : Prop := itemOf r = some (i.code, 0) → ∃ t, exec r s = .next t ∧ P t
     row (.dcreate 0) (fun t => (t.domain (leAt p 0 1)).valid = true ∧
       (t.domain (leAt p 0 1)).tiles = BitVec.ofNat 64 (leAt p 1 8) ∧ (t.domain (leAt p 0 1)).windows = [] ∧
       ∀ k, k < 64 → bitOf (leAt p 1 8) k = true → FMap.find t.tileDom k = some (leAt p 0 1)) ∧
     row (.tmove 0) (fun t =>
       let e := leAt p 2 1
       let tile := leAt p 0 1
       e ≠ 64 → FMap.find t.tileDom tile = some e ∧
         ((s.domain e).valid = true → tile < 64 → (t.domain e).tiles.getLsbD tile = true) ∧
         (leAt p 5 8 = 2 ^ 64 - 1 → t.threads = s.threads) ∧
         (leAt p 5 8 ≠ 2 ^ 64 - 1 → ∀ g, g / 4 = tile →
           Started s g (leAt p 5 8) [e, 0xFE0004000000 + e * 0x40000, 0, 0, (s.domain e).roots.length] (t.thread g))) ∧
     row (.rootadd 0) (fun t =>
       let d := leAt p 0 1
       ∀ k, (s.domain d).valid = true → (s.domain d).store.freeEntry = some k →
         (t.domain d).roots = (s.domain d).roots ++ [k] ∧
         let g := (t.domain d).store.entry k
         g.inUse = true ∧ g.kind = leAt p 1 1 ∧ g.object = leAt p 2 4 ∧ g.rights = BitVec.ofNat 8 (leAt p 6 1) ∧
           g.base = leAt p 7 8 ∧ g.len = leAt p 15 8 ∧ g.depth = 0 ∧ g.holder = some (s.domain d).holder) ∧
     row (.fepset 0) (fun t => ∃ e : Endpoint, FMap.find t.fabric.endpoints n = some e ∧ e.domain = leAt p 2 1 ∧
       e.base = leAt p 4 8 ∧ e.len = leAt p 12 8 ∧ e.core = (if leAt p 3 1 = 0 then none else some (leAt p 20 1)) ∧
       e.rcnt = leAt p 21 1 ∧ e.nodeLo = leAt p 22 2 ∧ e.nodeHi = leAt p 24 2 ∧ e.initDom = leAt p 26 1 ∧
       e.rights = BitVec.ofNat 8 (leAt p 27 1)) ∧
     row (.fqset 0) (fun t => ∃ q : RecvQueue, FMap.find t.fabric.queues n = some q ∧ q.domain = leAt p 2 1 ∧
       q.base = leAt p 3 8 ∧ q.sz = leAt p 11 1 ∧ q.isrc = leAt p 12 1 ∧ q.head = 0 ∧ q.tail = 0 ∧ q.slots = [] ∧
       q.senders.length = leAt p 13 1) ∧
     row (.fgrpset 0) (fun t => ∃ g : Group, FMap.find t.fabric.groups n = some g ∧ g.members.length = leAt p 2 2 ∧
       g.domains.length = leAt p 2 2 ∧ g.seq = 0) ∧
     row (.routeset 0) (fun t => (s.fabric.coord = true → s.fabric.chStep = 0 → t.fabric.chStep = 1) ∧
       (s.fabric.coord = true → s.fabric.chStep ≠ 0 → t.fabric.chNext = s.fabric.chNext ++ [p])) ∧
     row (.divset 0) (fun t => (t.clk (leAt p 0 1)).req = leAt p 1 1) ∧
     row (.resetcfg 0) (fun t => t.domains = s.domains ∧ t.threads = s.threads ∧
       ∃ y ∈ t.smc.sets, y.number = x.number ∧ y.st = .finished ∧ ∃ j, y.items = [j] ∧ j.status = Ds.deferred)) ∧
  ∀ (s : State) (x : ChangeSet) (i : Item), InRemoval s x → x.items = [i] → i.phase = 2 → i.removed = false →
    (∀ d, s.drained d = true) →
      let d := leAt i.params 0 1
      let w := leAt i.params 1 1
      let row (r : Instr) (P : State → Item → Prop) : Prop :=
        itemOf r = some (i.code, 0) → ∃ t j, exec r s = .next t ∧ t.applyItem 0 = some j ∧ j.code = i.code ∧ P t j
      let ends (t : State) (j : Item) : Prop := j.phase = 4 ∧ j.status = St.ok ∧ j.removed = true ∧ t.domains = s.domains
      row (.rootdel 0) ends ∧ row (.fepdel 0) ends ∧ row (.fqdel 0) ends ∧
      row (.fgrpdel 0) (fun t j => ends t j ∧ FMap.find t.fabric.groups (leAt i.params 0 2) = none) ∧
      row (.portdel 0) (fun t j => i.todo = [] → w < 16 → (s.domain d).valid = true → j.phase = 4 ∧ j.removed = true ∧
        j.status = (if i.forced then Ds.forced else St.ok) ∧ (t.domain d).ports.getLsbD w = false) ∧
      row (.windel 0) (fun t j => i.todo = [64 + w] → j.phase = 3 ∧ (FMap.has (s.domain d).windows w = true →
        w ∈ (t.domain d).cutWin)) ∧
      row (.tmove 0) (fun t j => i.todo ≠ [] → leAt i.params 1 1 ≠ 64 → j.phase = 3 ∧ t.tileDom = s.tileDom) ∧
      row (.ddestroy 0) (fun t j => (i.todo ≠ [] → j.phase = 3) ∧ (i.todo = [] → (s.domain d).roots = [] → j.phase = 4 ∧
        t.domain d = Domain.reset))

/-! ### The fabric -/

/-- Links, the election and its rounds, link states, node IDs and COMMIT (R645, R646, R653 to R659). -/
def Obligations.DiscoveryAndLinks : Prop :=
  ∀ s : State,
    let f := s.fabric
    let own := if s.mayLead then some mySerial else none
    let opt (x : Option Nat) : List Nat := match x with | some n => [1, n] | none => [0, 0]
    (∀ port (failing : BitVec 8) serial far,
      let x := s.fport port
      let halves : Prop := failing.extractLsb' 0 4 = 0 ∨ failing.extractLsb' 4 4 = 0
      (port < 8 → x.mode ≠ 0 → x.up = false → halves → ∃ t, exec (.linkUp port failing serial far) s = .next t ∧ FabricOnly s t ∧
        t.fport port = { x with up := true, x4 := decide (failing ≠ 0), fenced := false, fails := 0, serial := serial,
                                farPort := far } ∧
        (∀ p, p ≠ port → t.fport p = s.fport p) ∧
        t.fabric.firstUp = if x.mode = 1 then some (f.firstUp.getD s.timeBase) else f.firstUp) ∧
      (8 ≤ port ∨ x.mode = 0 ∨ x.up = true ∨ ¬halves → exec (.linkUp port failing serial far) s = .next s)) ∧
    (∀ port n, (s.fport port).up = true →
      let sent := (f.out.filter (fun o => o.1 == port && routedPacket o.2)).map (·.2)
      let falls (i : Instr) : Prop := ∃ t, exec i s = .next t ∧ FabricOnly s t ∧
        t.fport port = { s.fport port with up := false, x4 := false, fails := 0 } ∧ (∀ p, p ≠ port → t.fport p = s.fport p) ∧
        (f.coord = true → f.disc = true → (s.fport port).mode = 1 → f.chStep = 0 → t.fabric.chStep = 1) ∧
        (f.disc = false ∨ (s.fport port).mode ≠ 1 →
          t.fabric.out.length + t.fabric.held.length = f.out.length + f.held.length + min n sent.length) ∧
        (n = 0 → f.coord = false → f.disc = true → (s.fport port).mode = 1 →
          ∃ q : State, q.fport = t.fport ∧ t.fabric.out = f.out ++ floodOf q Ctl.links (linkData q.myLinks))
      falls (.linkDown ⟨port, n⟩) ∧ ((s.fport port).fails = 16 → falls (.flitReplay ⟨port, true, n⟩)) ∧
      ∀ again, (again = true → (s.fport port).fails < 16) →
        ∃ t, exec (.flitReplay ⟨port, again, n⟩) s = .next t ∧ FabricOnly s t ∧
          t.fport port = { s.fport port with
            replay := ((s.fport port).replay + 1) % 2 ^ 32, fails := if again then (s.fport port).fails + 1 else 1 }) ∧
    (s.discovers = true →
      (∃ t, exec .helloSend s = .next t ∧ FabricOnly s t ∧ t.fabric.candidate = minCand f.candidate own ∧
        t.fabric.out = f.out ++ floodOf s Ctl.hello
          ([mySerial, natOf s.eligible] ++ opt s.fixedId ++ [f.round] ++ opt t.fabric.candidate ++ opt f.coordSer)) ∧
      (∀ h : HelloMsg, (s.fport h.port).up = true → (s.fport h.port).mode = 1 →
        ∃ t, exec (.hello h) s = .next t ∧ (t.fport h.port).serial = h.serial ∧
          t.fabric.candidate = (if h.round = f.round then
            minCand (minCand (minCand f.candidate own) (s.cand (if h.eligible then some h.serial else none))) (s.cand h.candidate)
            else f.candidate) ∧
          (f.disc = false ∨ h.coordinator = none ∨ h.coordinator = f.coordSer → FabricOnly s t ∧
            (t.fport h.port).fenced = (s.fport h.port).fenced) ∧
          (f.disc = true → ∀ a b, f.coordSer = some a → h.coordinator = some b → a ≠ b →
            (t.fport h.port).fenced = true ∧ ((s.fport h.port).fenced = false →
              ∀ d ∈ s.domsWithRoot 5, ((t.domain d).src 0x2F0).pend = true))) ∧
      (s.mayLead = true → f.candidate = some mySerial → f.coordSer = none → f.candSince + 2000000 ≤ s.timeBase →
        exec .coordinatorElected s = .next { s with fabric := { f with
          coord := true, coordSer := some mySerial, answers := [], candSince := s.timeBase,
          out := f.out ++ floodOf s Ctl.ask [mySerial] } }) ∧
      (∀ c, c ∉ f.lost → f.coordSer ≠ some c → exec (.linkStateRequest c) s = .next { s with fabric := { f with
          coordSer := some c, out := f.out ++ floodOf s Ctl.ask [c] ++ floodOf s Ctl.links (linkData s.myLinks) } }) ∧
      (∀ l : LinkState,
        (f.coord = true → f.disc = false ∨ f.assigned = [] ∨ (∀ x ∈ f.answers, x.serial = l.serial → x.links = l.links) →
          exec (.linkStateAnswer l) s = .next { s with fabric := { f with
            answers := f.answers.filter (fun x => x.serial != l.serial) ++ [l] } }) ∧
        (f.coord = true → f.disc = true → f.assigned ≠ [] → f.chStep = 0 →
          ∀ x, f.answers.find? (fun x => x.serial == l.serial) = some x → x.links ≠ l.links →
            ∃ t, exec (.linkStateAnswer l) s = .next t ∧ FabricOnly s t ∧ t.fabric.chStep = 1 ∧ t.fabric.chWait = s.nodeList ∧
              t.fabric.answers = f.answers.filter (fun x => x.serial != l.serial) ++ [l]) ∧
        (f.coord = false → exec (.linkStateAnswer l) s = .next { s with fabric := { f with
          out := f.out ++ floodOf s Ctl.links (linkData l) } })) ∧
      (∀ n, f.disc = false → ∃ t, exec (.discoveryCommit n) s = .next t ∧
        t = { s with fabric := t.fabric, smc := { s.smc with step := if s.smc.step = 9 then 10 else s.smc.step } } ∧
        t.fabric.node = n % 65536 ∧ t.fabric.disc = true ∧ t.fabric.epoch = false ∧ t.fabric.state = 2) ∧
      ∀ c,
        let dropped (t : State) : Prop := FabricOnly s t ∧ t.fabric.lost = f.lost ++ [c] ∧ t.fabric.round = f.round + 1 ∧
          t.fabric.coord = false ∧ t.fabric.coordSer = none ∧ t.fabric.answers = [] ∧ t.fabric.assigned = [] ∧
          t.fabric.candidate = (if t.mayLead then some mySerial else none) ∧
          t.fabric.out = f.out ++ floodOf s Ctl.lost [c, f.round] ∧ (f.disc = false → t.fabric.bank0 = [] ∧ t.fabric.bank1 = [])
        (c ∉ f.lost → ∀ r, ∃ t, exec (.lost c r) s = .next t ∧ dropped t) ∧
        (c ∈ f.lost → ∀ r, exec (.lost c r) s = .next s) ∧
        (c ∉ f.lost → f.coordSer = some c → c ≠ mySerial →
          (∃ p, p < 8 ∧ (s.fport p).mode = 1 ∧ (s.fport p).serial = c) → ∃ t, exec .coordinatorLost s = .next t ∧ dropped t)) ∧
    (f.coord = true → f.assigned = [] →
      let ids := assignIds s.meadow s.known
      (s.nodesCount ≤ f.answers.length + 1 ∨ f.candSince + 200000000 ≤ s.timeBase →
        ∃ t, exec .nodeIdAssignment s = .next t ∧ t.fabric = { f with
            assigned := ids.1, out := f.out ++ (bankOrders mySerial s.known ids.1).flatMap (floodOf s Ctl.bank) ++
              ids.1.flatMap (fun p => floodOf s Ctl.commit [p.1, p.2]) } ∧
          t.threads = s.threads ∧ t.dram = s.dram ∧ t.domains = s.domains) ∧
      (f.answers.length + 1 < s.nodesCount → s.timeBase < f.candSince + 200000000 → exec .nodeIdAssignment s = .next s)) ∧
    (∀ at_, f.firstUp = some at_ → f.state = 1 → f.disc = false →
      (at_ + 500000000 ≤ s.timeBase → ∃ t, exec .discoveryTimeout s = .next t ∧
        t = { s with fabric := t.fabric, smc := { s.smc with step := if s.smc.step = 9 then 10 else s.smc.step } } ∧
        t.fabric.state = 3 ∧ t.fabric.bank0 = [] ∧ t.fabric.bank1 = []) ∧
      (s.timeBase < at_ + 500000000 → exec .discoveryTimeout s = .next s)) ∧
    ∀ c : SynryReq, Taken s 0x501 c → s.fabricOn = true → (∀ o ∈ f.ops, o.kind = fabPut ∨ o.kind = fabGet ∨ o.kind = fabSend) →
      Does s (.frescan c) 0x501 c St.ok [] (fun r => r.fabric.node = 0xFFFF ∧ r.fabric.disc = false ∧ r.fabric.coord = false ∧
        r.fabric.state = 1 ∧ r.fabric.ops = [] ∧ r.fabric.colls = [] ∧ r.fabric.bank0 = [] ∧ r.fabric.bank1 = [] ∧ r.dram = s.dram)

/-- Changing routes by epoch (R665, R666, R688): what each step does at a node, what it acknowledges, and the coordinator's next
step once every node has answered. -/
def Obligations.RoutesChangeByEpoch : Prop :=
  ∀ s : State,
    let f := s.fabric
    let acked (kind : Nat) (x : Fabric) (t : State) : Prop :=
      FabricOnly s t ∧ t.fabric = { x with out := t.fabric.out, held := t.fabric.held } ∧
        ∀ p ∈ floodOf s kind [f.node], p ∈ t.fabric.out
    (∀ ws : List RouteWrite, s.discovers = true →
      (f.disc = false → exec (.routeBankWrite ws) s = .next { s with
        fabric := ws.foldl (fun f w => f.writeRoute false w) f }) ∧
      (f.disc = true → f.phase ≤ 1 → ∃ t, exec (.routeBankWrite ws) s = .next t ∧
        acked Ctl.ack { ws.foldl (fun f w => f.writeRoute (!f.epoch) w) f with phase := 1 } t ∧
        (f.epoch = false → t.fabric.bank0 = f.bank0 ∧ t.fabric.gw0 = f.gw0) ∧
        (f.epoch = true → t.fabric.bank1 = f.bank1 ∧ t.fabric.gw1 = f.gw1))) ∧
    (f.phase = 1 → ∃ t, exec .bufferDivide s = .next t ∧ acked Ctl.ack { f with phase := 2 } t) ∧
    (f.phase = 2 → ∃ t, exec .epochFlip s = .next t ∧ acked Ctl.ack { f with phase := 3, epoch := !f.epoch } t) ∧
    (f.phase = 3 →
      ((∀ p ∈ f.held ++ f.parked ++ f.inbuf, p.epoch = f.epoch) →
        ∃ t, exec .epochDrainReport s = .next t ∧ acked Ctl.drain { f with phase := 4 } t) ∧
      ((∃ p ∈ f.held ++ f.parked ++ f.inbuf, p.epoch ≠ f.epoch) → exec .epochDrainReport s = .next s)) ∧
    (f.phase = 4 → ∃ t, exec .routeBankRetire s = .next t ∧ t.fabric = { f with phase := 0, retired := f.retired + 1 } ∧
      (∀ d ∈ s.domsWithRoot 5, ((t.domain d).src 0x2F1).pend = true) ∧ t.threads = s.threads ∧ t.dram = s.dram) ∧
    (f.phase ≠ 1 → exec .bufferDivide s = .next s) ∧ (f.phase ≠ 2 → exec .epochFlip s = .next s) ∧
    (f.phase ≠ 4 → exec .routeBankRetire s = .next s) ∧
    ∀ n, f.coord = true → n ∈ f.chWait →
      let rest := f.chWait.filter (· != n)
      let next (x : Fabric) : Prop := exec (.epochChangeAck n) s = .next { s with fabric := x }
      (rest ≠ [] → next { f with chWait := rest }) ∧
      (rest = [] →
        (f.chStep = 1 → next { f with chStep := 2, chWait := s.nodeList, out := f.out ++ floodOf s Ctl.divide [] }) ∧
        (f.chStep = 2 → ∀ m l, s.nodeList = m :: l →
          next { f with chStep := 3, chWait := [m], chDone := l, out := f.out ++ floodOf s Ctl.flip [m] }) ∧
        (f.chStep = 3 → ∀ m l, f.chDone = m :: l →
          next { f with chWait := [m], chDone := l, out := f.out ++ floodOf s Ctl.flip [m] }) ∧
        (f.chStep = 3 → f.chDone = [] → next { f with chStep := 4, chWait := s.nodeList }) ∧
        (f.chStep = 4 → f.chNext = [] →
          next { f with chStep := 0, chWait := [], out := f.out ++ floodOf s Ctl.retire [] }))

/-- Packets at their destination (R661, R667, R670, R672 to R679): one for another node goes on; a TPUT row is written to its
endpoint or refused, and its last is acknowledged; a TGET request is answered row by row; the initiator's acknowledgement, row and
refusal; a message is written to its slot with QTAIL after it; its acknowledgement, credit requests and credit returns. Writes of
DRAM are the agent's, which leave no L2 a copy (R462).
That a packet waits while its lines cannot be had, and that a request which its thread's tile left for another domain counts
nothing, is the model's choice (logs 49, 31). -/
def Obligations.PacketsAtTheirTarget : Prop :=
  ∀ (s : State) (p : Packet),
    let f := s.fabric
    let s0 := Turn s p
    (f.state = 2 → p.dst ≠ f.node → ∃ t, exec (.packetArrival p) s = .next t ∧ FabricOnly s t ∧
      (∀ o, s.routePort p.dst p.epoch = some o → t.fabric = { f with
        out := f.out ++ [(o, { p with crossed := p.crossed || (s.fport o).mode == 3 })] }) ∧
      (s.routePort p.dst p.epoch = none → t.fabric = { f with held := f.held ++ [p] })) ∧
    (NextInOrder s p → s.packetReady p = false →
      exec (.packetArrival p) s = .next { s with fabric := { f with inbuf := f.inbuf ++ [p] } }) ∧
    (∀ q, f.state = 2 → p.dst = f.node → q = FMap.get f.seqIn (p.src * 4 + p.vc) 0 → p.seq ≠ q →
      let full : Prop := 32 ≤ (f.parked.filter (fun x => x.vc == p.vc)).length
      (0x8000 ≤ (p.seq - q).toNat ∨ p ∈ f.parked ++ f.inbuf → exec (.packetArrival p) s = .next s) ∧
      ((p.seq - q).toNat < 0x8000 → p ∉ f.parked ++ f.inbuf → ¬full →
        exec (.packetArrival p) s = .next { s with fabric := { f with parked := f.parked ++ [p] } }) ∧
      ((p.seq - q).toNat < 0x8000 → p ∉ f.parked ++ f.inbuf → full →
        exec (.packetArrival p) s = .next { s with fabric := { f with inbuf := f.inbuf ++ [p] } })) ∧
    (InTurn s p →
      (∀ th tag ep off bs last rcen, p.body = .tputRow th tag ep off bs last rcen →
        ∀ i ∈ [Instr.tputRowArrival p, .packetArrival p],
          let k := (p.src, th, tag)
          let others := f.badPuts.filter (· != k)
          (s.endpointFor p ep 0 off bs.length = none →
            ∃ t, exec i s = .next t ∧ Sends { s0 with fabric := { s0.fabric with
              badPuts := if last then others else others ++ [k] } } t p.src 1 p.srcDom (.refused th tag)) ∧
          ∀ e, s.endpointFor p ep 0 off bs.length = some e →
            (e.core = none → LinesFree s (e.base + off) bs.length) → ∃ t m : State, exec i s = .next t ∧
              (last = true → k ∉ f.badPuts → Sends m t p.src 1 p.srcDom (.tputAck th tag)) ∧ (last = false → t = m) ∧
              (last = true → k ∈ f.badPuts → t = { m with fabric := { m.fabric with badPuts := others } }) ∧
              (e.core = none → Overwritten s0 m (e.base + off) bs.length ∧ ∀ a, Mem.byte m.dram a =
                if e.base + off ≤ a ∧ a < e.base + off + bs.length then bs.getD (a - (e.base + off)) 0 else Mem.byte s.dram a) ∧
              ∀ c, e.core = some c → m = { s0 with cores := m.cores } ∧ (∀ k, k ≠ c → m.core k = s.core k) ∧
                (∀ a, Mem.byte (m.core c).tsb a =
                  if e.base + off ≤ a ∧ a < e.base + off + bs.length then bs.getD (a - (e.base + off)) 0
                  else Mem.byte (s.core c).tsb a) ∧
                (last = true ∧ rcen = true ∧ k ∉ f.badPuts → Counted1 (s.core c) (m.core c) e.rcnt false) ∧
                (last = false ∨ rcen = false ∨ k ∈ f.badPuts → (m.core c).scnt = (s.core c).scnt)) ∧
      (∀ th tag ep off stride rows len, p.body = .tgetReq th tag ep off stride rows len →
        let at_ (i : Nat) : Nat := (((off : Int) + i * stride) % 2 ^ 64).toNat
        (0 < rows → s.endpointFor p ep 1 (at_ 0) len = none →
          ∃ t, exec (.tgetRequestArrival p) s = .next t ∧ Sends s0 t p.src 1 p.srcDom (.refused th tag)) ∧
        ∀ e o, (∀ i, i < rows → s.endpointFor p ep 1 (at_ i) len = some e) → s.routePort p.src f.epoch = some o →
          ∃ t, exec (.tgetRequestArrival p) s = .next t ∧
            t = { s with fabric := t.fabric, ddr := { s.ddr with openRow := t.ddr.openRow } } ∧
            t.fabric.out = f.out ++ (List.range rows).map (fun i =>
              (o, { src := f.node, dst := p.src, vc := 1, epoch := f.epoch,
                    seq := FMap.get f.seqOut (p.src * 4 + 1) 0 + BitVec.ofNat 16 i,
                    crossed := (s.fport o).mode == 3, srcDom := p.srcDom,
                    body := .tgetRow th tag i (s.epRead e (at_ i) len) (i + 1 == rows) }))) ∧
      (∀ th tag, p.body = .tputAck th tag →
        (s.opOf th tag fabPut = none → exec (.tputAck p) s = .next s0) ∧
        ∀ o, Named s o th tag fabPut → ∃ t, exec (.tputAck p) s = .next t ∧
          t = { s0 with cores := t.cores, fabric := { s0.fabric with ops := opsBut s tag } } ∧
          CountedIn s t (th / 2) o.cnt (o.lcen && s.inDomain th o.dom)) ∧
      (∀ th tag row bs last, p.body = .tgetRow th tag row bs last →
        (s.opOf th tag fabGet = none → exec (.tgetRowReturn p) s = .next s0) ∧
        ∀ o, Named s o th tag fabGet → (s.thread th).tile.queue ≠ [] →
          ∃ t, exec (.tgetRowReturn p) s = .next t ∧
            (∀ a, Mem.byte (t.thread th).tile.data a =
              let at_ := regBase o.reg + (o.row0 + row) * rowBytes o.reg
              if at_ ≤ a ∧ a < at_ + bs.length then bs.getD (a - at_) 0 else Mem.byte (s.thread th).tile.data a) ∧
            (last = false → (t.thread th).tile.queue = (s.thread th).tile.queue ∧
              t.opOf th tag fabGet = some { o with done := o.done + 1 } ∧ t.cores = s.cores) ∧
            (last = true → (t.thread th).tile.queue = (s.thread th).tile.queue.drop 1 ∧ t.fabric.ops = opsBut s tag ∧
              CountedIn s t (th / 2) o.cnt (o.lcen && s.inDomain th o.dom)) ∧ t.dram = s.dram) ∧
      (∀ th tag, p.body = .refused th tag →
        (∀ o, Named s o th tag fabPut → ∃ t, exec (.fabricRefused p) s = .next t ∧ t.fabric.ops = opsBut s tag ∧
          o.thread = th ∧ Failed t th 0x04 o.dom ∧ t.fabric.ferrNode = o.node ∧
          (o.lcen = true → s.inDomain th o.dom = true → bitOf (FMap.get (t.core (th / 2)).scnt o.cnt 0).toNat 32 = true) ∧
            t.dram = s.dram ∧
          t.threads = s.threads) ∧
        (s.opOf th tag fabPut = none → ∀ o, Named s o th tag fabGet → (s.thread th).tile.queue ≠ [] →
          ∃ t, exec (.fabricRefused p) s = .next t ∧ t.fabric.ops = opsBut s tag ∧
            (t.thread th).tile.held = some (0x13, 0x09) ∧ (t.thread th).tile.faddr = o.faddr ∧
            bitsOf ((t.thread th).sysNat Sys.tprog) 6 0 = o.done % 128)) ∧
      (∀ th tag n bs, p.body = .send th tag n bs →
        (FMap.find f.queues n = none → ∃ t, exec (.messageDelivery p) s = .next t ∧
          Sends s0 t p.src 1 p.srcDom (.sendAck th tag 0x04)) ∧
        ∀ q, FMap.find f.queues n = some q →
          (q.senderOf p.src p.srcDom = none → ∃ t, exec (.messageDelivery p) s = .next t ∧
            Sends s0 t p.src 1 p.srcDom (.sendAck th tag 0x08)) ∧
          ∀ k e, q.senderOf p.src p.srcDom = some (k, e) →
            let at_ := q.base + 256 * (q.tail.toNat % (16 * 2 ^ q.sz))
            LinesFree s at_ 256 →
            ∃ t m w : State, exec (.messageDelivery p) s = .next t ∧ Sends m t p.src 1 p.srcDom (.sendAck th tag 0) ∧
              Overwritten s0 w at_ 256 ∧
              m = { w with domains := m.domains, fabric := { s0.fabric with queues := m.fabric.queues } } ∧
              FMap.find m.fabric.queues n = some { q with tail := q.tail + 1, slots := q.slots ++ [(p.src, p.srcDom)] } ∧
              (let slot := leBytes 3 (p.src + p.srcDom % 64 * 2 ^ 16) ++ leBytes 1 bs.length ++ leBytes 4 k ++
                 leBytes 8 q.tail.toNat ++ padTo 240 bs
               ∀ a, Mem.byte m.dram a = if at_ ≤ a ∧ a < at_ + 256 then slot.getD (a - at_) 0 else Mem.byte s.dram a) ∧
              ((s.domain q.domain).valid = true → ((m.domain q.domain).src (0x200 + q.isrc)).pend = true)) ∧
      (∀ th tag code, p.body = .sendAck th tag code →
        (s.opOf th tag fabSend = none → exec (.sendAck p) s = .next s0) ∧
        (∀ o, s.opOf th tag fabSend = some o → ∃ t, exec (.sendAck p) s = .next t ∧ FabricOnly s t ∧
          (code = 0 → t.fabric.credits = f.credits) ∧
          (code = 0x04 ∨ code = 0x08 → t.credit o.dom (epNumber o.object) o.node = none) ∧ t.fabric.ops = opsBut s tag ∧
            t.fab th = (if s.inDomain th o.dom then
            { s.fab th with sndState := if code = 0 then 2 else 3, sndCode := code } else s.fab th) ∧
          ∀ h, h ≠ th → t.fab h = s.fab h)) ∧
      (∀ n, p.body = .creditReq n →
        let tells (count code : Nat) : Prop := ∃ t, exec (.creditRequest p) s = .next t ∧
          Sends s0 t p.src 1 p.srcDom (.creditReturn p.srcDom n count code)
        (FMap.find f.queues n = none → tells 0 0x04) ∧
        ∀ q, FMap.find f.queues n = some q → (q.senderOf p.src p.srcDom = none → tells 0 0x08) ∧
          ∀ k e, q.senderOf p.src p.srcDom = some (k, e) → tells e.quota 0) ∧
      ∀ d n count code, p.body = .creditReturn d n count code →
        (s.credit d n p.src = none → exec (.creditReturn p) s = .next s0) ∧
        ∀ c, s.credit d n p.src = some c → ∃ t, exec (.creditReturn p) s = .next t ∧ FabricOnly s t ∧
          t.credit d n p.src = (if code ≠ 0 ∧ c.asked = false then none else some <|
            if code ≠ 0 then { c with deny := code, asked := false }
            else if c.asked then { c with have_ := count, quota := count, asked := false }
            else { c with have_ := min c.quota (c.have_ + count) }))

/-- TPUT and TGET as they issue (R670 to R672, R675), or in Fixed-time mode are refused (R412); a store to SNDCTL or QHEAD (R677
to R679, Table 16-7), and the fabric timeout (R683, R685). A thread that finds no fabric-get entry takes its turn (R261, R675),
and a start store that holds stays in its thread's store queue. The order of that turn and the place where such a store waits are
the model's choices (logs 49, 33). -/
def Obligations.FabricRequestsBegin : Prop :=
  (∀ (s s1 : State) (g : Nat) (e : TqEntry) (t : TileInsn) (m : TileMove) (w : GrantWin) (o : Nat),
    (∀ k : TileMove → State → State, s.moveSetup g e t k = k m s1) → (s1.thread g).tile.resume = 0 →
      let tag := s1.fabric.nextOp
      let node := epNode w.object
      let dom := (s1.domOf g).getD 0
      let op (kind : Nat) : FabOp :=
        { thread := g, dom := dom, kind := kind, window := m.win, object := w.object, reg := m.code, row0 := m.row0, nrow := m.nrow,
          done := 0, cnt := m.e % 16, lcen := bitOf m.e 4, node := node, faddr := BitVec.ofNat 64 (m.at_ 0), tag := tag,
            since := s1.timeBase,
          marked := false }
      let handed (k : Nat) : FabOp := { op fabPut with done := k }
      let covered : Prop := ∀ i, i < m.nrow → 64 * w.base ≤ m.at_ i ∧ m.at_ i < 64 * w.limit ∧
        m.at_ i + rowBytes m.code ≤ 64 * w.limit
      let ready : Prop := covered ∧ s1.getFree g = true ∧ s1.fabric.state = 2
      (AtHead s g e t 0x18 → s1.fabWindow g m.win 1 0 = some w → ready → s1.routePort node s1.fabric.epoch = some o →
        ∃ r u, exec (.tput ⟨g, none⟩) s = .next r ∧ r = { s1.setThread g u with fabric := r.fabric } ∧ Popped (s1.thread g) u ∧
          r.fabric.getWait = s1.fabric.getWait.filter (· != g) ∧ r.fabric.ops = s1.fabric.ops ++ [handed m.nrow] ∧
            r.fabric.nextOp = tag + 1 ∧
          r.fabric.out = s1.fabric.out ++ (List.range m.nrow).map (fun i =>
            (o, { src := s1.fabric.node, dst := node, vc := 0, epoch := s1.fabric.epoch,
                  seq := FMap.get s1.fabric.seqOut (node * 4) 0 + BitVec.ofNat 16 i, crossed := (s1.fport o).mode == 3,
                  srcDom := dom,
                  body := .tputRow g tag (epNumber w.object) (m.at_ i) ((s1.thread g).tile.row m.code (m.row0 + i))
                    (i + 1 == m.nrow) (bitOf m.e 5) }))) ∧
      (AtHead s g e t 0x18 → s1.fabWindow g m.win 1 0 = some w → ready → exec (.tput ⟨g, some 0⟩) s = .next s ∧
        ∀ n, 0 < n → n < m.nrow → ∃ r, exec (.tput ⟨g, some n⟩) s = .next r ∧ r.dram = s1.dram ∧
          r.fabric.ops = s1.fabric.ops ++ [handed n] ∧ (r.thread g).tile.queue = (s1.thread g).tile.queue ∧
          (r.thread g).tile.resume = n ∧
            r.fabric.out.length + r.fabric.held.length = s1.fabric.out.length + s1.fabric.held.length + n) ∧
      (AtHead s g e t 0x19 → s1.fabWindow g m.win 1 1 = some w → ready →
        ∃ r a : State, exec (.tget g) s = .next r ∧
          a = { s1 with fabric := { s1.fabric with
            ops := s1.fabric.ops ++ [op fabGet], nextOp := tag + 1, getWait := s1.fabric.getWait.filter (· != g) } } ∧
          Sends a r node 0 dom (.tgetReq g tag (epNumber w.object) (m.at_ 0) m.stride m.nrow (rowBytes m.code))) ∧
      ∀ i k, (i, k) ∈ [(Instr.tput ⟨g, none⟩, 0), (.tget g, 1)] → AtHead s g e t (0x18 + k) →
        (s1.fabWindow g m.win 1 k = none →
          exec i s = .next (s1.stopTile g 0x13 0x0C (BitVec.ofNat 64 (m.at_ 0)) 0)) ∧
        (s1.fabWindow g m.win 1 k = some w → covered → s1.getFree g = false →
          exec i s = .next { s1 with fabric := { s1.fabric with
            getWait := if g ∈ s1.fabric.getWait then s1.fabric.getWait else s1.fabric.getWait ++ [g] } })) ∧
  (∀ (s : State) (g : Nat) (e : TqEntry) (t : TileInsn) (i : Instr) (k : Nat), (i, k) ∈ [(Instr.tput ⟨g, none⟩, 0x18), (.tget g,
    0x19)] →
    s.tileHead g = some e → e.op = .tile t → t.op.toNat = k → t.esc ≠ 0xE9 → (s.core (g / 2)).mode = 2 →
    (s.thread g).tile.timed = [] → (s.thread g).tile.move = none → bitsOf t.fw 10 5 + bitsOf t.fw 17 11 ≤ regRows (t.fw % 32) →
      exec i s = .next (s.stopTile g 0x11 0x07 0 (s.thread g).tile.resume)) ∧
  (∀ (s : State) (w : CsStore) (d g : Nat), Reaches s w (.fabric d (0x30000 + 0x100 * g)) → g < 256 → w.value.getLsbD 0 = true →
    let v := w.value.toNat
    let n := bitsOf v 11 4
    let dom := (s.domOf g).getD 0
    let area (st code : Nat) : Prop := exec (.sndctlGo w) s = .next
      ((s.onFab g (fun x => { x with sndState := st, sndCode := code })).onThread w.thread (fun t => { t with hold := .none }))
    let holds (h : Hold) : Prop := exec (.sndctlGo w) s = .next (heldFor w h s)
    ((s.fab g).sndState = 1 → holds .busySend) ∧
    ((s.fab g).sndState ≠ 1 → 128 < n → area 3 0x09) ∧
    ((s.fab g).sndState ≠ 1 → n ≤ 128 → s.fabWindow g (bitsOf v 3 1) 2 2 = none → area 3 0x01) ∧
    ∀ x, (s.fab g).sndState ≠ 1 → n ≤ 128 → s.fabWindow g (bitsOf v 3 1) 2 2 = some x →
      let q := epNumber x.object
      let node := epNode x.object
      (s.fabric.state ≠ 2 → area 3 0x05) ∧
      (s.fabric.state = 2 → s.getFree g = false → exec (.sndctlGo w) s = .next (heldFor w .bound { s with fabric := { s.fabric with
        getWait := if g ∈ s.fabric.getWait then s.fabric.getWait else s.fabric.getWait ++ [g] } })) ∧
      (s.fabric.state = 2 → s.getFree g = true →
        (s.credit dom q node = none → s.fabric.credits.length < 256 →
          ∃ t a : State, exec (.sndctlGo w) s = .next (heldFor w .sendCredit t) ∧
            a = { s with fabric := { s.fabric with credits := a.fabric.credits } } ∧ (a.credit dom q node).any (·.asked) = true ∧
            Sends a t node 0 dom (.creditReq q)) ∧
        ∀ c, s.credit dom q node = some c →
          (c.deny ≠ 0 → ∃ t, exec (.sndctlGo w) s = .next t ∧ (t.fab g).sndState = 3 ∧ (t.fab g).sndCode = c.deny) ∧
          (c.deny = 0 → c.have_ = 0 → holds .sendCredit) ∧
          (c.deny = 0 → 0 < c.have_ →
            ∃ t a : State, exec (.sndctlGo w) s = .next (t.onThread w.thread (fun t => { t with hold := .none })) ∧
              a = { s with fabric := { s.fabric with
                credits := a.fabric.credits, ops := a.fabric.ops, nextOp := s.fabric.nextOp + 1, threads := a.fabric.threads,
                getWait := s.fabric.getWait.filter (· != g) } } ∧
              a.credit dom q node = some { c with have_ := c.have_ - 1 } ∧ a.fabric.ops.length = s.fabric.ops.length + 1 ∧
              a.fab g = { s.fab g with sndState := 1, sndCode := 0 } ∧
              Sends a t node 0 dom (.send g s.fabric.nextOp q (Mem.read (s.fab g).msg 0 n))))) ∧
  (∀ (s : State) (w : CsStore) (d n : Nat) (q : RecvQueue), Reaches s w (.fabric d (0x10000 + 32 * n)) → n < 4096 →
    FMap.find s.fabric.queues n = some q →
      let h : BitVec 32 := BitVec.ofNat 32 w.value.toNat
      let k := (h - q.head).toNat
      ((q.tail - h).toNat ≤ (q.tail - q.head).toNat → ∃ t, exec (.qheadWrite w) s = .next t ∧ FabricOnly s t ∧
        FMap.find t.fabric.queues n = some { q with head := h, slots := q.slots.drop k } ∧
        t.fabric.out.length + t.fabric.held.length = s.fabric.out.length + s.fabric.held.length + min k q.slots.length ∧
        ∀ x rest, q.slots = x :: rest → k = 1 →
          ∃ a : State, a = { s with fabric := { s.fabric with queues := a.fabric.queues } } ∧
            Sends a t x.1 1 x.2 (.creditReturn x.2 n 1 0)) ∧
      ((q.tail - q.head).toNat < (q.tail - h).toNat → exec (.qheadWrite w) s = .next s)) ∧
  ∀ (s : State) (g : Nat),
    let ops := s.fabric.ops.filter (fun o => o.thread == g && s.expired o.since)
    let colls := s.fabric.colls.filter (fun c => c.thread == g && s.expired c.since)
    let late (c : Credit) : Bool := c.asked && c.domain == (s.domOf g).getD 0 && s.expired c.since
    (ops = [] → colls = [] → exec (.fabricTimeout g) s = .next { s with fabric := { s.fabric with
      credits := s.fabric.credits.map (fun c => if late c then { c with asked := false, deny := 0x05 } else c) } }) ∧
    (∀ o, ops = [o] → colls = [] → Named s o g o.tag o.kind → ∃ t, exec (.fabricTimeout g) s = .next t ∧ t.dram = s.dram ∧
      (o.kind = fabSend → t.fabric.ops = opsBut s o.tag ∧ (s.inDomain g o.dom = true →
        t.fab g = { s.fab g with sndState := 3, sndCode := 0x05 })) ∧
      (o.kind = fabPut → t.fabric.ops = opsBut s o.tag ∧ Failed t g 0x05 o.dom) ∧
      (o.kind = fabGet → t.fabric.ops = opsBut s o.tag ∧ ((s.thread g).tile.queue ≠ [] →
        (t.thread g).tile.held = some (0x13, 0x0A)))) ∧
    ∀ c, ops = [] → colls = [c] → ∃ t, exec (.fabricTimeout g) s = .next t ∧ t.dram = s.dram ∧
      t.fab g = { s.fab g with colState := 3, colCode := 0x05 } ∧ (∀ x ∈ t.fabric.colls, x.thread ≠ g) ∧ Failed t g 0x05 c.dom

/-- Collectives (R680 to R683): what a store to COLCTL starts or refuses; a member with children waits for them, a barrier's leaf
tells its parent, and a group of one ends at once; a child's chunk at the root is combined, written and sent down; a chunk from
the parent is written; a member that differs fails. -/
def Obligations.CollectivesCombine : Prop :=
  (∀ (s : State) (w : CsStore) (d g k : Nat) (i : Instr),
    (i, k) ∈ [(Instr.collectiveSum w, 0), (.collectiveMax w, 1), (.collectiveBroadcast w, 2), (.collectiveBarrier w, 3)] →
    Reaches s w (.fabric d (0x30028 + 0x100 * g)) → g < 256 → w.value.getLsbD 0 = true → bitsOf w.value.toNat 5 4 = k →
      let v := w.value.toNat
      let x := s.fab g
      let ends (code : Nat) : Prop := exec i s = .next
        ((s.onFab g (fun x => { x with colState := 3, colCode := code })).onThread w.thread (fun t => { t with hold := .none }))
      let wd := s.fabWindow g (bitsOf v 3 1) 3 3
      (x.colState = 1 → exec i s = .next (heldFor w .busySend s)) ∧
      (x.colState ≠ 1 → 4194304 < x.colCnt → ends 0x09) ∧
      (x.colState ≠ 1 → x.colCnt ≤ 4194304 → wd = none → ends 0x01) ∧
      ∀ y, x.colState ≠ 1 → x.colCnt ≤ 4194304 → wd = some y →
        let n := epNumber y.object
        (s.fabric.state ≠ 2 → ends 0x05) ∧
        (s.fabric.state = 2 → s.getFree g = false → exec i s = .next (heldFor w .bound { s with fabric := { s.fabric with
          getWait := if g ∈ s.fabric.getWait then s.fabric.getWait else s.fabric.getWait ++ [g] } })) ∧
        (s.fabric.state = 2 → s.getFree g = true → FMap.find s.fabric.groups n = none → ends 0x04) ∧
        ∀ gr me, s.fabric.state = 2 → s.getFree g = true → FMap.find s.fabric.groups n = some gr →
          (List.range gr.members.length).find? (fun i => gr.members.getD i 0 == s.fabric.node) = some me →
          (gr.domains.getD me 64 ≠ (s.domOf g).getD 0 → ends 0x04) ∧
          (gr.domains.getD me 64 = (s.domOf g).getD 0 → k = 3 ∨ bitOf v 9 = false → s.collOf n = none →
            (∀ c ∈ s.fabric.colls, c.thread ≠ g) → (∀ m ∈ s.fabric.early, m.group ≠ n) →
            let c : Coll :=
              { thread := g, dom := (s.domOf g).getD 0, group := n, me := me, op := k,
                type := (if bitsOf v 7 6 = 3 then 0 else bitsOf v 7 6), isat := bitOf v 8,
                tsb := bitOf v 9, root := bitsOf v 22 10, cnt := x.colCnt, cen := bitOf v 27, count := bitsOf v 26 23,
                src := x.colSrc, dst := x.colDst, ring := (s.thread g).ring, seq := gr.seq, next := 0, heard := [], wrote := 0,
                flags := 0, since := s.timeBase, marked := false }
            let busy : FabThread := { x with colState := 1, colCode := 0, colFlags := 0 }
            let seqd (t : State) : Prop := FMap.find t.fabric.groups n = some { gr with seq := gr.seq + 1 }
            (childrenOf me gr.members.length ≠ [] → ∃ t, exec i s = .next (t.onThread w.thread (fun t => { t with hold := .none })) ∧
              FabricOnly s t ∧ t.fabric.colls = s.fabric.colls ++ [c] ∧ t.fab g = busy ∧ seqd t) ∧
            (k = 3 → childrenOf me gr.members.length = [] → me ≠ 0 →
              ∃ t a : State, exec i s = .next (t.onThread w.thread (fun t => { t with hold := .none })) ∧ FabricOnly s a ∧
                a.fabric.colls = s.fabric.colls ++ [{ c with next := 1 }] ∧ a.fab g = busy ∧ seqd a ∧
                Sends a t (gr.members.getD ((me - 1) / 4) 0) 2 ((s.domOf g).getD 0)
                  (.collective { group := n, child := me, down := false, seq := gr.seq, op := 3, type := c.type, cnt := c.cnt,
                                 root := c.root, chunk := 0, elems := [], flags := 0, code := 0 })) ∧
            (k = 3 → gr.members.length = 1 →
              ∃ t, exec i s = .next t ∧ t.fab g = { x with colState := 2, colCode := 0, colFlags := 0 } ∧ seqd t ∧
                (∀ z ∈ t.fabric.colls, z.thread ≠ g) ∧ t.dram = s.dram))) ∧
  ∀ (s : State) (p : Packet) (m : CollMsg), InTurn s p → p.body = .collective m →
    let s0 := Turn s p
    (s.collOf m.group = none → exec (.collectiveChunk p) s = .next { s0 with fabric := { s0.fabric with
      early := s.fabric.early ++ [m] } }) ∧
    ∀ c, s.collOf m.group = some c → (∀ x ∈ s.fabric.colls, x.thread = c.thread → x = c) →
      let g := c.thread
      let same : Prop := m.op = c.op ∧ m.type = c.type ∧ m.cnt = c.cnt ∧ m.root = c.root
      let n := (s.membersOf m.group).length
      let fl := c.flags ||| m.flags
      let done (t : State) (flags : BitVec 3) (l : List (BitVec 32)) : Prop :=
        t.fab g = { s.fab g with colState := 2, colCode := 0, colFlags := flags } ∧ (∀ x ∈ t.fabric.colls, x.thread ≠ g) ∧
          (let bs := l.flatMap (fun v => leBytes c.size v.toNat)
           ∀ a, Mem.byte (t.core (g / 2)).tsb a = if c.dst.toNat ≤ a ∧ a < c.dst.toNat + bs.length then
             bs.getD (a - c.dst.toNat) 0 else Mem.byte (s.core (g / 2)).tsb a) ∧
          (c.cen = true → s.inDomain g c.dom = true → Counted1 (s.core (g / 2)) (t.core (g / 2)) c.count false) ∧ t.dram = s.dram
      (m.seq < c.seq → exec (.collectiveChunk p) s = .next s0) ∧
      (m.seq = c.seq → m.code = 0 → ¬same →
        ∃ t, exec (.collectiveChunk p) s = .next t ∧ t.fab g = { s.fab g with colState := 3, colCode := 0x06 } ∧
          (∀ x ∈ t.fabric.colls, x.thread ≠ g) ∧ Failed t g 0x06 c.dom) ∧
      (m.seq = c.seq → m.code = 0 → same → m.down = true → c.tsb = true → c.chunks = 1 → c.wrote = 0 → m.chunk = 0 →
        childrenOf c.me n = [] → ∃ t, exec (.collectiveChunk p) s = .next t ∧ done t fl m.elems) ∧
      ∀ k, m.seq = c.seq → m.code = 0 → same → m.down = false → c.tsb = true → c.chunks = 1 → c.next = 0 → c.wrote = 0 →
        m.chunk = 0 → c.me = 0 → c.heard = [] → childrenOf 0 n = [k] → m.child = k →
          let own := if c.op = 2 ∧ c.root ≠ 0 then []
            else (elemsOf (8 * c.size) (Mem.block (s.core (g / 2)).tsb c.src.toNat (c.len 0 * c.size))).map (BitVec.ofNat 32)
          let r := c.merge (own, fl) m.elems
          ∃ t, exec (.collectiveChunk p) s = .next t ∧ done t r.2 r.1 ∧
            ∃ q : Packet, (q ∈ t.fabric.held ∨ ∃ o, (o, q) ∈ t.fabric.out) ∧ q.dst = (s.membersOf m.group).getD k 0 ∧
              q.body = .collective { group := c.group, child := 0, down := true, seq := c.seq, op := c.op, type := c.type,
                                     cnt := c.cnt, root := c.root, chunk := 0, elems := r.1, flags := r.2, code := 0 }

/-! ### Clocks, power and the SMC -/

/-- Divider changes, sensors, power and thermal steps, PROCHOT_N, the budget and the regulators (R700 to R715, R726, R795, R811).
-/
def Obligations.ClocksAndPower : Prop :=
  ∀ (s : State),
    (∀ k mv,
      let c := s.clk k
      let low : Prop := mv + 10 < c.vcore
      (c.target.isSome = true → c.wait = 1 → exec (.voltageSettleCheck k mv) s =
        .next (s.onClk k (fun c => { c with wait := if mv + 10 < c.vcore then 2 else 0 }))) ∧
      (c.target.isSome = true → c.wait = 2 → ¬low →
        exec (.voltageRecheck k mv) s = .next (s.onClk k (fun c => { c with wait := 0 }))) ∧
      (c.target.isSome = true → c.wait = 2 → low → ∃ t, exec (.voltageRecheck k mv) s = .next t ∧ ClkOnly s t ∧
        (t.clk k).target = none ∧ (t.clk k).held = true ∧ (t.clk k).eff = c.eff) ∧
      (∀ w, c.target = some w → c.wait = 0 → ∃ t, exec (.dividerSwitch k) s = .next t ∧ ClkOnly s t ∧ (t.clk k).eff = w) ∧
      (c.target = none ∨ c.wait ≠ 0 → exec (.dividerSwitch k) s = .next s) ∧
      ∀ n, exec (.droopTrip k n) s = .next (s.onClk k (fun c => { c with droop := c.droop + 1 }))) ∧
    (s.smcRuns = true → ∀ (l : List Int) (v : Int),
      let sample (i : SensorId) : Instr := .sensorSample { sensor := i, values := v :: l }
      (∀ k, ∃ t, exec (sample (.tileTemp k)) s = .next t ∧ ClkOnly s t ∧ (t.clk k).temp = v ∧ (t.clk k).tempAt = s.timeBase ∧
        ((t.clk k).tempHot = true ↔ 1840 ≤ v ∧ 1840 ≤ (s.clk k).temp) ∧ (1680 < v → (s.clk k).eff ≤ 3 → Slowed t k)) ∧
      (∀ n, ∃ t, exec (sample (.ioTemp n)) s = .next t ∧ FMap.get t.smc.ioTemp n 0 = v ∧ FMap.get t.smc.ioAt n 0 = s.timeBase ∧
        (n ∈ t.smc.ioHot ↔ 1840 ≤ v ∧ 1840 ≤ FMap.get s.smc.ioTemp n 0)) ∧
      (∀ n, ∃ t, exec (sample (.loamTemp n)) s = .next t ∧ FMap.get t.smc.loamTemp n 0 = v ∧
        (t.stack n).temp = (v / 16).toNat) ∧
      (∀ k, ∃ t, exec (sample (.tilePower k)) s = .next t ∧ (t.clk k).power = v.toNat ∧ (t.clk k).power1s = (l.headD 0).toNat) ∧
      (∀ d, exec (sample (.domainPower10ms d)) s = .next (s.onDomain d (fun x => { x with power10 := v.toNat }))) ∧
      exec (sample .packagePower10ms) s = .next { s with smc := { s.smc with pkg10 := v.toNat } } ∧
      exec (sample .packagePower1s) s = .next { s with smc := { s.smc with pkg1s := v.toNat } } ∧
      exec (sample .uncorePower) s = .next { s with smc := { s.smc with uncore := v.toNat } } ∧
      ∀ a p, a < 128 → p < 256 → exec (sample (.rail a p)) s =
        .next { s with smc := { s.smc with vr := FMap.put s.smc.vr (a * 256 + p) (v :: l) } }) ∧
    (∀ d, s.smcRuns = true → (s.domain d).valid = true →
      let l := s.tilesOf d
      let p10 := (s.domain d).power10
      let duty8 : Prop := ∀ k ∈ l, (s.clk k).dutyPwr ≤ 8
      let slow : Prop := ∀ k ∈ l, 3 ≤ (s.clk k).base + (s.clk k).divPwr
      let most := (l.map (fun t => (s.clk t).divPwr)).foldl max 0
      let steps (i : Instr) (f : TileClk → TileClk) : Prop := ∃ t, exec i s = .next t ∧ ClkOnly s t ∧ Stepped s t l f
      (s.budget d < p10 →
        (¬duty8 → steps (.powerThrottleStep d) (fun c => { c with dutyPwr := max 8 (c.dutyPwr - 1) })) ∧
        (duty8 → ¬slow → steps (.powerThrottleStep d) (fun c =>
          { c with divPwr := if c.base + c.divPwr < 3 then c.divPwr + 1 else c.divPwr })) ∧
        (duty8 → slow → steps (.powerThrottleStep d) (fun c => { c with dutyPwr := max 2 (c.dutyPwr - 1) }))) ∧
      (p10 ≤ s.budget d → exec (.powerThrottleStep d) s = .next s) ∧
      (p10 * 100 < s.budget d * 95 →
        ((∃ k ∈ l, (s.clk k).dutyPwr < 8) → steps (.powerThrottleRelease d) (fun c =>
          { c with dutyPwr := if c.dutyPwr < 8 then c.dutyPwr + 1 else c.dutyPwr })) ∧
        ((∀ k ∈ l, 8 ≤ (s.clk k).dutyPwr) → 0 < most → steps (.powerThrottleRelease d) (fun c =>
          { c with divPwr := if c.divPwr = most then most - 1 else c.divPwr })) ∧
        ((∀ k ∈ l, 8 ≤ (s.clk k).dutyPwr) → most = 0 → steps (.powerThrottleRelease d) (fun c =>
          { c with dutyPwr := min 16 (c.dutyPwr + 1) }))) ∧
      (s.budget d * 95 ≤ p10 * 100 → exec (.powerThrottleRelease d) s = .next s)) ∧
    (∀ k, k < 64 → s.smcRuns = true →
      let c := s.clk k
      let prochot (t : State) : Prop := t.pins.prochotN = false ↔ ∃ n, n < 64 ∧ (t.clk n).thermal = true
      (1600 ≤ c.temp → ∃ t, exec (.thermalStep k) s = .next t ∧ prochot t ∧ t.pins.prochotN = false ∧
        Stepped s t [k] (fun c => if 16 ≤ c.dutyTh ∧ c.divTh = 0 then { c with dutyTh := 8, divTh := 1 }
          else if c.base + c.divTh < 3 then { c with divTh := c.divTh + 1 } else { c with dutyTh := max 2 (c.dutyTh - 1) }) ∧
        (∀ d, (s.domain d).valid = true → d < 64 → FMap.find s.tileDom k = some d → ((t.domain d).src 0x002).pend = true) ∧
        t.dram = s.dram ∧ t.threads = s.threads) ∧
      (c.temp < 1600 → exec (.thermalStep k) s = .next s) ∧
      (c.temp < 1568 → c.thermal = true → ∃ t, exec (.thermalRelease k) s = .next t ∧ prochot t ∧
        Stepped s t [k] (fun c => if c.dutyTh < 8 then { c with dutyTh := c.dutyTh + 1 }
          else if 1 < c.divTh then { c with divTh := c.divTh - 1 } else { c with dutyTh := 16, divTh := 0 })) ∧
      (1568 ≤ c.temp → exec (.thermalRelease k) s = .next s)) ∧
    (∀ n temp, s.smcRuns = true → s.tripTemp n = some temp → ∃ t, exec (.thermalTrip n) s = .next t ∧ Stopped s t ∧
      t.smc.tripped = true ∧ t.pins.thermtripN = false ∧ t.smcRuns = false) ∧
    (s.smcRuns = true → s.pins.prochotN = true → ∃ t, exec .prochotInput s = .next t ∧ t.smc.prochotIn = true ∧
      (∀ k, k < 64 → (s.clk k).eff ≤ 3 → Slowed t k) ∧ t.domains = s.domains ∧ t.threads = s.threads) ∧
    (s.smc.prochotIn = true → ∃ t, exec .prochotRelease s = .next t ∧ t.smc.prochotIn = false ∧
      Stepped s t (List.range 64) (fun c => { c with divPwr := max c.divPwr (3 - c.base) })) ∧
    (s.smcRuns = true →
      let total := (s.domList.map (fun d => (s.domain d).power)).sum * 1000
      let f := if total = 0 then 1024 else min 1024 ((s.smc.pptNext * 1000 - s.smc.uncore) * 1024 / total)
      ∃ t, exec .budgetRecompute s = .next t ∧ t.smc.ppt = s.smc.pptNext ∧ t.smc.factor = f ∧
        (s.smc.pkg10 ≤ s.smc.pptNext * 1250 → t.smc.clk = s.smc.clk) ∧
        (s.smc.pptNext * 1250 < s.smc.pkg10 → Stepped s t (List.range 64) (fun c =>
          { c with divPwr := if c.base + c.divPwr < 3 then c.divPwr + 1 else c.divPwr })) ∧
        (1024 < (f - s.smc.factor) * 20 ∨ 1024 < (s.smc.factor - f) * 20 →
          ∀ d ∈ s.domList, ((t.domain d).src 0x002).pend = true)) ∧
    (s.smcRuns = true →
      (∀ a p w, a < 128 → p < 256 →
        let k := a * 256 + p
        let l := s.railTiles a p
        (railFault w = true → k ∉ s.smc.vrFault → ∃ t, exec (.statusWordPoll a p w) s = .next t ∧ k ∈ t.smc.vrFault ∧
          FMap.get t.smc.vrStatus k 0 = w ∧ (∀ n ∈ l, (t.clk n).vreg = true ∧ ((s.clk n).eff ≤ 3 → Slowed t n)) ∧
          (∀ d ∈ s.domList, (∃ n ∈ l, FMap.find s.tileDom n = some d) → ((t.domain d).src 0x002).pend = true) ∧
          t.pins.alertN = false) ∧
        (railFault w = false → k ∈ s.smc.vrFault → ∃ t, exec (.statusWordPoll a p w) s = .next t ∧ k ∉ t.smc.vrFault ∧
          (∀ n ∈ l, (t.clk n).vreg = false) ∧ AlertShown t) ∧
        ∀ rest, ∃ t, exec (.statusWordPoll a p w) s = .next t ∧
          exec (.pmbAlert ((a, p, w) :: rest)) s = exec (.pmbAlert rest) t) ∧
      exec (.pmbAlert []) s = .next s ∧
      ∃ t, exec .pmbusTimeout s = .next t ∧
        ∀ n, n < 64 →
          let r := s.tileRail n
          r.1 * 256 + r.2 ∈ t.smc.vrFault ∧ (r.1 * 256 + r.2 ∉ s.smc.vrFault → (t.clk n).vreg = true ∧ t.pins.alertN = false))

/-- The reading commands of Table 17-11 and their rights (R717, R742), and the frames that carry commands: the management port,
VC3 and the mailboxes (R716, R719 to R722). A frame that comes before step 1 is kept until then (R38). -/
def Obligations.SynryReadsAndFrames : Prop :=
  (∀ (c : SynryReq) (s : State),
    let i := leAt c.params 1 1
    let t := leAt c.params 0 1
    let from_ : Option Nat := fromDomain c.iface
    let foreign (k : Nat) : Prop := ∃ d, from_ = some d ∧ FMap.find s.tileDom k ≠ some d
    let own (k : Nat) : Prop := ∀ d, from_ = some d → FMap.find s.tileDom k = some d
    let ok (mk : SynryReq → Instr) (code : Nat) (l : List Byte) : Prop := Does s (mk c) code c St.ok l (· = s)
    let no (mk : SynryReq → Instr) (code st : Nat) : Prop := Does s (mk c) code c st [] (· = s)
    let temps (v : Int) (n at_ : Nat) : List Byte :=
      leBytes 2 (BitVec.ofInt 16 v).toNat ++ leBytes 2 0 ++ leBytes 4 n ++ leBytes 8 at_
    let power (a b w : Nat) : List Byte :=
      leBytes 4 a ++ leBytes 4 b ++ leBytes 2 w ++ leBytes 2 s.smc.factor ++ leBytes 4 s.smc.uncore
    (Taken s 0x001 c → ok .ident 0x001 (leBytes 2 0x7128 ++ leBytes 1 0xB0 ++ leBytes 1 s.pins.tussockId.toNat ++
      leBytes 2 s.fabric.node ++ leBytes 2 (natOf s.fabric.disc) ++ leBytes 8 Config.serial.toNat ++
      leBytes 4 Config.smcFirmware.toNat ++ leBytes 4 0)) ∧
    (Taken s 0x002 c → ok .status 0x002 (leBytes 1 s.smc.step ++ leBytes 1 s.smc.fail ++
      leBytes 2 (natOf s.smc.warm + 2 * natOf s.smc.ovlUsed + 4 * natOf s.smc.sigChk + 8 * natOf s.smc.fromCs1) ++
      leBytes 4 s.smc.imgGen)) ∧
    (Taken s 0x003 c → ok .time 0x003 (leBytes 8 s.timeBase)) ∧
    (Taken s 0x004 c →
      (t = 0 → i < 64 → foreign i → no .sense 0x004 St.notPermitted) ∧
      (t = 0 → i < 64 → own i → ok .sense 0x004 (temps (s.clk i).temp (s.clk i).droop (s.clk i).tempAt)) ∧
      (t = 1 → i < 8 → ok .sense 0x004 (temps (FMap.get s.smc.ioTemp i 0) 0 (FMap.get s.smc.ioAt i 0))) ∧
      (t = 2 → i < 8 → ok .sense 0x004 (temps (FMap.get s.smc.loamTemp i 0) 0 (FMap.get s.smc.loamAt i 0))) ∧
      (3 ≤ t ∨ (t = 0 ∧ 64 ≤ i) ∨ (1 ≤ t ∧ 8 ≤ i) → no .sense 0x004 St.badParam)) ∧
    (Taken s 0x005 c →
      (t = 0 → from_ = none → ok .powerread 0x005 (power s.smc.pkg10 s.smc.pkg1s s.smc.ppt)) ∧
      (t = 0 → from_ ≠ none → no .powerread 0x005 St.notPermitted) ∧
      (t = 1 → i < 64 → (∀ d, from_ = some d → d = i) → ok .powerread 0x005
        (power (s.domain i).power10 ((s.tilesOf i).map (fun k => (s.clk k).power1s)).sum (s.budget i / 1000))) ∧
      (t = 1 → i < 64 → (∃ d, from_ = some d ∧ d ≠ i) → no .powerread 0x005 St.notPermitted) ∧
      (t = 2 → i < 64 → own i → ok .powerread 0x005 (power (s.clk i).power (s.clk i).power1s 0)) ∧
      (t = 2 → i < 64 → foreign i → no .powerread 0x005 St.notPermitted) ∧
      (3 ≤ t ∨ (1 ≤ t ∧ 64 ≤ i) → no .powerread 0x005 St.badParam)) ∧
    (Taken s 0x006 c →
      (64 ≤ t → no .clkread 0x006 St.badParam) ∧ (t < 64 → foreign t → no .clkread 0x006 St.notPermitted) ∧
      (t < 64 → own t → ok .clkread 0x006 (leBytes 8 (s.cclkstatWord (4 * t)) ++ leBytes 2 (s.clk t).vcore ++ leBytes 6 0))) ∧
    (Taken s 0x101 c →
      let w := leAt c.params 0 2
      (w < 320 ∨ 520 < w → no .pkglimit 0x101 St.badParam) ∧
      (320 ≤ w → w ≤ 520 → Does s (.pkglimit c) 0x101 c St.ok [] (fun r => r = { s with smc := { s.smc with pptNext := w } }))) ∧
    (Taken s 0x103 c →
      let v (k : Nat) : Int := ((FMap.get s.smc.vr (t * 256 + i) []).drop k).headD 0
      ((∀ k, k < 64 → s.tileRail k ≠ (t, i)) → no .vrread 0x103 St.badParam) ∧
      ((∃ k, k < 64 ∧ s.tileRail k = (t, i)) → ok .vrread 0x103 (leBytes 2 (v 0).toNat ++
        leBytes 2 (BitVec.ofInt 16 (v 1)).toNat ++ leBytes 4 (v 2).toNat ++ leBytes 4 (v 3).toNat ++
        leBytes 2 (FMap.get s.smc.vrStatus (t * 256 + i) 0).toNat ++ leBytes 2 0)))) ∧
  (∀ (s : State) (frame : List Byte), s.smcRuns = true → s.seed.waiters = [] →
    let tag := (frame.headD 0).toNat
    (pendingTags s.smc.mgmt < 16 →
      (frameOk frame true = true → ∀ i, IsCommand (leAt frame 2 2) (requestOf .mgmt frame) i →
        exec (.mgmtWriteFrame frame) s = exec i s) ∧
      (frameOk frame true = false → ∃ t p, exec (.mgmtWriteFrame frame) s = .next t ∧
        t = { s with smc := { s.smc with mgmt := t.smc.mgmt } } ∧
        FMap.find t.smc.mgmt tag = some { pend := p, code := leAt frame 2 2, status := St.badFrame, results := [] })) ∧
    (16 ≤ pendingTags s.smc.mgmt → exec (.mgmtWriteFrame frame) s = .next s) ∧
    (∀ r : State, r.pins.vaux = true → r.smc.tripped = false → r.smc.up = false →
      (pendingTags r.smc.mgmt < 16 → exec (.mgmtWriteFrame frame) r = .next { r with smc := { r.smc with
        early := r.smc.early ++ [(.mgmt, frame, true)] } }) ∧
      ∀ node, exec (.vc3Frame node frame) r = .next { r with smc := { r.smc with
        early := r.smc.early ++ [(.vc3 node, frame, true)] } }) ∧
    (∀ node, frameOk frame true = true → ∀ i, IsCommand (leAt frame 2 2) (requestOf (.vc3 node) frame) i →
      exec (.vc3Frame node frame) s = exec i s) ∧
    (∀ r, FMap.find s.smc.mgmt tag = some r → exec (.mgmtReadResponse (frame.headD 0)) s = .next { s with smc := { s.smc with
      mgmtOut := sealFrame (responseFrame (frame.headD 0) r.status r.code r.results) } }) ∧
    (FMap.find s.smc.mgmt tag = none → exec (.mgmtReadResponse (frame.headD 0)) s = .next { s with smc := { s.smc with
      mgmtOut := sealFrame (responseFrame (frame.headD 0) St.badCode 0 []) } })) ∧
  ∀ (s : State) (w : CsStore) (d cls n : Nat), Reaches s w (.mbox d (0x1000 * cls + 0x400 * n + 0x3F8)) → cls < 4 → n < 4 →
    w.value.getLsbD 0 = true → (∃ l, s.csGrant w.thread d w.offset true none = .ok l) → s.smcRuns = true → s.seed.waiters = [] →
      let key := slotKey d cls n
      let frame := Mem.block (s.slot key).req 0 512
      ((s.slot key).state = 1 → exec (.mailboxGo w) s = .next (heldFor w .busySlot s)) ∧
      ((s.slot key).state ≠ 1 → frameOk frame false = true → ∀ i,
        IsCommand (leAt frame 2 2) (requestOf (.mailbox d cls n w.thread) frame) i →
        exec (.mailboxGo w) s = exec i
          ((s.onThread w.thread (fun t => { t with hold := .none })).onSlot key (fun m => { m with ien := w.value.getLsbD 1 })))

/-! ### Resets and start-up -/

/-- Power, resets and what they stop and keep (R735, R736, R739, R740, R802, R812, Table 18-1). -/
def Obligations.ResetsStopTheBlocks : Prop :=
  ∀ s : State,
    (s.pins.vaux = false ∨ s.smc.up = false → ∃ t, exec .vauxRise s = .next t ∧ Stopped s t ∧ t.timeBase = 0 ∧
      t.smc = Smc.reset ∧ t.pins.vaux = true ∧ t.tap = Tap.reset) ∧
    (s.pins.vaux = true → s.smc.up = true → exec .vauxRise s = .next s) ∧
    (∃ t, exec .vauxFall s = .next t ∧ Stopped s t ∧ t.smc = Smc.reset ∧ t.pins.vaux = false ∧ t.pins.pwrgood = false) ∧
    (s.pins.vaux = true → s.smc.up = false → s.smc.waiting = [] → s.seed.waiters = [] →
      let b : State := { s with smc := { s.smc with up := true, step := 2, early := [] } }
      (s.smc.early = [] → exec .smcBoot s = .next b) ∧
      ∀ frame, s.smc.early = [(.mgmt, frame, true)] → pendingTags s.smc.mgmt < 16 →
        exec .smcBoot s = exec (.mgmtWriteFrame frame) b) ∧
    (s.pins.vaux = false ∨ s.smc.up = true → exec .smcBoot s = .next s) ∧
    (s.pins.vaux = true → s.pins.pwrgood = false → ∃ t, exec .pwrgoodRise s = .next t ∧ t.pins.pwrgood = true ∧
      t.pins.pwrgoodAt = s.timeBase ∧ t.smc.warm = false ∧ t.smc.refLost = false ∧ t.smc.railBad = [] ∧ t.dram = s.dram ∧
      AlertShown t) ∧
    (s.pins.pwrgood = true → ∃ t, exec .pwrgoodFall s = .next t ∧ Stopped s t ∧ t.pins.pwrgood = false ∧ AlertShown t) ∧
    (s.pins.resetN = true → ∃ t, exec .resetNFall s = .next t ∧ t.pins.resetN = false ∧
      (s.pins.pwrgood = true → Stopped s t ∧ t.smc.warm = true ∧ AlertShown t) ∧
      (s.pins.pwrgood = false → t.dram = s.dram ∧ t.smc = s.smc) ∧
      (t.tap.control = true ↔ s.tap.ir = 0x00 ∨ s.tap.ir = 0x04) ∧ (t.tap.highz = true ↔ s.tap.ir = 0x05)) ∧
    (∀ b i, s.pins.resetN = false → ∃ t, exec (.resetNRise b i) s = .next t ∧ t.pins.resetN = true ∧ t.pins.bootSrc = b ∧
      t.pins.tussockId = i ∧ t.smc.refLost = false ∧ t.tap.control = false ∧ t.tap.highz = false ∧ AlertShown t ∧
      ∀ p, p < 8 → (t.fport p).mode = if i ≠ 0 ∧ p < 4 then 2 else (s.fport p).mode) ∧
    (∀ r, s.pins.pwrgood = true → 2 ≤ r → r ≤ 7 → ∃ t, exec (.railUndervolt r) s = .next t ∧ Stopped s t ∧
      t.pins.pwrgood = false ∧ r ∈ t.smc.railBad ∧ t.pins.alertN = false ∧
      (0x000D, r, []) ∈ t.smc.logQ) ∧
    (s.smcRuns = true → s.smc.refLost = false → ∃ t, exec .refclkLoss s = .next t ∧ t.smc.refLost = true ∧
      t.smc.rpll = false ∧ (∀ k, t.clk k = (s.clk k).stopped) ∧ t.threads = [] ∧ t.domains = [] ∧ t.dram = s.dram ∧
        t.pins.alertN = false)

/-- The steps of start-up and their failures: the configuration, clocks, Loam and DRAM, Tussock assembly, domains, the fill and
the boot threads (R538, R647 to R652, R743 to R764, R785 to R787, R790, R796, Table 18-4). -/
def Obligations.StartupStepsInOrder : Prop :=
  (∀ (s : State) (cs0 cs1 : Option FlashSource), AtStep s 3 → s.pins.tussockId = 0 →
    let good (x : Option FlashSource) : Prop := ∃ y, x = some y ∧ sourceValid y = true
    let first := if s.pins.bootSrc.toNat % 2 = 0 then (cs0, false) else (cs1, true)
    let second := if s.pins.bootSrc.toNat % 2 = 0 then (cs1, true) else (cs0, false)
    let both : Prop := 2 ≤ s.pins.bootSrc.toNat
    let run (p : Option FlashSource × Bool) : Prop := ∀ y, p.1 = some y →
      ∃ t, exec (.sheafRead cs0 cs1) s = .next t ∧ Configured s t (y.bytes.take (leAt y.bytes 8 4)) p.2
    (good first.1 → run first) ∧ (¬good first.1 → both → good second.1 → run second) ∧
    (¬good first.1 → ¬(both ∧ good second.1) →
      ∃ t, exec (.sheafRead cs0 cs1) s = .next t ∧ HaltedBy s t 0x01 ∧ t.smc.step = 3 ∧ t.pins.spiOwned = false)) ∧
  (∀ (s : State) (locks : Bool) (bad : List Nat),
    (AtStep s 3 → s.pins.tussockId ≠ 0 → locks = true →
      exec (.clockStart locks bad) s = .next { s with smc := { s.smc with rpll := true } }) ∧
    ((AtStep s 3 ∧ s.pins.tussockId ≠ 0) ∨ (AtStep s 5 ∧ s.smc.rpll = false) → locks = false →
      ∃ t, exec (.clockStart locks bad) s = .next t ∧ HaltedBy s t 0x03 ∧ t.smc.step = s.smc.step) ∧
    (AtStep s 5 → locks = true ∨ s.smc.rpll = true → (∀ k, k < 64 → k ∈ bad) →
      ∃ t, exec (.clockStart locks bad) s = .next t ∧ HaltedBy s t 0x04 ∧ t.smc.step = 5) ∧
    (AtStep s 5 → locks = true ∨ s.smc.rpll = true → ∀ k, k < 64 → k ∉ bad → s.ports = [] →
      ∃ t, exec (.clockStart locks bad) s = .next t ∧ t.smc.step = 6 ∧ t.smc.fail = 0 ∧ t.smc.rpll = true ∧ t.dram = s.dram ∧
        (∀ b, s.sect Ty.power = some b → t.smc.ppt = leAt b 0 2 ∧ t.smc.pptNext = leAt b 0 2) ∧
        (∀ n, n < 64 → (t.clk n).avail = !bad.contains n ∧ (t.clk n).eff = t.wanted n ∧
          ∀ b, s.sect Ty.clocks = some b → (t.clk n).req = leAt b n 1 % 4 ∧ (t.clk n).allow3 = bitOf (leAt b n 1) 2) ∧
        (∀ p, p < 8 → (t.fport p).mode = s.portMode p) ∧
        (s.isMaster = true → ∀ k img, (k, img) ∈ s.memberImages → ∃ q : Packet, (k, q) ∈ t.fabric.out ∧ q.vc = 3 ∧
          q.body = .control Ctl.image (img.map BitVec.toNat)) ∧
        ∀ b, s.sect Ty.pcie = some b → b ≠ [] → ∀ g j, g < 4 → j < 4 →
          let v := leAt b g 1
          ((t.port (4 * g + j)).exists_ = true ↔ (j = 0 ∧ v ≤ 3) ∨ (j = 2 ∧ 1 ≤ v ∧ v ≤ 3) ∨ (j = 1 ∧ v = 2) ∨
            (j = 3 ∧ 2 ≤ v ∧ v ≤ 3)) ∧
          ((t.port (4 * g + j)).exists_ = true → (t.port (4 * g + j)).enabled = bitOf (leAt b 5 2) (4 * g + j)))) ∧
  (∀ (s : State) (n : Nat) (reach : Bool), AtStep s 6 → n < 8 → s.seed.recovered = true → (s.stack n).ready = false →
    (s.stack n).waiting = [] → (∀ b ∈ (s.stack n).blocks, b.2.st ≠ .incomplete ∧ b.2.st ≠ .erasing) →
    ∃ t, exec (.loamReady n reach) s = .next t ∧ t.dram = s.dram ∧ (t.stack n).ready = true ∧
      (t.stack n).state = (if reach = false then 2 else if (s.stack n).spares ≤ 243 then 1 else 0) ∧
      (∀ k, k ≠ n → t.stack k = s.stack k) ∧
      ((∃ k, k < 8 ∧ k ≠ n ∧ (s.stack k).ready = false) → t.smc.step = 6) ∧
      ((∀ k, k < 8 → k ≠ n → (s.stack k).ready = true) → s.ddr.trained = false → t.smc.step = 7) ∧
      ((∀ k, k < 8 → k ≠ n → (s.stack k).ready = true) → s.ddr.trained = true →
        t.smc.step = if s.isMaster = true then 8 else if s.fabricOn = true then 9 else 10)) ∧
  (∀ (s : State) (l : List DimmInfo), AtStep s 6 ∨ AtStep s 7 → s.ddr.trained = false →
    let b := (s.sect Ty.ddr).getD []
    let chans := (List.range 12).filter (fun ch => bitOf (leAt b 2 2) ch)
    let r := (s.seed.record Part.train (Part.train + 1024) trainPages).getD []
    let up := chans.flatMap (fun ch => (trainChannel r (leAt b 0 2) l ch).2.1)
    let zero : Prop := leAt b 4 1 ≠ 0
    (up = [] → ∃ t, exec (.ddrTraining l) s = .next t ∧ HaltedBy s t 0x05 ∧ t.smc.step = 7) ∧
    (up ≠ [] → ∃ t, exec (.ddrTraining l) s = .next t ∧ t.ddr.trained = true ∧
      t.ddr.top = (up.map (fun d => min d.gib 256)).sum * 2 ^ 30 ∧
      (∀ ch, FMap.get t.ddr.caps ch 0 = ((up.filter (fun d => d.channel == ch)).map (fun d => min d.gib 256)).sum) ∧
      (zero ∨ s.smc.warm = false → ∀ a, Mem.byte t.dram a = 0) ∧ (¬zero → s.smc.warm = true → t.dram = s.dram) ∧
      (t.ddr.rest = true ↔ zero) ∧ (t.ddr.fills ≠ [] → zero) ∧
      t.smc.step = if s.smc.step = 6 then 6 else if s.isMaster = true then 8 else if s.fabricOn = true then 9 else 10)) ∧
  (∀ (s : State) (img : FlashSource),
    (AtStep s 3 → s.pins.tussockId ≠ 0 → s.smc.rpll = true → sourceValid img = true → ∃ t,
      exec (.tussockImageReceived img) s = .next t ∧
      Configured s t (img.bytes.take (leAt img.bytes 8 4)) false) ∧
    (sourceValid img = false → exec (.tussockImageReceived img) s = .next s) ∧
    (AtStep s 3 → s.pins.tussockId ≠ 0 → s.smc.stepBegan + 1000000000 ≤ s.timeBase →
      ∃ t, exec .tussockImageTimeout s = .next t ∧ HaltedBy s t 0x06 ∧ t.smc.step = 3) ∧
    (∀ k n, s.smcRuns = true → s.isMaster = true → s.smc.step ≤ 8 → 1 ≤ k → k ≤ 3 → bitOf s.tussockMask k = true →
      ∃ t, exec (.tussockMemberReady k n) s = .next t ∧ FabricOnly s t ∧ FMap.find t.fabric.members k = some n) ∧
    (AtStep s 8 →
      let all := FMap.put s.fabric.members 0 s.ownGib
      let fits : Prop := placesOk (all.map (fun m => (s.tussockBase m.1, m.2))) = true ∧ s.windowsTogether = true
      let ready : Prop := ∀ k, 1 ≤ k → k ≤ 3 → bitOf s.tussockMask k = true → FMap.has s.fabric.members k = true
      let ends (i : Instr) : Prop := ∃ t, exec i s = .next t ∧ t.dram = s.dram ∧
        t.smc.step = (if s.fabricOn = true then 9 else 10) ∧
        (fits → t.fabric.assembled = true ∧ t.fabric.members = all ∧
          t.fabric.memberBase = all.map (fun m => (m.1, s.tussockBase m.1)) ∧
          ∀ m ∈ all, m.1 ≠ 0 → ∃ q, (m.1, q) ∈ t.fabric.out ∧ tussockNews q = some (s.timeBase, all)) ∧
        (¬fits → t.fabric.members = [] ∧ t.fabric.memberBase = [])
      (ready → ends .tussockAssembly) ∧ (¬ready → s.pins.tussockId = 0 → exec .tussockAssembly s = .next s) ∧
      (s.smc.stepBegan + 1000000000 ≤ s.timeBase → ends .tussockWaitTimeout) ∧
      (s.timeBase < s.smc.stepBegan + 1000000000 → exec .tussockWaitTimeout s = .next s)) ∧
    (∀ p now l, tussockNews p = some (now, l) → s.fabric.state ≠ 2 → s.pins.tussockId ≠ 0 →
      exec (.packetArrival p) s = .next { s with fabric := { s.fabric with news := some (now, l) } }) ∧
    (∀ now l, s.smcRuns = true → s.smc.step ≠ 8 → s.pins.tussockId ≠ 0 → s.fabric.assembled = true → s.fabric.news = some (now, l) →
      ∃ t, exec .tussockAssembly s = .next t ∧ t.timeBase = now ∧ t = { s with timeBase := now, fabric := t.fabric } ∧
        (∀ k n, l = [(k, n)] → FMap.find t.fabric.members k = some n ∧ FMap.find t.fabric.memberBase k = some (s.tussockBase k)) ∧
        ∀ k, (∀ p ∈ l, p.1 ≠ k) → FMap.find t.fabric.members k = FMap.find s.fabric.members k) ∧
    ∀ k g, s.fabric.assembled = true → k < 4 → k ≠ s.pins.tussockId.toNat →
      let held : Prop := (s.core (g / 2)).holds (s.homedOn k) = true
      ((s.thread g).run ≠ .running ∨ 256 ≤ g ∨ ¬held → ∃ t, exec (.tussockLinkDown k g) s = .next t ∧ k ∈ t.fabric.badPkgs ∧
        t.dram = s.dram ∧ t.threads = s.threads ∧ (k ∈ s.fabric.badPkgs → t = s) ∧
        (k ∉ s.fabric.badPkgs → (t.fport k).up = false)) ∧
      ((s.thread g).run = .running → g < 256 → held →
        ∃ t r : State, exec (.tussockLinkDown k g) s = .next t ∧ k ∈ r.fabric.badPkgs ∧ r.threads = s.threads ∧ r.dram = s.dram ∧
          ((s.thread g).tinv = none → (s.thread g).revoke = none → t = r.machineCheck (severedError g k)) ∧
          ((s.thread g).tinv ≠ none → t = r.onThread g (fun v => { v with checks := v.checks ++ [severedError g k] })))) ∧
  (∀ s : State, AtStep s 10 → s.smc.waiting = [] → s.seed.waiters = [] →
    let es := domainEntries ((s.sect Ty.domains).getD [])
    ∃ t, exec .domainCreation s = .next t ∧ t.dram = s.dram ∧ t.threads = s.threads ∧ (t.smc.step = 11 ∨ t.smc.step = 12) ∧
      (∀ e, (∀ x ∈ es, x.1 ≠ e) → t.domain e = s.domain e) ∧
      ∀ e x, es = [(e, x)] →
        (s.entryFault e x = 0 → SameHoldings (t.domain e) x ∧ (t.domain e).roots.length = (s.rootsFor e).length ∧
          t.smc.step = 11 ∧ ∀ k, k < 64 → x.tiles.getLsbD k = true → FMap.find t.tileDom k = some e) ∧
        (s.entryFault e x ≠ 0 → t.domains = s.domains ∧ t.tileDom = s.tileDom)) ∧
  (∀ s : State,
    (∀ w r, s.ddr.fills = w :: r →
      exec .zeroFill s = .next { s with ddr := { s.ddr with fills := r, filled := (w.2.1, w.2.2) :: s.ddr.filled } }) ∧
    (s.ddr.fills = [] → exec .zeroFill s = .next { s with ddr := { s.ddr with rest := false } })) ∧
  (∀ (s : State) (d : Nat) (lost : Bool) (w : DWin), AtStep s 11 → (s.domain d).valid = true → (s.domain d).bootDone = false →
    (s.domain d).boot = none → FMap.find (s.domain d).windows 0 = some w → s.fillPassed w.base w.limit = true →
    (∀ why, s.bootImage d lost = .error why → ∃ t, exec (.bootImageCopy d lost) s = .next t ∧ t.dram = s.dram ∧
      t.threads = s.threads ∧ (t.domain d).bootDone = true ∧ (t.domain d).boot = none ∧
      (t.smc.step = 11 ∨ t.smc.step = 12)) ∧
    ((s.domain d).bootVol = 0xFFFF → s.bootImage d lost = .error 1) ∧
    ∀ r, (s.domain d).bootVol ≠ 0xFFFF → (s.volume (s.domain d).bootVol).current.bind (s.volume (s.domain d).bootVol).rev = some r →
      lost = false → DramOk s →
      let from_ := (s.domain d).bootOff * 16384
      let h := Mem.block r.bytes from_ 64
      let n := leAt h 8 4
      let code := Mem.block r.bytes (from_ + 64) n
      let load := w.base + (s.domain d).loadOff * 4096
      leAt h 0 4 = 0x54424E48 → leAt h 4 2 = 1 → leAt h 60 4 = crc32c (h.take 60) → n ≤ 64 * 2 ^ 20 → load + n ≤ w.limit →
      leAt h 12 4 < n → leAt h 16 4 = crc32c code →
        ∃ t, exec (.bootImageCopy d lost) s = .next t ∧
          (∀ a, Mem.byte t.dram a = if load ≤ a ∧ a < load + n then code.getD (a - load) 0 else Mem.byte s.dram a) ∧
          (t.domain d).boot = some (load + leAt h 12 4, load, n) ∧ (t.domain d).bootDone = false ∧ t.threads = s.threads) ∧
  (∀ (s : State) (d ip load n : Nat), AtStep s 11 → (s.domain d).valid = true → (s.domain d).bootDone = false →
    (s.domain d).boot = some (ip, load, n) →
      let g := (s.domain d).bootThread
      ∃ t, exec (.bootThreadRelease d) s = .next t ∧ (t.domain d).bootDone = true ∧ t.dram = s.dram ∧
        (∀ k, k ≠ g → t.thread k = s.thread k) ∧ (t.smc.step = 11 ∨ t.smc.step = 12) ∧
        ((s.thread g).run = .halted →
          Started s g ip [d, 0xFE0004000000 + d * 0x40000, load, n, (s.domain d).roots.length] (t.thread g)) ∧
        ((s.thread g).run ≠ .halted → t.thread g = s.thread g)) ∧
  ∀ (s : State) (p : Nat), s.smcRuns = true → s.pins.pwrgood = true → s.pins.resetN = true → 6 ≤ s.smc.step →
    s.smc.rpll = true → p < 16 → (s.port p).exists_ = true → (s.port p).enabled = true →
    (s.timeBase < s.pins.pwrgoodAt + 10000000 → exec (.perstDeassert p) s = .next s) ∧
    (s.pins.pwrgoodAt + 10000000 ≤ s.timeBase → ∃ t, exec (.perstDeassert p) s = .next t ∧
      t = { s with pins := { s.pins with perstN := t.pins.perstN } } ∧
      ∀ k, k < 16 → t.pins.perstN.getLsbD k = (s.pins.perstN.getLsbD k || k == p))

/-- PCI Express, DIMM temperatures and the test access port (R462, R608, R788, R791, R792, R797, R798, R814, R815, R821, Table
19-8). -/
def Obligations.InterfacesToTheOutside : Prop :=
  ∀ s : State,
    (∀ ch k v, s.smcRuns = true → s.ddr.trained = true → ch < 12 → k < 2 →
      ∃ t, exec (.dimmThermalRead ch k v) s = .next t ∧ FMap.get t.ddr.temps (2 * ch + k) 0 = v ∧ t.dram = s.dram ∧
        t.threads = s.threads ∧
        (1520 < v → FMap.get s.ddr.temps (2 * ch + k) 0 ≤ 1520 → ∀ d ∈ s.domList,
          (∃ w ∈ (s.domain d).windows, s.onChannel w.2.base w.2.limit ch = true) → ((t.domain d).src 0x002).pend = true)) ∧
    (∀ q : DmaReq, (s.port q.port).exists_ = true → (s.port q.port).up = true →
      let n := if q.write then q.data.length else q.len
      let may (d : Nat) : Prop := s.portCut q.port = false ∧ s.portOwner q.port = some d ∧ s.dmaReaches d q.addr n = true
      (∀ d, may d → q.write = true → LinesFree s q.addr n →
        ∃ t, exec (.pcieDmaRequest q) s = .next t ∧ Overwritten s t q.addr n ∧
          ∀ a, Mem.byte t.dram a = if q.addr ≤ a ∧ a < q.addr + n then q.data.getD (a - q.addr) 0 else Mem.byte s.dram a) ∧
      (∀ d, may d → q.write = false → ReadsFree s d q.addr n →
        ∃ t, exec (.pcieDmaRequest q) s = .next t ∧
          t = { s with ports := t.ports, ddr := { s.ddr with openRow := t.ddr.openRow } } ∧
          t.port q.port = { s.port q.port with dmaData := Mem.read s.dram q.addr n } ∧
          ∀ k, k ≠ q.port → t.port k = s.port k) ∧
      ((∀ d, ¬may d) → exec (.pcieDmaRequest q) s = .next (s.log 0x0014 q.port (leBytes 8 q.addr)))) ∧
    (∀ p g a r w how, (s.thread g).run = .running → g < 256 → (s.port p).exists_ = true → r ≤ 39 →
      ∃ t, exec (.pcieLoadError p g a r w how) s = .next t ∧
        (t.thread g).reg r = (if r = 32 then 0 else BitVec.ofNat 64 (2 ^ (8 * min w 8) - 1)) ∧
        t.dram = s.dram ∧ ∀ k, k ≠ g → t.thread k = s.thread k) ∧
    (∀ p w rate, p < 16 → (s.port p).exists_ = true → (s.port p).enabled = true → s.pins.perstN.getLsbD p = true →
      exec (.pcieLinkUp p w rate) s = .next (s.onPort p (fun x =>
        { x with up := true, width := min w (s.portLanes p), rate := min rate (leAt ((s.sect Ty.pcie).getD []) 4 1),
                 dpc := false }))) ∧
    (∀ p, (s.port p).up = true →
      exec (.pcieLinkDown p) s = .next (s.onPort p (fun x => { x with up := false, dpc := true }))) ∧
    (∀ a : CfgAccess, AtConfig s a → a.reg ≤ 39 → a.reg ≠ 32 →
      let x := s.port a.port
      let bus := x.cfgAddr.toNat / 2 ^ 20 % 256
      let below : Prop := x.up = true ∧ (Mem.byte x.cfg 0x19).toNat ≤ bus ∧ bus ≤ (Mem.byte x.cfg 0x1A).toNat
      let ur (t : State) : Prop := (t.port a.port).ur = true
      (∀ v, below → a.result = some v →
        exec (.cfgdataLoad a) s = .next (s.onThread a.thread (fun t => t.setReg a.reg (v.zeroExtend 64))) ∧
        exec (.cfgdataStore a) s = .next s) ∧
      (¬below ∨ a.result = none →
        (∃ t, exec (.cfgdataLoad a) s = .next t ∧ (t.thread a.thread).reg a.reg = 0xFFFFFFFF ∧ ur t ∧ t.dram = s.dram) ∧
        ∃ t, exec (.cfgdataStore a) s = .next t ∧ ur t ∧ t.threads = s.threads ∧ t.dram = s.dram)) ∧
    let low := s.pins.resetN = false
    let loads (i : Instr) (ir : Byte) (dr : List Bool) : Prop := ∃ t, exec i s = .next t ∧ t = { s with tap := t.tap } ∧
      t.tap.ir = ir ∧ t.tap.captured = dr ∧ (t.tap.control = true ↔ low ∧ (ir = 0x00 ∨ ir = 0x04)) ∧
      (t.tap.highz = true ↔ low ∧ ir = 0x05) ∧ (ir ≠ 0x02 → t.tap.preload = s.tap.preload)
    loads .extest 0x00 (if s.pins.resetN then [false] else s.tap.captured) ∧
    loads .idcode 0x01 ((List.range 32).map (fun i => bitOf 0xB7128A47 i)) ∧
    (∀ l, loads (.samplePreload l) 0x02 l ∧ ∃ t, exec (.samplePreload l) s = .next t ∧ t.tap.preload = l) ∧
    loads .clamp 0x04 [false] ∧ loads .highz 0x05 [false] ∧ loads .bypass 0xFF [false]

/-! ### The block -/

/-- A step with a command at the front of the queue is that command's effect on the part with the queue's rest. -/
def Obligations.StepRunsFrontCommand : Prop :=
  ∀ (c : Instr) (rest : List Instr) (s : State),
    s.pending = c :: rest → step s = exec c { s with pending := rest }

/-- With no command waiting a step is one SCLK cycle: the time base counts while VAUX is up, and where nothing waits for time
nothing else changes (R703); a store to DnCTL that holds is performed once its descriptor is not busy, as DESCRIPTOR_LAUNCH
performs it (R422). That the model spends an empty queue so, and where a store holds, are its own choices (logs 1, 33). -/
def Obligations.EmptyQueueCountsTime : Prop :=
  ∀ s : State, s.pending = [] →
    let later (s : State) : State := { s with timeBase := s.timeBase + natOf s.pins.vaux }
    (Quiet s (fun _ => false) → step s = .next (later s)) ∧
    ∀ (w : CsStore) (c n : Nat),
      let g := w.thread
      let v := s.thread g
      let s0 := later (s.setThread g { v with stq := none, hold := .none })
      Quiet s (· == g) → FMap.has s.threads g = true → Reaches s0 w (.stream c (0x100 + 0x40 * n + 0x28)) → n < 16 →
        w.value.toNat % 4 = 1 → (FMap.get (s.core c).descs n Desc.reset).state ≠ 1 →
        v.stq = some { off := w.offset, value := w.value.toNat, ring := v.psw.pl.toNat, marked := false } →
          step s = exec (.descriptorLaunch w) s0

/-- What reset leaves (R76, R174, R324, R703, R736, Tables 5-4, 7-3 and 19-8), with DRAM in its canonical form. -/
def Obligations.ResetState : Prop :=
  let r := State.reset
  DramOk r ∧ r.pending = [] ∧ r.timeBase = 0 ∧ r.smc.step = 1 ∧ r.domList = [] ∧ r.tap.ir = 0x01 ∧
    (∀ g,
      let v := r.thread g
      v.run = .halted ∧ (∀ i, v.reg i = 0) ∧ (∀ i, v.freg i = 0) ∧ v.fl = 0 ∧ v.older = [] ∧ v.res = 1 ∧ v.spilled = 0 ∧
        v.psw = { pl := 0, ml := 15, ems := false, ss := false, brs := false } ∧ v.tile.queue = [] ∧ v.tile.held = none ∧
        (∀ a, Mem.byte v.tile.data a = 0) ∧ v.tile.inuse = 0 ∧
        (∀ n ∈ [0x504, 0x505, 0x506, 0x507], v.sysGet n = 0x3F800000) ∧
        v.sysGet 0x50C = (if g % 2 = 0 then 0 else 0x40000) ∧ v.sysGet 0x50D = (if g % 2 = 0 then 0x40000 else 0x80000)) ∧
    (∀ c, (r.core c).mode = 0 ∧ (∀ n, FMap.get (r.core c).scnt n 0 = 0) ∧ (r.core c).apbase = 0) ∧
    ∀ d, (r.domain d).valid = false ∧ (r.domain d).store.entries = [] ∧ (r.domain d).store.fresh = 1

/-- Every step keeps DRAM in its canonical form: no byte has two values, and equal memories are equal data. -/
def Obligations.StepsKeepDramForm : Prop :=
  ∀ s t : State, DramOk s → step s = .next t → DramOk t

/-- No command ends a run, and none touches the queue: each answers a next state in which what waits behind it still waits, in
order. -/
def Obligations.CommandsLeaveTheQueue : Prop :=
  ∀ (c : Instr) (s : State), ∃ t, exec c s = .next t ∧ t.pending = s.pending
end

