-- ==== Sys2Proof/Laws/Maps.lean ====
section
/-!
SUPPORT. The laws of sparse maps and byte memories: a read after a write, and the canonical form that every write keeps.
-/

namespace Sys2Proof

variable {α : Type}

/-! ### Reading after writing -/

@[simp] theorem FMap.get_nil (k : Nat) (d : α) : FMap.get [] k d = d := rfl

@[simp] theorem FMap.find_nil (k : Nat) : FMap.find ([] : FMap α) k = none := rfl

theorem FMap.get_put (m : FMap α) (k j : Nat) (v d : α) :
    FMap.get (FMap.put m k v) j d = if k = j then v else FMap.get m j d := by
  induction m with
  | nil => simp [FMap.put, FMap.get]
  | cons p r ih =>
    obtain ⟨i, w⟩ := p
    simp only [FMap.put]
    split
    · subst i; simp only [FMap.get]; split <;> simp_all
    · split
      · simp [FMap.get]
      · simp only [FMap.get, ih]; split <;> split <;> simp_all

theorem FMap.find_put (m : FMap α) (k j : Nat) (v : α) :
    FMap.find (FMap.put m k v) j = if k = j then some v else FMap.find m j := by
  induction m with
  | nil => simp [FMap.put, FMap.find]
  | cons p r ih =>
    obtain ⟨i, w⟩ := p
    simp only [FMap.put]
    split
    · subst i; simp only [FMap.find]; split <;> simp_all
    · split
      · simp [FMap.find]
      · simp only [FMap.find, ih]; split <;> split <;> simp_all

theorem FMap.get_erase (m : FMap α) (k j : Nat) (d : α) :
    FMap.get (FMap.erase m k) j d = if k = j then d else FMap.get m j d := by
  induction m with
  | nil => simp [FMap.erase, FMap.get]
  | cons p r ih =>
    obtain ⟨i, w⟩ := p
    simp only [FMap.erase]
    split
    · subst i; rw [ih]; simp only [FMap.get]; split <;> simp_all
    · simp only [FMap.get, ih]; split <;> split <;> simp_all

theorem FMap.find_erase (m : FMap α) (k j : Nat) :
    FMap.find (FMap.erase m k) j = if k = j then none else FMap.find m j := by
  induction m with
  | nil => simp [FMap.erase, FMap.find]
  | cons p r ih =>
    obtain ⟨i, w⟩ := p
    simp only [FMap.erase]
    split
    · subst i; rw [ih]; simp only [FMap.find]; split <;> simp_all
    · simp only [FMap.find, ih]; split <;> split <;> simp_all

theorem FMap.get_set [DecidableEq α] (m : FMap α) (k j : Nat) (v d : α) :
    FMap.get (FMap.set m k v d) j d = if k = j then v else FMap.get m j d := by
  unfold FMap.set
  split
  · subst v; rw [FMap.get_erase]
  · rw [FMap.get_put]

@[simp] theorem FMap.get_put_same (m : FMap α) (k : Nat) (v d : α) : FMap.get (FMap.put m k v) k d = v := by
  simp [FMap.get_put]

@[simp] theorem FMap.find_put_same (m : FMap α) (k : Nat) (v : α) : FMap.find (FMap.put m k v) k = some v := by
  simp [FMap.find_put]

@[simp] theorem FMap.get_set_same [DecidableEq α] (m : FMap α) (k : Nat) (v d : α) :
    FMap.get (FMap.set m k v d) k d = v := by simp [FMap.get_set]

theorem FMap.get_put_ne (m : FMap α) {k j : Nat} (v d : α) (h : k ≠ j) :
    FMap.get (FMap.put m k v) j d = FMap.get m j d := by simp [FMap.get_put, h]

theorem FMap.find_put_ne (m : FMap α) {k j : Nat} (v : α) (h : k ≠ j) :
    FMap.find (FMap.put m k v) j = FMap.find m j := by simp [FMap.find_put, h]

theorem FMap.get_set_ne [DecidableEq α] (m : FMap α) {k j : Nat} (v d : α) (h : k ≠ j) :
    FMap.get (FMap.set m k v d) j d = FMap.get m j d := by simp [FMap.get_set, h]

/-- Putting a key twice keeps the last value. -/
@[simp] theorem FMap.put_put (m : FMap α) (k : Nat) (v w : α) : FMap.put (FMap.put m k v) k w = FMap.put m k w := by
  induction m with
  | nil => simp [FMap.put]
  | cons p r ih =>
    obtain ⟨i, u⟩ := p
    simp only [FMap.put]
    split
    · subst i; simp [FMap.put]
    · split
      · simp [FMap.put]
      · rename_i h1 h2; simp [FMap.put, h1, h2, ih]

/-! ### The canonical form -/

theorem FMap.rises_weaken {lo : Option Nat} {k : Nat} {m : FMap α} (h : FMap.rises (some k) m = true)
    (hk : ∀ l, lo = some l → l ≤ k) : FMap.rises lo m = true := by
  cases m with
  | nil => rfl
  | cons p r =>
    obtain ⟨i, w⟩ := p
    cases lo with
    | none => simp_all [FMap.rises]
    | some l => have := hk l rfl; simp_all [FMap.rises]; omega

theorem FMap.rises_put {lo : Option Nat} {m : FMap α} {k : Nat} {v : α} (h : FMap.rises lo m = true)
    (hk : ∀ l, lo = some l → l < k) : FMap.rises lo (FMap.put m k v) = true := by
  induction m generalizing lo with
  | nil => cases lo <;> simp_all [FMap.put, FMap.rises]
  | cons p r ih =>
    obtain ⟨i, w⟩ := p
    simp only [FMap.put]
    have ht : FMap.rises (some i) r = true := by cases lo <;> simp_all [FMap.rises]
    split
    · subst i; cases lo <;> simp_all [FMap.rises]
    · split
      · cases lo <;> simp_all [FMap.rises]
      · have := ih (lo := some i) ht (by intro l hl; cases hl; omega)
        cases lo <;> simp_all [FMap.rises]

theorem FMap.rises_filter {lo : Option Nat} {m : FMap α} (p : Nat × α → Bool) (h : FMap.rises lo m = true) :
    FMap.rises lo (m.filter p) = true := by
  induction m generalizing lo with
  | nil => exact h
  | cons q r ih =>
    obtain ⟨i, w⟩ := q
    have ht : FMap.rises (some i) r = true := by cases lo <;> simp_all [FMap.rises]
    have hl : ∀ l, lo = some l → l < i := by intro l hl; subst hl; simp_all [FMap.rises]
    simp only [List.filter_cons]
    split
    · have := ih ht; cases lo <;> simp_all [FMap.rises]
    · exact FMap.rises_weaken (ih ht) (fun l hl' => Nat.le_of_lt (hl l hl'))

theorem FMap.erase_eq_filter (m : FMap α) (k : Nat) : FMap.erase m k = m.filter (fun p => decide (p.1 ≠ k)) := by
  induction m with
  | nil => rfl
  | cons p r ih => obtain ⟨i, w⟩ := p; simp only [FMap.erase, List.filter_cons, ih]; split <;> simp_all

theorem FMap.mem_put {m : FMap α} {k : Nat} {v : α} {p : Nat × α} (h : p ∈ FMap.put m k v) : p = (k, v) ∨ p ∈ m := by
  induction m with
  | nil => simp_all [FMap.put]
  | cons q r ih =>
    obtain ⟨i, w⟩ := q
    simp only [FMap.put] at h
    split at h
    · simp_all; grind
    · split at h
      · simp_all
      · simp only [List.mem_cons] at h ⊢
        rcases h with h | h
        · exact .inr (.inl h)
        · rcases ih h with h | h
          · exact .inl h
          · exact .inr (.inr h)

variable [DecidableEq α]

@[simp] theorem FMap.wf_nil (d : α) : FMap.wf d [] = true := rfl

theorem FMap.wf_filter {d : α} {m : FMap α} (p : Nat × α → Bool) (h : FMap.wf d m = true) :
    FMap.wf d (m.filter p) = true := by
  simp only [FMap.wf, Bool.and_eq_true, List.all_eq_true] at h ⊢
  exact ⟨FMap.rises_filter p h.1, fun q hq => h.2 q ((List.mem_filter.1 hq).1)⟩

theorem FMap.wf_set {d : α} {m : FMap α} (k : Nat) (v : α) (h : FMap.wf d m = true) :
    FMap.wf d (FMap.set m k v d) = true := by
  unfold FMap.set
  split
  · rw [FMap.erase_eq_filter]; exact FMap.wf_filter _ h
  · rename_i hv
    simp only [FMap.wf, Bool.and_eq_true, List.all_eq_true] at h ⊢
    refine ⟨FMap.rises_put h.1 (by simp), fun q hq => ?_⟩
    rcases FMap.mem_put hq with rfl | hq
    · simpa using hv
    · exact h.2 q hq

/-! ### Byte memories -/

theorem Memory.wf_nil : Memory.wf [] = true := rfl

theorem Memory.wf_setByte {m : Mem} (a : Nat) (b : Byte) (h : Memory.wf m = true) : Memory.wf (Mem.setByte m a b) = true :=
  FMap.wf_set a b h

theorem Memory.wf_write {m : Mem} (a : Nat) (bs : List Byte) (h : Memory.wf m = true) :
    Memory.wf (Mem.write m a bs) = true := by
  induction bs generalizing m a with
  | nil => exact h
  | cons b r ih => exact ih (a + 1) (Memory.wf_setByte a b h)

theorem Memory.wf_clear {m : Mem} (lo hi : Nat) (h : Memory.wf m = true) : Memory.wf (Mem.clear m lo hi) = true :=
  FMap.wf_filter _ h

theorem Memory.wf_overlay {m : Mem} (src : Mem) (h : Memory.wf m = true) : Memory.wf (Mem.overlay m src) = true := by
  unfold Mem.overlay
  induction src generalizing m with
  | nil => exact h
  | cons p r ih => exact ih (Memory.wf_setByte p.1 p.2 h)

theorem Mem.byte_setByte (m : Mem) (a j : Nat) (b : Byte) :
    Mem.byte (Mem.setByte m a b) j = if a = j then b else Mem.byte m j := FMap.get_set m a j b 0

/-- A write changes the bytes it covers and no other. -/
theorem Mem.byte_write (m : Mem) (a j : Nat) (bs : List Byte) :
    Mem.byte (Mem.write m a bs) j =
      if h : a ≤ j ∧ j < a + bs.length then bs[j - a]'(by omega) else Mem.byte m j := by
  induction bs generalizing m a with
  | nil => simp [Mem.write] <;> (intro h; omega)
  | cons b r ih =>
    simp only [Mem.write, ih, Mem.byte_setByte, List.length_cons]
    by_cases h1 : a = j
    · subst h1; simp <;> (intro h; omega)
    · by_cases h2 : a + 1 ≤ j ∧ j < a + 1 + r.length
      · have e : j - a = (j - (a + 1)) + 1 := by omega
        rw [dif_pos h2, dif_pos ⟨by omega, by omega⟩]
        simp [e]
      · rw [dif_neg h2, if_neg h1, dif_neg (by omega)]

theorem Mem.cells_mem {a : Nat} {bs : List Byte} {p : Nat × Byte} (h : p ∈ Mem.cells a bs) :
    a ≤ p.1 ∧ p.1 < a + bs.length ∧ p.2 ≠ 0 := by
  induction bs generalizing a with
  | nil => simp [Mem.cells] at h
  | cons b r ih =>
    simp only [Mem.cells] at h
    split at h
    · obtain ⟨h1, h2, h3⟩ := ih h
      exact ⟨by omega, by simp only [List.length_cons]; omega, h3⟩
    · simp only [List.mem_cons] at h
      rcases h with rfl | h
      · simp_all
      · obtain ⟨h1, h2, h3⟩ := ih h
        exact ⟨by omega, by simp only [List.length_cons]; omega, h3⟩

theorem Mem.cells_rises (a : Nat) (bs : List Byte) (lo : Option Nat) (h : ∀ l, lo = some l → l < a) :
    FMap.rises lo (Mem.cells a bs) = true := by
  induction bs generalizing a lo with
  | nil => simp [Mem.cells, FMap.rises]
  | cons b r ih =>
    simp only [Mem.cells]
    split
    · exact ih (a + 1) lo (fun l hl => by have := h l hl; omega)
    · have := ih (a + 1) (some a) (by intro l hl; cases hl; omega)
      cases lo <;> simp_all [FMap.rises]

omit [DecidableEq α] in
theorem FMap.rises_append {lo : Option Nat} {m n : FMap α} {k : Nat} (hm : FMap.rises lo m = true)
    (hn : FMap.rises (some k) n = true) (hk : ∀ l, lo = some l → l ≤ k) (h : ∀ p ∈ m, p.1 ≤ k) :
    FMap.rises lo (m ++ n) = true := by
  induction m generalizing lo with
  | nil => exact FMap.rises_weaken hn hk
  | cons q r ih =>
    obtain ⟨i, w⟩ := q
    have ht : FMap.rises (some i) r = true := by cases lo <;> simp_all [FMap.rises]
    have hik : i ≤ k := h (i, w) (by simp)
    have := ih (lo := some i) ht (by intro l hl; cases hl; exact hik) (fun p hp => h p (by simp [hp]))
    cases lo <;> simp_all [FMap.rises]

theorem Memory.wf_splice {m : Mem} (a : Nat) (bs : List Byte) (h : Memory.wf m = true) :
    Memory.wf (Mem.splice m a bs) = true := by
  have hw := h
  simp only [Memory.wf, FMap.wf, Bool.and_eq_true, List.all_eq_true] at h ⊢
  have hlo (lo : Nat) (n : Mem) (hn : FMap.rises none n = true) (hb : ∀ p ∈ n, lo < p.1) :
      FMap.rises (some lo) n = true := by
    cases n with
    | nil => rfl
    | cons p r => have := hb p (by simp); simp_all [FMap.rises]
  have rise3 : ∀ (lo : Option Nat) (p q : Mem) (c : Nat), FMap.rises lo p = true → FMap.rises none q = true →
      (∀ x ∈ p, x.1 < c) → (∀ x ∈ q, c ≤ x.1) → FMap.rises lo q = true → FMap.rises lo (p ++ q) = true := by
    intro lo p
    induction p generalizing lo with
    | nil => intro q c _ _ _ _ h5; simpa using h5
    | cons x r ih =>
      intro q c h1 h2 h3 h4 _
      obtain ⟨i, w⟩ := x
      have ht : FMap.rises (some i) r = true := by cases lo <;> simp_all [FMap.rises]
      have hic : i < c := h3 (i, w) (by simp)
      have := ih (some i) q c ht h2 (fun x hx => h3 x (by simp [hx])) h4
        (hlo i q h2 (fun x hx => by have := h4 x hx; omega))
      cases lo <;> simp_all [FMap.rises]
  constructor
  · have h1 : FMap.rises none (m.filter (fun p => decide (p.1 < a))) = true := FMap.rises_filter _ h.1
    have h3 : FMap.rises none (m.filter (fun p => decide (a + bs.length ≤ p.1))) = true := FMap.rises_filter _ h.1
    have h2 : FMap.rises none (Mem.cells a bs) = true := Mem.cells_rises a bs none (by simp)
    unfold Mem.splice
    refine rise3 none _ _ (a + bs.length) (rise3 none _ _ a h1 h2 ?_ ?_ h2) h3 ?_ ?_ h3
    · intro x hx; simpa using (List.mem_filter.1 hx).2
    · intro x hx; exact (Mem.cells_mem hx).1
    · intro x hx
      rcases List.mem_append.1 hx with hx | hx
      · have := (List.mem_filter.1 hx).2; simp at this; omega
      · exact (Mem.cells_mem hx).2.1
    · intro x hx; simpa using (List.mem_filter.1 hx).2
  · intro p hp
    unfold Mem.splice at hp
    rcases List.mem_append.1 hp with hp | hp
    · rcases List.mem_append.1 hp with hp | hp
      · exact h.2 p ((List.mem_filter.1 hp).1)
      · simpa using (Mem.cells_mem hp).2.2
    · exact h.2 p ((List.mem_filter.1 hp).1)

end Sys2Proof
end

