-- ==== Sys2Proof/Laws/State.lean ====
section
/-!
SUPPORT. What each update of a part of the state leaves of every other part, and what reads back from the part itself.
-/

namespace Sys2Proof.Machine

variable (s : State)

/-! ### setThread -/

@[simp] theorem State.setThread_cores (g : Nat) (t : Thread) : (s.setThread g t).cores = s.cores := rfl
@[simp] theorem State.setThread_dram (g : Nat) (t : Thread) : (s.setThread g t).dram = s.dram := rfl
@[simp] theorem State.setThread_lines (g : Nat) (t : Thread) : (s.setThread g t).lines = s.lines := rfl
@[simp] theorem State.setThread_msgs (g : Nat) (t : Thread) : (s.setThread g t).msgs = s.msgs := rfl
@[simp] theorem State.setThread_stops (g : Nat) (t : Thread) : (s.setThread g t).stops = s.stops := rfl
@[simp] theorem State.setThread_agentWant (g : Nat) (t : Thread) : (s.setThread g t).agentWant = s.agentWant := rfl
@[simp] theorem State.setThread_missWait (g : Nat) (t : Thread) : (s.setThread g t).missWait = s.missWait := rfl
@[simp] theorem State.setThread_misses (g : Nat) (t : Thread) : (s.setThread g t).misses = s.misses := rfl
@[simp] theorem State.setThread_l3 (g : Nat) (t : Thread) : (s.setThread g t).l3 = s.l3 := rfl
@[simp] theorem State.setThread_dirUse (g : Nat) (t : Thread) : (s.setThread g t).dirUse = s.dirUse := rfl
@[simp] theorem State.setThread_loam (g : Nat) (t : Thread) : (s.setThread g t).loam = s.loam := rfl
@[simp] theorem State.setThread_seed (g : Nat) (t : Thread) : (s.setThread g t).seed = s.seed := rfl
@[simp] theorem State.setThread_domains (g : Nat) (t : Thread) : (s.setThread g t).domains = s.domains := rfl
@[simp] theorem State.setThread_tileDom (g : Nat) (t : Thread) : (s.setThread g t).tileDom = s.tileDom := rfl
@[simp] theorem State.setThread_fabric (g : Nat) (t : Thread) : (s.setThread g t).fabric = s.fabric := rfl
@[simp] theorem State.setThread_smc (g : Nat) (t : Thread) : (s.setThread g t).smc = s.smc := rfl
@[simp] theorem State.setThread_pins (g : Nat) (t : Thread) : (s.setThread g t).pins = s.pins := rfl
@[simp] theorem State.setThread_tap (g : Nat) (t : Thread) : (s.setThread g t).tap = s.tap := rfl
@[simp] theorem State.setThread_ddr (g : Nat) (t : Thread) : (s.setThread g t).ddr = s.ddr := rfl
@[simp] theorem State.setThread_ports (g : Nat) (t : Thread) : (s.setThread g t).ports = s.ports := rfl
@[simp] theorem State.setThread_timeBase (g : Nat) (t : Thread) : (s.setThread g t).timeBase = s.timeBase := rfl
@[simp] theorem State.setThread_free (g : Nat) (t : Thread) : (s.setThread g t).free = s.free := rfl
@[simp] theorem State.setThread_pending (g : Nat) (t : Thread) : (s.setThread g t).pending = s.pending := rfl
@[simp] theorem State.setThread_view_core (g : Nat) (t : Thread) (k : Nat) : (s.setThread g t).core k = s.core k := rfl
@[simp] theorem State.setThread_view_domain (g : Nat) (t : Thread) (k : Nat) : (s.setThread g t).domain k = s.domain k := rfl
@[simp] theorem State.setThread_view_stack (g : Nat) (t : Thread) (k : Nat) : (s.setThread g t).stack k = s.stack k := rfl
@[simp] theorem State.setThread_view_volume (g : Nat) (t : Thread) (k : Nat) : (s.setThread g t).volume k = s.volume k := rfl
@[simp] theorem State.setThread_view_clk (g : Nat) (t : Thread) (k : Nat) : (s.setThread g t).clk k = s.clk k := rfl
@[simp] theorem State.setThread_view_slot (g : Nat) (t : Thread) (k : Nat) : (s.setThread g t).slot k = s.slot k := rfl
@[simp] theorem State.setThread_view_port (g : Nat) (t : Thread) (k : Nat) : (s.setThread g t).port k = s.port k := rfl
@[simp] theorem State.setThread_view_fport (g : Nat) (t : Thread) (k : Nat) : (s.setThread g t).fport k = s.fport k := rfl
@[simp] theorem State.setThread_view_fab (g : Nat) (t : Thread) (k : Nat) : (s.setThread g t).fab k = s.fab k := rfl
@[simp] theorem State.setThread_view_line (g : Nat) (t : Thread) (k : Nat) : (s.setThread g t).line k = s.line k := rfl
@[simp] theorem State.setThread_view_domOf (g : Nat) (t : Thread) (k : Nat) : (s.setThread g t).domOf k = s.domOf k := rfl

/-! ### onThread -/

@[simp] theorem State.onThread_cores (g : Nat) (f : Thread → Thread) : (s.onThread g f).cores = s.cores := rfl
@[simp] theorem State.onThread_dram (g : Nat) (f : Thread → Thread) : (s.onThread g f).dram = s.dram := rfl
@[simp] theorem State.onThread_lines (g : Nat) (f : Thread → Thread) : (s.onThread g f).lines = s.lines := rfl
@[simp] theorem State.onThread_msgs (g : Nat) (f : Thread → Thread) : (s.onThread g f).msgs = s.msgs := rfl
@[simp] theorem State.onThread_stops (g : Nat) (f : Thread → Thread) : (s.onThread g f).stops = s.stops := rfl
@[simp] theorem State.onThread_agentWant (g : Nat) (f : Thread → Thread) : (s.onThread g f).agentWant = s.agentWant := rfl
@[simp] theorem State.onThread_missWait (g : Nat) (f : Thread → Thread) : (s.onThread g f).missWait = s.missWait := rfl
@[simp] theorem State.onThread_misses (g : Nat) (f : Thread → Thread) : (s.onThread g f).misses = s.misses := rfl
@[simp] theorem State.onThread_l3 (g : Nat) (f : Thread → Thread) : (s.onThread g f).l3 = s.l3 := rfl
@[simp] theorem State.onThread_dirUse (g : Nat) (f : Thread → Thread) : (s.onThread g f).dirUse = s.dirUse := rfl
@[simp] theorem State.onThread_loam (g : Nat) (f : Thread → Thread) : (s.onThread g f).loam = s.loam := rfl
@[simp] theorem State.onThread_seed (g : Nat) (f : Thread → Thread) : (s.onThread g f).seed = s.seed := rfl
@[simp] theorem State.onThread_domains (g : Nat) (f : Thread → Thread) : (s.onThread g f).domains = s.domains := rfl
@[simp] theorem State.onThread_tileDom (g : Nat) (f : Thread → Thread) : (s.onThread g f).tileDom = s.tileDom := rfl
@[simp] theorem State.onThread_fabric (g : Nat) (f : Thread → Thread) : (s.onThread g f).fabric = s.fabric := rfl
@[simp] theorem State.onThread_smc (g : Nat) (f : Thread → Thread) : (s.onThread g f).smc = s.smc := rfl
@[simp] theorem State.onThread_pins (g : Nat) (f : Thread → Thread) : (s.onThread g f).pins = s.pins := rfl
@[simp] theorem State.onThread_tap (g : Nat) (f : Thread → Thread) : (s.onThread g f).tap = s.tap := rfl
@[simp] theorem State.onThread_ddr (g : Nat) (f : Thread → Thread) : (s.onThread g f).ddr = s.ddr := rfl
@[simp] theorem State.onThread_ports (g : Nat) (f : Thread → Thread) : (s.onThread g f).ports = s.ports := rfl
@[simp] theorem State.onThread_timeBase (g : Nat) (f : Thread → Thread) : (s.onThread g f).timeBase = s.timeBase := rfl
@[simp] theorem State.onThread_free (g : Nat) (f : Thread → Thread) : (s.onThread g f).free = s.free := rfl
@[simp] theorem State.onThread_pending (g : Nat) (f : Thread → Thread) : (s.onThread g f).pending = s.pending := rfl
@[simp] theorem State.onThread_view_core (g : Nat) (f : Thread → Thread) (k : Nat) : (s.onThread g f).core k = s.core k := rfl
@[simp] theorem State.onThread_view_domain (g : Nat) (f : Thread → Thread) (k : Nat) : (s.onThread g f).domain k = s.domain k := rfl
@[simp] theorem State.onThread_view_stack (g : Nat) (f : Thread → Thread) (k : Nat) : (s.onThread g f).stack k = s.stack k := rfl
@[simp] theorem State.onThread_view_volume (g : Nat) (f : Thread → Thread) (k : Nat) : (s.onThread g f).volume k = s.volume k := rfl
@[simp] theorem State.onThread_view_clk (g : Nat) (f : Thread → Thread) (k : Nat) : (s.onThread g f).clk k = s.clk k := rfl
@[simp] theorem State.onThread_view_slot (g : Nat) (f : Thread → Thread) (k : Nat) : (s.onThread g f).slot k = s.slot k := rfl
@[simp] theorem State.onThread_view_port (g : Nat) (f : Thread → Thread) (k : Nat) : (s.onThread g f).port k = s.port k := rfl
@[simp] theorem State.onThread_view_fport (g : Nat) (f : Thread → Thread) (k : Nat) : (s.onThread g f).fport k = s.fport k := rfl
@[simp] theorem State.onThread_view_fab (g : Nat) (f : Thread → Thread) (k : Nat) : (s.onThread g f).fab k = s.fab k := rfl
@[simp] theorem State.onThread_view_line (g : Nat) (f : Thread → Thread) (k : Nat) : (s.onThread g f).line k = s.line k := rfl
@[simp] theorem State.onThread_view_domOf (g : Nat) (f : Thread → Thread) (k : Nat) : (s.onThread g f).domOf k = s.domOf k := rfl

/-! ### setCore -/

@[simp] theorem State.setCore_threads (c : Nat) (x : Core) : (s.setCore c x).threads = s.threads := rfl
@[simp] theorem State.setCore_dram (c : Nat) (x : Core) : (s.setCore c x).dram = s.dram := rfl
@[simp] theorem State.setCore_lines (c : Nat) (x : Core) : (s.setCore c x).lines = s.lines := rfl
@[simp] theorem State.setCore_msgs (c : Nat) (x : Core) : (s.setCore c x).msgs = s.msgs := rfl
@[simp] theorem State.setCore_stops (c : Nat) (x : Core) : (s.setCore c x).stops = s.stops := rfl
@[simp] theorem State.setCore_agentWant (c : Nat) (x : Core) : (s.setCore c x).agentWant = s.agentWant := rfl
@[simp] theorem State.setCore_missWait (c : Nat) (x : Core) : (s.setCore c x).missWait = s.missWait := rfl
@[simp] theorem State.setCore_misses (c : Nat) (x : Core) : (s.setCore c x).misses = s.misses := rfl
@[simp] theorem State.setCore_l3 (c : Nat) (x : Core) : (s.setCore c x).l3 = s.l3 := rfl
@[simp] theorem State.setCore_dirUse (c : Nat) (x : Core) : (s.setCore c x).dirUse = s.dirUse := rfl
@[simp] theorem State.setCore_loam (c : Nat) (x : Core) : (s.setCore c x).loam = s.loam := rfl
@[simp] theorem State.setCore_seed (c : Nat) (x : Core) : (s.setCore c x).seed = s.seed := rfl
@[simp] theorem State.setCore_domains (c : Nat) (x : Core) : (s.setCore c x).domains = s.domains := rfl
@[simp] theorem State.setCore_tileDom (c : Nat) (x : Core) : (s.setCore c x).tileDom = s.tileDom := rfl
@[simp] theorem State.setCore_fabric (c : Nat) (x : Core) : (s.setCore c x).fabric = s.fabric := rfl
@[simp] theorem State.setCore_smc (c : Nat) (x : Core) : (s.setCore c x).smc = s.smc := rfl
@[simp] theorem State.setCore_pins (c : Nat) (x : Core) : (s.setCore c x).pins = s.pins := rfl
@[simp] theorem State.setCore_tap (c : Nat) (x : Core) : (s.setCore c x).tap = s.tap := rfl
@[simp] theorem State.setCore_ddr (c : Nat) (x : Core) : (s.setCore c x).ddr = s.ddr := rfl
@[simp] theorem State.setCore_ports (c : Nat) (x : Core) : (s.setCore c x).ports = s.ports := rfl
@[simp] theorem State.setCore_timeBase (c : Nat) (x : Core) : (s.setCore c x).timeBase = s.timeBase := rfl
@[simp] theorem State.setCore_free (c : Nat) (x : Core) : (s.setCore c x).free = s.free := rfl
@[simp] theorem State.setCore_pending (c : Nat) (x : Core) : (s.setCore c x).pending = s.pending := rfl
@[simp] theorem State.setCore_view_thread (c : Nat) (x : Core) (k : Nat) : (s.setCore c x).thread k = s.thread k := rfl
@[simp] theorem State.setCore_view_domain (c : Nat) (x : Core) (k : Nat) : (s.setCore c x).domain k = s.domain k := rfl
@[simp] theorem State.setCore_view_stack (c : Nat) (x : Core) (k : Nat) : (s.setCore c x).stack k = s.stack k := rfl
@[simp] theorem State.setCore_view_volume (c : Nat) (x : Core) (k : Nat) : (s.setCore c x).volume k = s.volume k := rfl
@[simp] theorem State.setCore_view_clk (c : Nat) (x : Core) (k : Nat) : (s.setCore c x).clk k = s.clk k := rfl
@[simp] theorem State.setCore_view_slot (c : Nat) (x : Core) (k : Nat) : (s.setCore c x).slot k = s.slot k := rfl
@[simp] theorem State.setCore_view_port (c : Nat) (x : Core) (k : Nat) : (s.setCore c x).port k = s.port k := rfl
@[simp] theorem State.setCore_view_fport (c : Nat) (x : Core) (k : Nat) : (s.setCore c x).fport k = s.fport k := rfl
@[simp] theorem State.setCore_view_fab (c : Nat) (x : Core) (k : Nat) : (s.setCore c x).fab k = s.fab k := rfl
@[simp] theorem State.setCore_view_line (c : Nat) (x : Core) (k : Nat) : (s.setCore c x).line k = s.line k := rfl
@[simp] theorem State.setCore_view_domOf (c : Nat) (x : Core) (k : Nat) : (s.setCore c x).domOf k = s.domOf k := rfl

/-! ### onCore -/

@[simp] theorem State.onCore_threads (c : Nat) (f : Core → Core) : (s.onCore c f).threads = s.threads := rfl
@[simp] theorem State.onCore_dram (c : Nat) (f : Core → Core) : (s.onCore c f).dram = s.dram := rfl
@[simp] theorem State.onCore_lines (c : Nat) (f : Core → Core) : (s.onCore c f).lines = s.lines := rfl
@[simp] theorem State.onCore_msgs (c : Nat) (f : Core → Core) : (s.onCore c f).msgs = s.msgs := rfl
@[simp] theorem State.onCore_stops (c : Nat) (f : Core → Core) : (s.onCore c f).stops = s.stops := rfl
@[simp] theorem State.onCore_agentWant (c : Nat) (f : Core → Core) : (s.onCore c f).agentWant = s.agentWant := rfl
@[simp] theorem State.onCore_missWait (c : Nat) (f : Core → Core) : (s.onCore c f).missWait = s.missWait := rfl
@[simp] theorem State.onCore_misses (c : Nat) (f : Core → Core) : (s.onCore c f).misses = s.misses := rfl
@[simp] theorem State.onCore_l3 (c : Nat) (f : Core → Core) : (s.onCore c f).l3 = s.l3 := rfl
@[simp] theorem State.onCore_dirUse (c : Nat) (f : Core → Core) : (s.onCore c f).dirUse = s.dirUse := rfl
@[simp] theorem State.onCore_loam (c : Nat) (f : Core → Core) : (s.onCore c f).loam = s.loam := rfl
@[simp] theorem State.onCore_seed (c : Nat) (f : Core → Core) : (s.onCore c f).seed = s.seed := rfl
@[simp] theorem State.onCore_domains (c : Nat) (f : Core → Core) : (s.onCore c f).domains = s.domains := rfl
@[simp] theorem State.onCore_tileDom (c : Nat) (f : Core → Core) : (s.onCore c f).tileDom = s.tileDom := rfl
@[simp] theorem State.onCore_fabric (c : Nat) (f : Core → Core) : (s.onCore c f).fabric = s.fabric := rfl
@[simp] theorem State.onCore_smc (c : Nat) (f : Core → Core) : (s.onCore c f).smc = s.smc := rfl
@[simp] theorem State.onCore_pins (c : Nat) (f : Core → Core) : (s.onCore c f).pins = s.pins := rfl
@[simp] theorem State.onCore_tap (c : Nat) (f : Core → Core) : (s.onCore c f).tap = s.tap := rfl
@[simp] theorem State.onCore_ddr (c : Nat) (f : Core → Core) : (s.onCore c f).ddr = s.ddr := rfl
@[simp] theorem State.onCore_ports (c : Nat) (f : Core → Core) : (s.onCore c f).ports = s.ports := rfl
@[simp] theorem State.onCore_timeBase (c : Nat) (f : Core → Core) : (s.onCore c f).timeBase = s.timeBase := rfl
@[simp] theorem State.onCore_free (c : Nat) (f : Core → Core) : (s.onCore c f).free = s.free := rfl
@[simp] theorem State.onCore_pending (c : Nat) (f : Core → Core) : (s.onCore c f).pending = s.pending := rfl
@[simp] theorem State.onCore_view_thread (c : Nat) (f : Core → Core) (k : Nat) : (s.onCore c f).thread k = s.thread k := rfl
@[simp] theorem State.onCore_view_domain (c : Nat) (f : Core → Core) (k : Nat) : (s.onCore c f).domain k = s.domain k := rfl
@[simp] theorem State.onCore_view_stack (c : Nat) (f : Core → Core) (k : Nat) : (s.onCore c f).stack k = s.stack k := rfl
@[simp] theorem State.onCore_view_volume (c : Nat) (f : Core → Core) (k : Nat) : (s.onCore c f).volume k = s.volume k := rfl
@[simp] theorem State.onCore_view_clk (c : Nat) (f : Core → Core) (k : Nat) : (s.onCore c f).clk k = s.clk k := rfl
@[simp] theorem State.onCore_view_slot (c : Nat) (f : Core → Core) (k : Nat) : (s.onCore c f).slot k = s.slot k := rfl
@[simp] theorem State.onCore_view_port (c : Nat) (f : Core → Core) (k : Nat) : (s.onCore c f).port k = s.port k := rfl
@[simp] theorem State.onCore_view_fport (c : Nat) (f : Core → Core) (k : Nat) : (s.onCore c f).fport k = s.fport k := rfl
@[simp] theorem State.onCore_view_fab (c : Nat) (f : Core → Core) (k : Nat) : (s.onCore c f).fab k = s.fab k := rfl
@[simp] theorem State.onCore_view_line (c : Nat) (f : Core → Core) (k : Nat) : (s.onCore c f).line k = s.line k := rfl
@[simp] theorem State.onCore_view_domOf (c : Nat) (f : Core → Core) (k : Nat) : (s.onCore c f).domOf k = s.domOf k := rfl

/-! ### setDomain -/

@[simp] theorem State.setDomain_threads (d : Nat) (x : Domain) : (s.setDomain d x).threads = s.threads := rfl
@[simp] theorem State.setDomain_cores (d : Nat) (x : Domain) : (s.setDomain d x).cores = s.cores := rfl
@[simp] theorem State.setDomain_dram (d : Nat) (x : Domain) : (s.setDomain d x).dram = s.dram := rfl
@[simp] theorem State.setDomain_lines (d : Nat) (x : Domain) : (s.setDomain d x).lines = s.lines := rfl
@[simp] theorem State.setDomain_msgs (d : Nat) (x : Domain) : (s.setDomain d x).msgs = s.msgs := rfl
@[simp] theorem State.setDomain_stops (d : Nat) (x : Domain) : (s.setDomain d x).stops = s.stops := rfl
@[simp] theorem State.setDomain_agentWant (d : Nat) (x : Domain) : (s.setDomain d x).agentWant = s.agentWant := rfl
@[simp] theorem State.setDomain_missWait (d : Nat) (x : Domain) : (s.setDomain d x).missWait = s.missWait := rfl
@[simp] theorem State.setDomain_misses (d : Nat) (x : Domain) : (s.setDomain d x).misses = s.misses := rfl
@[simp] theorem State.setDomain_l3 (d : Nat) (x : Domain) : (s.setDomain d x).l3 = s.l3 := rfl
@[simp] theorem State.setDomain_dirUse (d : Nat) (x : Domain) : (s.setDomain d x).dirUse = s.dirUse := rfl
@[simp] theorem State.setDomain_loam (d : Nat) (x : Domain) : (s.setDomain d x).loam = s.loam := rfl
@[simp] theorem State.setDomain_seed (d : Nat) (x : Domain) : (s.setDomain d x).seed = s.seed := rfl
@[simp] theorem State.setDomain_tileDom (d : Nat) (x : Domain) : (s.setDomain d x).tileDom = s.tileDom := rfl
@[simp] theorem State.setDomain_fabric (d : Nat) (x : Domain) : (s.setDomain d x).fabric = s.fabric := rfl
@[simp] theorem State.setDomain_smc (d : Nat) (x : Domain) : (s.setDomain d x).smc = s.smc := rfl
@[simp] theorem State.setDomain_pins (d : Nat) (x : Domain) : (s.setDomain d x).pins = s.pins := rfl
@[simp] theorem State.setDomain_tap (d : Nat) (x : Domain) : (s.setDomain d x).tap = s.tap := rfl
@[simp] theorem State.setDomain_ddr (d : Nat) (x : Domain) : (s.setDomain d x).ddr = s.ddr := rfl
@[simp] theorem State.setDomain_ports (d : Nat) (x : Domain) : (s.setDomain d x).ports = s.ports := rfl
@[simp] theorem State.setDomain_timeBase (d : Nat) (x : Domain) : (s.setDomain d x).timeBase = s.timeBase := rfl
@[simp] theorem State.setDomain_free (d : Nat) (x : Domain) : (s.setDomain d x).free = s.free := rfl
@[simp] theorem State.setDomain_pending (d : Nat) (x : Domain) : (s.setDomain d x).pending = s.pending := rfl
@[simp] theorem State.setDomain_view_thread (d : Nat) (x : Domain) (k : Nat) : (s.setDomain d x).thread k = s.thread k := rfl
@[simp] theorem State.setDomain_view_core (d : Nat) (x : Domain) (k : Nat) : (s.setDomain d x).core k = s.core k := rfl
@[simp] theorem State.setDomain_view_stack (d : Nat) (x : Domain) (k : Nat) : (s.setDomain d x).stack k = s.stack k := rfl
@[simp] theorem State.setDomain_view_volume (d : Nat) (x : Domain) (k : Nat) : (s.setDomain d x).volume k = s.volume k := rfl
@[simp] theorem State.setDomain_view_clk (d : Nat) (x : Domain) (k : Nat) : (s.setDomain d x).clk k = s.clk k := rfl
@[simp] theorem State.setDomain_view_slot (d : Nat) (x : Domain) (k : Nat) : (s.setDomain d x).slot k = s.slot k := rfl
@[simp] theorem State.setDomain_view_port (d : Nat) (x : Domain) (k : Nat) : (s.setDomain d x).port k = s.port k := rfl
@[simp] theorem State.setDomain_view_fport (d : Nat) (x : Domain) (k : Nat) : (s.setDomain d x).fport k = s.fport k := rfl
@[simp] theorem State.setDomain_view_fab (d : Nat) (x : Domain) (k : Nat) : (s.setDomain d x).fab k = s.fab k := rfl
@[simp] theorem State.setDomain_view_line (d : Nat) (x : Domain) (k : Nat) : (s.setDomain d x).line k = s.line k := rfl
@[simp] theorem State.setDomain_view_domOf (d : Nat) (x : Domain) (k : Nat) : (s.setDomain d x).domOf k = s.domOf k := rfl

/-! ### onDomain -/

@[simp] theorem State.onDomain_threads (d : Nat) (f : Domain → Domain) : (s.onDomain d f).threads = s.threads := rfl
@[simp] theorem State.onDomain_cores (d : Nat) (f : Domain → Domain) : (s.onDomain d f).cores = s.cores := rfl
@[simp] theorem State.onDomain_dram (d : Nat) (f : Domain → Domain) : (s.onDomain d f).dram = s.dram := rfl
@[simp] theorem State.onDomain_lines (d : Nat) (f : Domain → Domain) : (s.onDomain d f).lines = s.lines := rfl
@[simp] theorem State.onDomain_msgs (d : Nat) (f : Domain → Domain) : (s.onDomain d f).msgs = s.msgs := rfl
@[simp] theorem State.onDomain_stops (d : Nat) (f : Domain → Domain) : (s.onDomain d f).stops = s.stops := rfl
@[simp] theorem State.onDomain_agentWant (d : Nat) (f : Domain → Domain) : (s.onDomain d f).agentWant = s.agentWant := rfl
@[simp] theorem State.onDomain_missWait (d : Nat) (f : Domain → Domain) : (s.onDomain d f).missWait = s.missWait := rfl
@[simp] theorem State.onDomain_misses (d : Nat) (f : Domain → Domain) : (s.onDomain d f).misses = s.misses := rfl
@[simp] theorem State.onDomain_l3 (d : Nat) (f : Domain → Domain) : (s.onDomain d f).l3 = s.l3 := rfl
@[simp] theorem State.onDomain_dirUse (d : Nat) (f : Domain → Domain) : (s.onDomain d f).dirUse = s.dirUse := rfl
@[simp] theorem State.onDomain_loam (d : Nat) (f : Domain → Domain) : (s.onDomain d f).loam = s.loam := rfl
@[simp] theorem State.onDomain_seed (d : Nat) (f : Domain → Domain) : (s.onDomain d f).seed = s.seed := rfl
@[simp] theorem State.onDomain_tileDom (d : Nat) (f : Domain → Domain) : (s.onDomain d f).tileDom = s.tileDom := rfl
@[simp] theorem State.onDomain_fabric (d : Nat) (f : Domain → Domain) : (s.onDomain d f).fabric = s.fabric := rfl
@[simp] theorem State.onDomain_smc (d : Nat) (f : Domain → Domain) : (s.onDomain d f).smc = s.smc := rfl
@[simp] theorem State.onDomain_pins (d : Nat) (f : Domain → Domain) : (s.onDomain d f).pins = s.pins := rfl
@[simp] theorem State.onDomain_tap (d : Nat) (f : Domain → Domain) : (s.onDomain d f).tap = s.tap := rfl
@[simp] theorem State.onDomain_ddr (d : Nat) (f : Domain → Domain) : (s.onDomain d f).ddr = s.ddr := rfl
@[simp] theorem State.onDomain_ports (d : Nat) (f : Domain → Domain) : (s.onDomain d f).ports = s.ports := rfl
@[simp] theorem State.onDomain_timeBase (d : Nat) (f : Domain → Domain) : (s.onDomain d f).timeBase = s.timeBase := rfl
@[simp] theorem State.onDomain_free (d : Nat) (f : Domain → Domain) : (s.onDomain d f).free = s.free := rfl
@[simp] theorem State.onDomain_pending (d : Nat) (f : Domain → Domain) : (s.onDomain d f).pending = s.pending := rfl
@[simp] theorem State.onDomain_view_thread (d : Nat) (f : Domain → Domain) (k : Nat) : (s.onDomain d f).thread k = s.thread k := rfl
@[simp] theorem State.onDomain_view_core (d : Nat) (f : Domain → Domain) (k : Nat) : (s.onDomain d f).core k = s.core k := rfl
@[simp] theorem State.onDomain_view_stack (d : Nat) (f : Domain → Domain) (k : Nat) : (s.onDomain d f).stack k = s.stack k := rfl
@[simp] theorem State.onDomain_view_volume (d : Nat) (f : Domain → Domain) (k : Nat) : (s.onDomain d f).volume k = s.volume k := rfl
@[simp] theorem State.onDomain_view_clk (d : Nat) (f : Domain → Domain) (k : Nat) : (s.onDomain d f).clk k = s.clk k := rfl
@[simp] theorem State.onDomain_view_slot (d : Nat) (f : Domain → Domain) (k : Nat) : (s.onDomain d f).slot k = s.slot k := rfl
@[simp] theorem State.onDomain_view_port (d : Nat) (f : Domain → Domain) (k : Nat) : (s.onDomain d f).port k = s.port k := rfl
@[simp] theorem State.onDomain_view_fport (d : Nat) (f : Domain → Domain) (k : Nat) : (s.onDomain d f).fport k = s.fport k := rfl
@[simp] theorem State.onDomain_view_fab (d : Nat) (f : Domain → Domain) (k : Nat) : (s.onDomain d f).fab k = s.fab k := rfl
@[simp] theorem State.onDomain_view_line (d : Nat) (f : Domain → Domain) (k : Nat) : (s.onDomain d f).line k = s.line k := rfl
@[simp] theorem State.onDomain_view_domOf (d : Nat) (f : Domain → Domain) (k : Nat) : (s.onDomain d f).domOf k = s.domOf k := rfl

/-! ### onStack -/

@[simp] theorem State.onStack_threads (n : Nat) (f : Stack → Stack) : (s.onStack n f).threads = s.threads := rfl
@[simp] theorem State.onStack_cores (n : Nat) (f : Stack → Stack) : (s.onStack n f).cores = s.cores := rfl
@[simp] theorem State.onStack_dram (n : Nat) (f : Stack → Stack) : (s.onStack n f).dram = s.dram := rfl
@[simp] theorem State.onStack_lines (n : Nat) (f : Stack → Stack) : (s.onStack n f).lines = s.lines := rfl
@[simp] theorem State.onStack_msgs (n : Nat) (f : Stack → Stack) : (s.onStack n f).msgs = s.msgs := rfl
@[simp] theorem State.onStack_stops (n : Nat) (f : Stack → Stack) : (s.onStack n f).stops = s.stops := rfl
@[simp] theorem State.onStack_agentWant (n : Nat) (f : Stack → Stack) : (s.onStack n f).agentWant = s.agentWant := rfl
@[simp] theorem State.onStack_missWait (n : Nat) (f : Stack → Stack) : (s.onStack n f).missWait = s.missWait := rfl
@[simp] theorem State.onStack_misses (n : Nat) (f : Stack → Stack) : (s.onStack n f).misses = s.misses := rfl
@[simp] theorem State.onStack_l3 (n : Nat) (f : Stack → Stack) : (s.onStack n f).l3 = s.l3 := rfl
@[simp] theorem State.onStack_dirUse (n : Nat) (f : Stack → Stack) : (s.onStack n f).dirUse = s.dirUse := rfl
@[simp] theorem State.onStack_seed (n : Nat) (f : Stack → Stack) : (s.onStack n f).seed = s.seed := rfl
@[simp] theorem State.onStack_domains (n : Nat) (f : Stack → Stack) : (s.onStack n f).domains = s.domains := rfl
@[simp] theorem State.onStack_tileDom (n : Nat) (f : Stack → Stack) : (s.onStack n f).tileDom = s.tileDom := rfl
@[simp] theorem State.onStack_fabric (n : Nat) (f : Stack → Stack) : (s.onStack n f).fabric = s.fabric := rfl
@[simp] theorem State.onStack_smc (n : Nat) (f : Stack → Stack) : (s.onStack n f).smc = s.smc := rfl
@[simp] theorem State.onStack_pins (n : Nat) (f : Stack → Stack) : (s.onStack n f).pins = s.pins := rfl
@[simp] theorem State.onStack_tap (n : Nat) (f : Stack → Stack) : (s.onStack n f).tap = s.tap := rfl
@[simp] theorem State.onStack_ddr (n : Nat) (f : Stack → Stack) : (s.onStack n f).ddr = s.ddr := rfl
@[simp] theorem State.onStack_ports (n : Nat) (f : Stack → Stack) : (s.onStack n f).ports = s.ports := rfl
@[simp] theorem State.onStack_timeBase (n : Nat) (f : Stack → Stack) : (s.onStack n f).timeBase = s.timeBase := rfl
@[simp] theorem State.onStack_free (n : Nat) (f : Stack → Stack) : (s.onStack n f).free = s.free := rfl
@[simp] theorem State.onStack_pending (n : Nat) (f : Stack → Stack) : (s.onStack n f).pending = s.pending := rfl
@[simp] theorem State.onStack_view_thread (n : Nat) (f : Stack → Stack) (k : Nat) : (s.onStack n f).thread k = s.thread k := rfl
@[simp] theorem State.onStack_view_core (n : Nat) (f : Stack → Stack) (k : Nat) : (s.onStack n f).core k = s.core k := rfl
@[simp] theorem State.onStack_view_domain (n : Nat) (f : Stack → Stack) (k : Nat) : (s.onStack n f).domain k = s.domain k := rfl
@[simp] theorem State.onStack_view_clk (n : Nat) (f : Stack → Stack) (k : Nat) : (s.onStack n f).clk k = s.clk k := rfl
@[simp] theorem State.onStack_view_slot (n : Nat) (f : Stack → Stack) (k : Nat) : (s.onStack n f).slot k = s.slot k := rfl
@[simp] theorem State.onStack_view_port (n : Nat) (f : Stack → Stack) (k : Nat) : (s.onStack n f).port k = s.port k := rfl
@[simp] theorem State.onStack_view_fport (n : Nat) (f : Stack → Stack) (k : Nat) : (s.onStack n f).fport k = s.fport k := rfl
@[simp] theorem State.onStack_view_fab (n : Nat) (f : Stack → Stack) (k : Nat) : (s.onStack n f).fab k = s.fab k := rfl
@[simp] theorem State.onStack_view_line (n : Nat) (f : Stack → Stack) (k : Nat) : (s.onStack n f).line k = s.line k := rfl
@[simp] theorem State.onStack_view_domOf (n : Nat) (f : Stack → Stack) (k : Nat) : (s.onStack n f).domOf k = s.domOf k := rfl

/-! ### onVolume -/

@[simp] theorem State.onVolume_threads (v : Nat) (f : Volume → Volume) : (s.onVolume v f).threads = s.threads := rfl
@[simp] theorem State.onVolume_cores (v : Nat) (f : Volume → Volume) : (s.onVolume v f).cores = s.cores := rfl
@[simp] theorem State.onVolume_dram (v : Nat) (f : Volume → Volume) : (s.onVolume v f).dram = s.dram := rfl
@[simp] theorem State.onVolume_lines (v : Nat) (f : Volume → Volume) : (s.onVolume v f).lines = s.lines := rfl
@[simp] theorem State.onVolume_msgs (v : Nat) (f : Volume → Volume) : (s.onVolume v f).msgs = s.msgs := rfl
@[simp] theorem State.onVolume_stops (v : Nat) (f : Volume → Volume) : (s.onVolume v f).stops = s.stops := rfl
@[simp] theorem State.onVolume_agentWant (v : Nat) (f : Volume → Volume) : (s.onVolume v f).agentWant = s.agentWant := rfl
@[simp] theorem State.onVolume_missWait (v : Nat) (f : Volume → Volume) : (s.onVolume v f).missWait = s.missWait := rfl
@[simp] theorem State.onVolume_misses (v : Nat) (f : Volume → Volume) : (s.onVolume v f).misses = s.misses := rfl
@[simp] theorem State.onVolume_l3 (v : Nat) (f : Volume → Volume) : (s.onVolume v f).l3 = s.l3 := rfl
@[simp] theorem State.onVolume_dirUse (v : Nat) (f : Volume → Volume) : (s.onVolume v f).dirUse = s.dirUse := rfl
@[simp] theorem State.onVolume_seed (v : Nat) (f : Volume → Volume) : (s.onVolume v f).seed = s.seed := rfl
@[simp] theorem State.onVolume_domains (v : Nat) (f : Volume → Volume) : (s.onVolume v f).domains = s.domains := rfl
@[simp] theorem State.onVolume_tileDom (v : Nat) (f : Volume → Volume) : (s.onVolume v f).tileDom = s.tileDom := rfl
@[simp] theorem State.onVolume_fabric (v : Nat) (f : Volume → Volume) : (s.onVolume v f).fabric = s.fabric := rfl
@[simp] theorem State.onVolume_smc (v : Nat) (f : Volume → Volume) : (s.onVolume v f).smc = s.smc := rfl
@[simp] theorem State.onVolume_pins (v : Nat) (f : Volume → Volume) : (s.onVolume v f).pins = s.pins := rfl
@[simp] theorem State.onVolume_tap (v : Nat) (f : Volume → Volume) : (s.onVolume v f).tap = s.tap := rfl
@[simp] theorem State.onVolume_ddr (v : Nat) (f : Volume → Volume) : (s.onVolume v f).ddr = s.ddr := rfl
@[simp] theorem State.onVolume_ports (v : Nat) (f : Volume → Volume) : (s.onVolume v f).ports = s.ports := rfl
@[simp] theorem State.onVolume_timeBase (v : Nat) (f : Volume → Volume) : (s.onVolume v f).timeBase = s.timeBase := rfl
@[simp] theorem State.onVolume_free (v : Nat) (f : Volume → Volume) : (s.onVolume v f).free = s.free := rfl
@[simp] theorem State.onVolume_pending (v : Nat) (f : Volume → Volume) : (s.onVolume v f).pending = s.pending := rfl
@[simp] theorem State.onVolume_view_thread (v : Nat) (f : Volume → Volume) (k : Nat) : (s.onVolume v f).thread k = s.thread k := rfl
@[simp] theorem State.onVolume_view_core (v : Nat) (f : Volume → Volume) (k : Nat) : (s.onVolume v f).core k = s.core k := rfl
@[simp] theorem State.onVolume_view_domain (v : Nat) (f : Volume → Volume) (k : Nat) : (s.onVolume v f).domain k = s.domain k := rfl
@[simp] theorem State.onVolume_view_clk (v : Nat) (f : Volume → Volume) (k : Nat) : (s.onVolume v f).clk k = s.clk k := rfl
@[simp] theorem State.onVolume_view_slot (v : Nat) (f : Volume → Volume) (k : Nat) : (s.onVolume v f).slot k = s.slot k := rfl
@[simp] theorem State.onVolume_view_port (v : Nat) (f : Volume → Volume) (k : Nat) : (s.onVolume v f).port k = s.port k := rfl
@[simp] theorem State.onVolume_view_fport (v : Nat) (f : Volume → Volume) (k : Nat) : (s.onVolume v f).fport k = s.fport k := rfl
@[simp] theorem State.onVolume_view_fab (v : Nat) (f : Volume → Volume) (k : Nat) : (s.onVolume v f).fab k = s.fab k := rfl
@[simp] theorem State.onVolume_view_line (v : Nat) (f : Volume → Volume) (k : Nat) : (s.onVolume v f).line k = s.line k := rfl
@[simp] theorem State.onVolume_view_domOf (v : Nat) (f : Volume → Volume) (k : Nat) : (s.onVolume v f).domOf k = s.domOf k := rfl

/-! ### onClk -/

@[simp] theorem State.onClk_threads (n : Nat) (f : TileClk → TileClk) : (s.onClk n f).threads = s.threads := rfl
@[simp] theorem State.onClk_cores (n : Nat) (f : TileClk → TileClk) : (s.onClk n f).cores = s.cores := rfl
@[simp] theorem State.onClk_dram (n : Nat) (f : TileClk → TileClk) : (s.onClk n f).dram = s.dram := rfl
@[simp] theorem State.onClk_lines (n : Nat) (f : TileClk → TileClk) : (s.onClk n f).lines = s.lines := rfl
@[simp] theorem State.onClk_msgs (n : Nat) (f : TileClk → TileClk) : (s.onClk n f).msgs = s.msgs := rfl
@[simp] theorem State.onClk_stops (n : Nat) (f : TileClk → TileClk) : (s.onClk n f).stops = s.stops := rfl
@[simp] theorem State.onClk_agentWant (n : Nat) (f : TileClk → TileClk) : (s.onClk n f).agentWant = s.agentWant := rfl
@[simp] theorem State.onClk_missWait (n : Nat) (f : TileClk → TileClk) : (s.onClk n f).missWait = s.missWait := rfl
@[simp] theorem State.onClk_misses (n : Nat) (f : TileClk → TileClk) : (s.onClk n f).misses = s.misses := rfl
@[simp] theorem State.onClk_l3 (n : Nat) (f : TileClk → TileClk) : (s.onClk n f).l3 = s.l3 := rfl
@[simp] theorem State.onClk_dirUse (n : Nat) (f : TileClk → TileClk) : (s.onClk n f).dirUse = s.dirUse := rfl
@[simp] theorem State.onClk_loam (n : Nat) (f : TileClk → TileClk) : (s.onClk n f).loam = s.loam := rfl
@[simp] theorem State.onClk_seed (n : Nat) (f : TileClk → TileClk) : (s.onClk n f).seed = s.seed := rfl
@[simp] theorem State.onClk_domains (n : Nat) (f : TileClk → TileClk) : (s.onClk n f).domains = s.domains := rfl
@[simp] theorem State.onClk_tileDom (n : Nat) (f : TileClk → TileClk) : (s.onClk n f).tileDom = s.tileDom := rfl
@[simp] theorem State.onClk_fabric (n : Nat) (f : TileClk → TileClk) : (s.onClk n f).fabric = s.fabric := rfl
@[simp] theorem State.onClk_pins (n : Nat) (f : TileClk → TileClk) : (s.onClk n f).pins = s.pins := rfl
@[simp] theorem State.onClk_tap (n : Nat) (f : TileClk → TileClk) : (s.onClk n f).tap = s.tap := rfl
@[simp] theorem State.onClk_ddr (n : Nat) (f : TileClk → TileClk) : (s.onClk n f).ddr = s.ddr := rfl
@[simp] theorem State.onClk_ports (n : Nat) (f : TileClk → TileClk) : (s.onClk n f).ports = s.ports := rfl
@[simp] theorem State.onClk_timeBase (n : Nat) (f : TileClk → TileClk) : (s.onClk n f).timeBase = s.timeBase := rfl
@[simp] theorem State.onClk_free (n : Nat) (f : TileClk → TileClk) : (s.onClk n f).free = s.free := rfl
@[simp] theorem State.onClk_pending (n : Nat) (f : TileClk → TileClk) : (s.onClk n f).pending = s.pending := rfl
@[simp] theorem State.onClk_view_thread (n : Nat) (f : TileClk → TileClk) (k : Nat) : (s.onClk n f).thread k = s.thread k := rfl
@[simp] theorem State.onClk_view_core (n : Nat) (f : TileClk → TileClk) (k : Nat) : (s.onClk n f).core k = s.core k := rfl
@[simp] theorem State.onClk_view_domain (n : Nat) (f : TileClk → TileClk) (k : Nat) : (s.onClk n f).domain k = s.domain k := rfl
@[simp] theorem State.onClk_view_stack (n : Nat) (f : TileClk → TileClk) (k : Nat) : (s.onClk n f).stack k = s.stack k := rfl
@[simp] theorem State.onClk_view_volume (n : Nat) (f : TileClk → TileClk) (k : Nat) : (s.onClk n f).volume k = s.volume k := rfl
@[simp] theorem State.onClk_view_port (n : Nat) (f : TileClk → TileClk) (k : Nat) : (s.onClk n f).port k = s.port k := rfl
@[simp] theorem State.onClk_view_fport (n : Nat) (f : TileClk → TileClk) (k : Nat) : (s.onClk n f).fport k = s.fport k := rfl
@[simp] theorem State.onClk_view_fab (n : Nat) (f : TileClk → TileClk) (k : Nat) : (s.onClk n f).fab k = s.fab k := rfl
@[simp] theorem State.onClk_view_line (n : Nat) (f : TileClk → TileClk) (k : Nat) : (s.onClk n f).line k = s.line k := rfl
@[simp] theorem State.onClk_view_domOf (n : Nat) (f : TileClk → TileClk) (k : Nat) : (s.onClk n f).domOf k = s.domOf k := rfl

/-! ### onSlot -/

@[simp] theorem State.onSlot_threads (n : Nat) (f : MbSlot → MbSlot) : (s.onSlot n f).threads = s.threads := rfl
@[simp] theorem State.onSlot_cores (n : Nat) (f : MbSlot → MbSlot) : (s.onSlot n f).cores = s.cores := rfl
@[simp] theorem State.onSlot_dram (n : Nat) (f : MbSlot → MbSlot) : (s.onSlot n f).dram = s.dram := rfl
@[simp] theorem State.onSlot_lines (n : Nat) (f : MbSlot → MbSlot) : (s.onSlot n f).lines = s.lines := rfl
@[simp] theorem State.onSlot_msgs (n : Nat) (f : MbSlot → MbSlot) : (s.onSlot n f).msgs = s.msgs := rfl
@[simp] theorem State.onSlot_stops (n : Nat) (f : MbSlot → MbSlot) : (s.onSlot n f).stops = s.stops := rfl
@[simp] theorem State.onSlot_agentWant (n : Nat) (f : MbSlot → MbSlot) : (s.onSlot n f).agentWant = s.agentWant := rfl
@[simp] theorem State.onSlot_missWait (n : Nat) (f : MbSlot → MbSlot) : (s.onSlot n f).missWait = s.missWait := rfl
@[simp] theorem State.onSlot_misses (n : Nat) (f : MbSlot → MbSlot) : (s.onSlot n f).misses = s.misses := rfl
@[simp] theorem State.onSlot_l3 (n : Nat) (f : MbSlot → MbSlot) : (s.onSlot n f).l3 = s.l3 := rfl
@[simp] theorem State.onSlot_dirUse (n : Nat) (f : MbSlot → MbSlot) : (s.onSlot n f).dirUse = s.dirUse := rfl
@[simp] theorem State.onSlot_loam (n : Nat) (f : MbSlot → MbSlot) : (s.onSlot n f).loam = s.loam := rfl
@[simp] theorem State.onSlot_seed (n : Nat) (f : MbSlot → MbSlot) : (s.onSlot n f).seed = s.seed := rfl
@[simp] theorem State.onSlot_domains (n : Nat) (f : MbSlot → MbSlot) : (s.onSlot n f).domains = s.domains := rfl
@[simp] theorem State.onSlot_tileDom (n : Nat) (f : MbSlot → MbSlot) : (s.onSlot n f).tileDom = s.tileDom := rfl
@[simp] theorem State.onSlot_fabric (n : Nat) (f : MbSlot → MbSlot) : (s.onSlot n f).fabric = s.fabric := rfl
@[simp] theorem State.onSlot_pins (n : Nat) (f : MbSlot → MbSlot) : (s.onSlot n f).pins = s.pins := rfl
@[simp] theorem State.onSlot_tap (n : Nat) (f : MbSlot → MbSlot) : (s.onSlot n f).tap = s.tap := rfl
@[simp] theorem State.onSlot_ddr (n : Nat) (f : MbSlot → MbSlot) : (s.onSlot n f).ddr = s.ddr := rfl
@[simp] theorem State.onSlot_ports (n : Nat) (f : MbSlot → MbSlot) : (s.onSlot n f).ports = s.ports := rfl
@[simp] theorem State.onSlot_timeBase (n : Nat) (f : MbSlot → MbSlot) : (s.onSlot n f).timeBase = s.timeBase := rfl
@[simp] theorem State.onSlot_free (n : Nat) (f : MbSlot → MbSlot) : (s.onSlot n f).free = s.free := rfl
@[simp] theorem State.onSlot_pending (n : Nat) (f : MbSlot → MbSlot) : (s.onSlot n f).pending = s.pending := rfl
@[simp] theorem State.onSlot_view_thread (n : Nat) (f : MbSlot → MbSlot) (k : Nat) : (s.onSlot n f).thread k = s.thread k := rfl
@[simp] theorem State.onSlot_view_core (n : Nat) (f : MbSlot → MbSlot) (k : Nat) : (s.onSlot n f).core k = s.core k := rfl
@[simp] theorem State.onSlot_view_domain (n : Nat) (f : MbSlot → MbSlot) (k : Nat) : (s.onSlot n f).domain k = s.domain k := rfl
@[simp] theorem State.onSlot_view_stack (n : Nat) (f : MbSlot → MbSlot) (k : Nat) : (s.onSlot n f).stack k = s.stack k := rfl
@[simp] theorem State.onSlot_view_volume (n : Nat) (f : MbSlot → MbSlot) (k : Nat) : (s.onSlot n f).volume k = s.volume k := rfl
@[simp] theorem State.onSlot_view_port (n : Nat) (f : MbSlot → MbSlot) (k : Nat) : (s.onSlot n f).port k = s.port k := rfl
@[simp] theorem State.onSlot_view_fport (n : Nat) (f : MbSlot → MbSlot) (k : Nat) : (s.onSlot n f).fport k = s.fport k := rfl
@[simp] theorem State.onSlot_view_fab (n : Nat) (f : MbSlot → MbSlot) (k : Nat) : (s.onSlot n f).fab k = s.fab k := rfl
@[simp] theorem State.onSlot_view_line (n : Nat) (f : MbSlot → MbSlot) (k : Nat) : (s.onSlot n f).line k = s.line k := rfl
@[simp] theorem State.onSlot_view_domOf (n : Nat) (f : MbSlot → MbSlot) (k : Nat) : (s.onSlot n f).domOf k = s.domOf k := rfl

/-! ### onPort -/

@[simp] theorem State.onPort_threads (p : Nat) (f : RootPort → RootPort) : (s.onPort p f).threads = s.threads := rfl
@[simp] theorem State.onPort_cores (p : Nat) (f : RootPort → RootPort) : (s.onPort p f).cores = s.cores := rfl
@[simp] theorem State.onPort_dram (p : Nat) (f : RootPort → RootPort) : (s.onPort p f).dram = s.dram := rfl
@[simp] theorem State.onPort_lines (p : Nat) (f : RootPort → RootPort) : (s.onPort p f).lines = s.lines := rfl
@[simp] theorem State.onPort_msgs (p : Nat) (f : RootPort → RootPort) : (s.onPort p f).msgs = s.msgs := rfl
@[simp] theorem State.onPort_stops (p : Nat) (f : RootPort → RootPort) : (s.onPort p f).stops = s.stops := rfl
@[simp] theorem State.onPort_agentWant (p : Nat) (f : RootPort → RootPort) : (s.onPort p f).agentWant = s.agentWant := rfl
@[simp] theorem State.onPort_missWait (p : Nat) (f : RootPort → RootPort) : (s.onPort p f).missWait = s.missWait := rfl
@[simp] theorem State.onPort_misses (p : Nat) (f : RootPort → RootPort) : (s.onPort p f).misses = s.misses := rfl
@[simp] theorem State.onPort_l3 (p : Nat) (f : RootPort → RootPort) : (s.onPort p f).l3 = s.l3 := rfl
@[simp] theorem State.onPort_dirUse (p : Nat) (f : RootPort → RootPort) : (s.onPort p f).dirUse = s.dirUse := rfl
@[simp] theorem State.onPort_loam (p : Nat) (f : RootPort → RootPort) : (s.onPort p f).loam = s.loam := rfl
@[simp] theorem State.onPort_seed (p : Nat) (f : RootPort → RootPort) : (s.onPort p f).seed = s.seed := rfl
@[simp] theorem State.onPort_domains (p : Nat) (f : RootPort → RootPort) : (s.onPort p f).domains = s.domains := rfl
@[simp] theorem State.onPort_tileDom (p : Nat) (f : RootPort → RootPort) : (s.onPort p f).tileDom = s.tileDom := rfl
@[simp] theorem State.onPort_fabric (p : Nat) (f : RootPort → RootPort) : (s.onPort p f).fabric = s.fabric := rfl
@[simp] theorem State.onPort_smc (p : Nat) (f : RootPort → RootPort) : (s.onPort p f).smc = s.smc := rfl
@[simp] theorem State.onPort_pins (p : Nat) (f : RootPort → RootPort) : (s.onPort p f).pins = s.pins := rfl
@[simp] theorem State.onPort_tap (p : Nat) (f : RootPort → RootPort) : (s.onPort p f).tap = s.tap := rfl
@[simp] theorem State.onPort_ddr (p : Nat) (f : RootPort → RootPort) : (s.onPort p f).ddr = s.ddr := rfl
@[simp] theorem State.onPort_timeBase (p : Nat) (f : RootPort → RootPort) : (s.onPort p f).timeBase = s.timeBase := rfl
@[simp] theorem State.onPort_free (p : Nat) (f : RootPort → RootPort) : (s.onPort p f).free = s.free := rfl
@[simp] theorem State.onPort_pending (p : Nat) (f : RootPort → RootPort) : (s.onPort p f).pending = s.pending := rfl
@[simp] theorem State.onPort_view_thread (p : Nat) (f : RootPort → RootPort) (k : Nat) : (s.onPort p f).thread k = s.thread k := rfl
@[simp] theorem State.onPort_view_core (p : Nat) (f : RootPort → RootPort) (k : Nat) : (s.onPort p f).core k = s.core k := rfl
@[simp] theorem State.onPort_view_domain (p : Nat) (f : RootPort → RootPort) (k : Nat) : (s.onPort p f).domain k = s.domain k := rfl
@[simp] theorem State.onPort_view_stack (p : Nat) (f : RootPort → RootPort) (k : Nat) : (s.onPort p f).stack k = s.stack k := rfl
@[simp] theorem State.onPort_view_volume (p : Nat) (f : RootPort → RootPort) (k : Nat) : (s.onPort p f).volume k = s.volume k := rfl
@[simp] theorem State.onPort_view_clk (p : Nat) (f : RootPort → RootPort) (k : Nat) : (s.onPort p f).clk k = s.clk k := rfl
@[simp] theorem State.onPort_view_slot (p : Nat) (f : RootPort → RootPort) (k : Nat) : (s.onPort p f).slot k = s.slot k := rfl
@[simp] theorem State.onPort_view_fport (p : Nat) (f : RootPort → RootPort) (k : Nat) : (s.onPort p f).fport k = s.fport k := rfl
@[simp] theorem State.onPort_view_fab (p : Nat) (f : RootPort → RootPort) (k : Nat) : (s.onPort p f).fab k = s.fab k := rfl
@[simp] theorem State.onPort_view_line (p : Nat) (f : RootPort → RootPort) (k : Nat) : (s.onPort p f).line k = s.line k := rfl
@[simp] theorem State.onPort_view_domOf (p : Nat) (f : RootPort → RootPort) (k : Nat) : (s.onPort p f).domOf k = s.domOf k := rfl

/-! ### onFport -/

@[simp] theorem State.onFport_threads (p : Nat) (f : FPort → FPort) : (s.onFport p f).threads = s.threads := rfl
@[simp] theorem State.onFport_cores (p : Nat) (f : FPort → FPort) : (s.onFport p f).cores = s.cores := rfl
@[simp] theorem State.onFport_dram (p : Nat) (f : FPort → FPort) : (s.onFport p f).dram = s.dram := rfl
@[simp] theorem State.onFport_lines (p : Nat) (f : FPort → FPort) : (s.onFport p f).lines = s.lines := rfl
@[simp] theorem State.onFport_msgs (p : Nat) (f : FPort → FPort) : (s.onFport p f).msgs = s.msgs := rfl
@[simp] theorem State.onFport_stops (p : Nat) (f : FPort → FPort) : (s.onFport p f).stops = s.stops := rfl
@[simp] theorem State.onFport_agentWant (p : Nat) (f : FPort → FPort) : (s.onFport p f).agentWant = s.agentWant := rfl
@[simp] theorem State.onFport_missWait (p : Nat) (f : FPort → FPort) : (s.onFport p f).missWait = s.missWait := rfl
@[simp] theorem State.onFport_misses (p : Nat) (f : FPort → FPort) : (s.onFport p f).misses = s.misses := rfl
@[simp] theorem State.onFport_l3 (p : Nat) (f : FPort → FPort) : (s.onFport p f).l3 = s.l3 := rfl
@[simp] theorem State.onFport_dirUse (p : Nat) (f : FPort → FPort) : (s.onFport p f).dirUse = s.dirUse := rfl
@[simp] theorem State.onFport_loam (p : Nat) (f : FPort → FPort) : (s.onFport p f).loam = s.loam := rfl
@[simp] theorem State.onFport_seed (p : Nat) (f : FPort → FPort) : (s.onFport p f).seed = s.seed := rfl
@[simp] theorem State.onFport_domains (p : Nat) (f : FPort → FPort) : (s.onFport p f).domains = s.domains := rfl
@[simp] theorem State.onFport_tileDom (p : Nat) (f : FPort → FPort) : (s.onFport p f).tileDom = s.tileDom := rfl
@[simp] theorem State.onFport_smc (p : Nat) (f : FPort → FPort) : (s.onFport p f).smc = s.smc := rfl
@[simp] theorem State.onFport_pins (p : Nat) (f : FPort → FPort) : (s.onFport p f).pins = s.pins := rfl
@[simp] theorem State.onFport_tap (p : Nat) (f : FPort → FPort) : (s.onFport p f).tap = s.tap := rfl
@[simp] theorem State.onFport_ddr (p : Nat) (f : FPort → FPort) : (s.onFport p f).ddr = s.ddr := rfl
@[simp] theorem State.onFport_ports (p : Nat) (f : FPort → FPort) : (s.onFport p f).ports = s.ports := rfl
@[simp] theorem State.onFport_timeBase (p : Nat) (f : FPort → FPort) : (s.onFport p f).timeBase = s.timeBase := rfl
@[simp] theorem State.onFport_free (p : Nat) (f : FPort → FPort) : (s.onFport p f).free = s.free := rfl
@[simp] theorem State.onFport_pending (p : Nat) (f : FPort → FPort) : (s.onFport p f).pending = s.pending := rfl
@[simp] theorem State.onFport_view_thread (p : Nat) (f : FPort → FPort) (k : Nat) : (s.onFport p f).thread k = s.thread k := rfl
@[simp] theorem State.onFport_view_core (p : Nat) (f : FPort → FPort) (k : Nat) : (s.onFport p f).core k = s.core k := rfl
@[simp] theorem State.onFport_view_domain (p : Nat) (f : FPort → FPort) (k : Nat) : (s.onFport p f).domain k = s.domain k := rfl
@[simp] theorem State.onFport_view_stack (p : Nat) (f : FPort → FPort) (k : Nat) : (s.onFport p f).stack k = s.stack k := rfl
@[simp] theorem State.onFport_view_volume (p : Nat) (f : FPort → FPort) (k : Nat) : (s.onFport p f).volume k = s.volume k := rfl
@[simp] theorem State.onFport_view_clk (p : Nat) (f : FPort → FPort) (k : Nat) : (s.onFport p f).clk k = s.clk k := rfl
@[simp] theorem State.onFport_view_slot (p : Nat) (f : FPort → FPort) (k : Nat) : (s.onFport p f).slot k = s.slot k := rfl
@[simp] theorem State.onFport_view_port (p : Nat) (f : FPort → FPort) (k : Nat) : (s.onFport p f).port k = s.port k := rfl
@[simp] theorem State.onFport_view_line (p : Nat) (f : FPort → FPort) (k : Nat) : (s.onFport p f).line k = s.line k := rfl
@[simp] theorem State.onFport_view_domOf (p : Nat) (f : FPort → FPort) (k : Nat) : (s.onFport p f).domOf k = s.domOf k := rfl

/-! ### onFab -/

@[simp] theorem State.onFab_threads (g : Nat) (f : FabThread → FabThread) : (s.onFab g f).threads = s.threads := rfl
@[simp] theorem State.onFab_cores (g : Nat) (f : FabThread → FabThread) : (s.onFab g f).cores = s.cores := rfl
@[simp] theorem State.onFab_dram (g : Nat) (f : FabThread → FabThread) : (s.onFab g f).dram = s.dram := rfl
@[simp] theorem State.onFab_lines (g : Nat) (f : FabThread → FabThread) : (s.onFab g f).lines = s.lines := rfl
@[simp] theorem State.onFab_msgs (g : Nat) (f : FabThread → FabThread) : (s.onFab g f).msgs = s.msgs := rfl
@[simp] theorem State.onFab_stops (g : Nat) (f : FabThread → FabThread) : (s.onFab g f).stops = s.stops := rfl
@[simp] theorem State.onFab_agentWant (g : Nat) (f : FabThread → FabThread) : (s.onFab g f).agentWant = s.agentWant := rfl
@[simp] theorem State.onFab_missWait (g : Nat) (f : FabThread → FabThread) : (s.onFab g f).missWait = s.missWait := rfl
@[simp] theorem State.onFab_misses (g : Nat) (f : FabThread → FabThread) : (s.onFab g f).misses = s.misses := rfl
@[simp] theorem State.onFab_l3 (g : Nat) (f : FabThread → FabThread) : (s.onFab g f).l3 = s.l3 := rfl
@[simp] theorem State.onFab_dirUse (g : Nat) (f : FabThread → FabThread) : (s.onFab g f).dirUse = s.dirUse := rfl
@[simp] theorem State.onFab_loam (g : Nat) (f : FabThread → FabThread) : (s.onFab g f).loam = s.loam := rfl
@[simp] theorem State.onFab_seed (g : Nat) (f : FabThread → FabThread) : (s.onFab g f).seed = s.seed := rfl
@[simp] theorem State.onFab_domains (g : Nat) (f : FabThread → FabThread) : (s.onFab g f).domains = s.domains := rfl
@[simp] theorem State.onFab_tileDom (g : Nat) (f : FabThread → FabThread) : (s.onFab g f).tileDom = s.tileDom := rfl
@[simp] theorem State.onFab_smc (g : Nat) (f : FabThread → FabThread) : (s.onFab g f).smc = s.smc := rfl
@[simp] theorem State.onFab_pins (g : Nat) (f : FabThread → FabThread) : (s.onFab g f).pins = s.pins := rfl
@[simp] theorem State.onFab_tap (g : Nat) (f : FabThread → FabThread) : (s.onFab g f).tap = s.tap := rfl
@[simp] theorem State.onFab_ddr (g : Nat) (f : FabThread → FabThread) : (s.onFab g f).ddr = s.ddr := rfl
@[simp] theorem State.onFab_ports (g : Nat) (f : FabThread → FabThread) : (s.onFab g f).ports = s.ports := rfl
@[simp] theorem State.onFab_timeBase (g : Nat) (f : FabThread → FabThread) : (s.onFab g f).timeBase = s.timeBase := rfl
@[simp] theorem State.onFab_free (g : Nat) (f : FabThread → FabThread) : (s.onFab g f).free = s.free := rfl
@[simp] theorem State.onFab_pending (g : Nat) (f : FabThread → FabThread) : (s.onFab g f).pending = s.pending := rfl
@[simp] theorem State.onFab_view_thread (g : Nat) (f : FabThread → FabThread) (k : Nat) : (s.onFab g f).thread k = s.thread k := rfl
@[simp] theorem State.onFab_view_core (g : Nat) (f : FabThread → FabThread) (k : Nat) : (s.onFab g f).core k = s.core k := rfl
@[simp] theorem State.onFab_view_domain (g : Nat) (f : FabThread → FabThread) (k : Nat) : (s.onFab g f).domain k = s.domain k := rfl
@[simp] theorem State.onFab_view_stack (g : Nat) (f : FabThread → FabThread) (k : Nat) : (s.onFab g f).stack k = s.stack k := rfl
@[simp] theorem State.onFab_view_volume (g : Nat) (f : FabThread → FabThread) (k : Nat) : (s.onFab g f).volume k = s.volume k := rfl
@[simp] theorem State.onFab_view_clk (g : Nat) (f : FabThread → FabThread) (k : Nat) : (s.onFab g f).clk k = s.clk k := rfl
@[simp] theorem State.onFab_view_slot (g : Nat) (f : FabThread → FabThread) (k : Nat) : (s.onFab g f).slot k = s.slot k := rfl
@[simp] theorem State.onFab_view_port (g : Nat) (f : FabThread → FabThread) (k : Nat) : (s.onFab g f).port k = s.port k := rfl
@[simp] theorem State.onFab_view_line (g : Nat) (f : FabThread → FabThread) (k : Nat) : (s.onFab g f).line k = s.line k := rfl
@[simp] theorem State.onFab_view_domOf (g : Nat) (f : FabThread → FabThread) (k : Nat) : (s.onFab g f).domOf k = s.domOf k := rfl

/-! ### onFabric -/

@[simp] theorem State.onFabric_threads (f : Fabric → Fabric) : (s.onFabric f).threads = s.threads := rfl
@[simp] theorem State.onFabric_cores (f : Fabric → Fabric) : (s.onFabric f).cores = s.cores := rfl
@[simp] theorem State.onFabric_dram (f : Fabric → Fabric) : (s.onFabric f).dram = s.dram := rfl
@[simp] theorem State.onFabric_lines (f : Fabric → Fabric) : (s.onFabric f).lines = s.lines := rfl
@[simp] theorem State.onFabric_msgs (f : Fabric → Fabric) : (s.onFabric f).msgs = s.msgs := rfl
@[simp] theorem State.onFabric_stops (f : Fabric → Fabric) : (s.onFabric f).stops = s.stops := rfl
@[simp] theorem State.onFabric_agentWant (f : Fabric → Fabric) : (s.onFabric f).agentWant = s.agentWant := rfl
@[simp] theorem State.onFabric_missWait (f : Fabric → Fabric) : (s.onFabric f).missWait = s.missWait := rfl
@[simp] theorem State.onFabric_misses (f : Fabric → Fabric) : (s.onFabric f).misses = s.misses := rfl
@[simp] theorem State.onFabric_l3 (f : Fabric → Fabric) : (s.onFabric f).l3 = s.l3 := rfl
@[simp] theorem State.onFabric_dirUse (f : Fabric → Fabric) : (s.onFabric f).dirUse = s.dirUse := rfl
@[simp] theorem State.onFabric_loam (f : Fabric → Fabric) : (s.onFabric f).loam = s.loam := rfl
@[simp] theorem State.onFabric_seed (f : Fabric → Fabric) : (s.onFabric f).seed = s.seed := rfl
@[simp] theorem State.onFabric_domains (f : Fabric → Fabric) : (s.onFabric f).domains = s.domains := rfl
@[simp] theorem State.onFabric_tileDom (f : Fabric → Fabric) : (s.onFabric f).tileDom = s.tileDom := rfl
@[simp] theorem State.onFabric_smc (f : Fabric → Fabric) : (s.onFabric f).smc = s.smc := rfl
@[simp] theorem State.onFabric_pins (f : Fabric → Fabric) : (s.onFabric f).pins = s.pins := rfl
@[simp] theorem State.onFabric_tap (f : Fabric → Fabric) : (s.onFabric f).tap = s.tap := rfl
@[simp] theorem State.onFabric_ddr (f : Fabric → Fabric) : (s.onFabric f).ddr = s.ddr := rfl
@[simp] theorem State.onFabric_ports (f : Fabric → Fabric) : (s.onFabric f).ports = s.ports := rfl
@[simp] theorem State.onFabric_timeBase (f : Fabric → Fabric) : (s.onFabric f).timeBase = s.timeBase := rfl
@[simp] theorem State.onFabric_free (f : Fabric → Fabric) : (s.onFabric f).free = s.free := rfl
@[simp] theorem State.onFabric_pending (f : Fabric → Fabric) : (s.onFabric f).pending = s.pending := rfl
@[simp] theorem State.onFabric_view_thread (f : Fabric → Fabric) (k : Nat) : (s.onFabric f).thread k = s.thread k := rfl
@[simp] theorem State.onFabric_view_core (f : Fabric → Fabric) (k : Nat) : (s.onFabric f).core k = s.core k := rfl
@[simp] theorem State.onFabric_view_domain (f : Fabric → Fabric) (k : Nat) : (s.onFabric f).domain k = s.domain k := rfl
@[simp] theorem State.onFabric_view_stack (f : Fabric → Fabric) (k : Nat) : (s.onFabric f).stack k = s.stack k := rfl
@[simp] theorem State.onFabric_view_volume (f : Fabric → Fabric) (k : Nat) : (s.onFabric f).volume k = s.volume k := rfl
@[simp] theorem State.onFabric_view_clk (f : Fabric → Fabric) (k : Nat) : (s.onFabric f).clk k = s.clk k := rfl
@[simp] theorem State.onFabric_view_slot (f : Fabric → Fabric) (k : Nat) : (s.onFabric f).slot k = s.slot k := rfl
@[simp] theorem State.onFabric_view_port (f : Fabric → Fabric) (k : Nat) : (s.onFabric f).port k = s.port k := rfl
@[simp] theorem State.onFabric_view_line (f : Fabric → Fabric) (k : Nat) : (s.onFabric f).line k = s.line k := rfl
@[simp] theorem State.onFabric_view_domOf (f : Fabric → Fabric) (k : Nat) : (s.onFabric f).domOf k = s.domOf k := rfl

/-! ### onLine -/

@[simp] theorem State.onLine_threads (l : Nat) (f : HomeLine → HomeLine) : (s.onLine l f).threads = s.threads := rfl
@[simp] theorem State.onLine_cores (l : Nat) (f : HomeLine → HomeLine) : (s.onLine l f).cores = s.cores := rfl
@[simp] theorem State.onLine_dram (l : Nat) (f : HomeLine → HomeLine) : (s.onLine l f).dram = s.dram := rfl
@[simp] theorem State.onLine_msgs (l : Nat) (f : HomeLine → HomeLine) : (s.onLine l f).msgs = s.msgs := rfl
@[simp] theorem State.onLine_stops (l : Nat) (f : HomeLine → HomeLine) : (s.onLine l f).stops = s.stops := rfl
@[simp] theorem State.onLine_agentWant (l : Nat) (f : HomeLine → HomeLine) : (s.onLine l f).agentWant = s.agentWant := rfl
@[simp] theorem State.onLine_missWait (l : Nat) (f : HomeLine → HomeLine) : (s.onLine l f).missWait = s.missWait := rfl
@[simp] theorem State.onLine_misses (l : Nat) (f : HomeLine → HomeLine) : (s.onLine l f).misses = s.misses := rfl
@[simp] theorem State.onLine_l3 (l : Nat) (f : HomeLine → HomeLine) : (s.onLine l f).l3 = s.l3 := rfl
@[simp] theorem State.onLine_dirUse (l : Nat) (f : HomeLine → HomeLine) : (s.onLine l f).dirUse = s.dirUse := rfl
@[simp] theorem State.onLine_loam (l : Nat) (f : HomeLine → HomeLine) : (s.onLine l f).loam = s.loam := rfl
@[simp] theorem State.onLine_seed (l : Nat) (f : HomeLine → HomeLine) : (s.onLine l f).seed = s.seed := rfl
@[simp] theorem State.onLine_domains (l : Nat) (f : HomeLine → HomeLine) : (s.onLine l f).domains = s.domains := rfl
@[simp] theorem State.onLine_tileDom (l : Nat) (f : HomeLine → HomeLine) : (s.onLine l f).tileDom = s.tileDom := rfl
@[simp] theorem State.onLine_fabric (l : Nat) (f : HomeLine → HomeLine) : (s.onLine l f).fabric = s.fabric := rfl
@[simp] theorem State.onLine_smc (l : Nat) (f : HomeLine → HomeLine) : (s.onLine l f).smc = s.smc := rfl
@[simp] theorem State.onLine_pins (l : Nat) (f : HomeLine → HomeLine) : (s.onLine l f).pins = s.pins := rfl
@[simp] theorem State.onLine_tap (l : Nat) (f : HomeLine → HomeLine) : (s.onLine l f).tap = s.tap := rfl
@[simp] theorem State.onLine_ddr (l : Nat) (f : HomeLine → HomeLine) : (s.onLine l f).ddr = s.ddr := rfl
@[simp] theorem State.onLine_ports (l : Nat) (f : HomeLine → HomeLine) : (s.onLine l f).ports = s.ports := rfl
@[simp] theorem State.onLine_timeBase (l : Nat) (f : HomeLine → HomeLine) : (s.onLine l f).timeBase = s.timeBase := rfl
@[simp] theorem State.onLine_free (l : Nat) (f : HomeLine → HomeLine) : (s.onLine l f).free = s.free := rfl
@[simp] theorem State.onLine_pending (l : Nat) (f : HomeLine → HomeLine) : (s.onLine l f).pending = s.pending := rfl
@[simp] theorem State.onLine_view_thread (l : Nat) (f : HomeLine → HomeLine) (k : Nat) : (s.onLine l f).thread k = s.thread k := rfl
@[simp] theorem State.onLine_view_core (l : Nat) (f : HomeLine → HomeLine) (k : Nat) : (s.onLine l f).core k = s.core k := rfl
@[simp] theorem State.onLine_view_domain (l : Nat) (f : HomeLine → HomeLine) (k : Nat) : (s.onLine l f).domain k = s.domain k := rfl
@[simp] theorem State.onLine_view_stack (l : Nat) (f : HomeLine → HomeLine) (k : Nat) : (s.onLine l f).stack k = s.stack k := rfl
@[simp] theorem State.onLine_view_volume (l : Nat) (f : HomeLine → HomeLine) (k : Nat) : (s.onLine l f).volume k = s.volume k := rfl
@[simp] theorem State.onLine_view_clk (l : Nat) (f : HomeLine → HomeLine) (k : Nat) : (s.onLine l f).clk k = s.clk k := rfl
@[simp] theorem State.onLine_view_slot (l : Nat) (f : HomeLine → HomeLine) (k : Nat) : (s.onLine l f).slot k = s.slot k := rfl
@[simp] theorem State.onLine_view_port (l : Nat) (f : HomeLine → HomeLine) (k : Nat) : (s.onLine l f).port k = s.port k := rfl
@[simp] theorem State.onLine_view_fport (l : Nat) (f : HomeLine → HomeLine) (k : Nat) : (s.onLine l f).fport k = s.fport k := rfl
@[simp] theorem State.onLine_view_fab (l : Nat) (f : HomeLine → HomeLine) (k : Nat) : (s.onLine l f).fab k = s.fab k := rfl
@[simp] theorem State.onLine_view_domOf (l : Nat) (f : HomeLine → HomeLine) (k : Nat) : (s.onLine l f).domOf k = s.domOf k := rfl

/-! ### onSeed -/

@[simp] theorem State.onSeed_threads (f : Seedbank → Seedbank) : (s.onSeed f).threads = s.threads := rfl
@[simp] theorem State.onSeed_cores (f : Seedbank → Seedbank) : (s.onSeed f).cores = s.cores := rfl
@[simp] theorem State.onSeed_dram (f : Seedbank → Seedbank) : (s.onSeed f).dram = s.dram := rfl
@[simp] theorem State.onSeed_lines (f : Seedbank → Seedbank) : (s.onSeed f).lines = s.lines := rfl
@[simp] theorem State.onSeed_msgs (f : Seedbank → Seedbank) : (s.onSeed f).msgs = s.msgs := rfl
@[simp] theorem State.onSeed_stops (f : Seedbank → Seedbank) : (s.onSeed f).stops = s.stops := rfl
@[simp] theorem State.onSeed_agentWant (f : Seedbank → Seedbank) : (s.onSeed f).agentWant = s.agentWant := rfl
@[simp] theorem State.onSeed_missWait (f : Seedbank → Seedbank) : (s.onSeed f).missWait = s.missWait := rfl
@[simp] theorem State.onSeed_misses (f : Seedbank → Seedbank) : (s.onSeed f).misses = s.misses := rfl
@[simp] theorem State.onSeed_l3 (f : Seedbank → Seedbank) : (s.onSeed f).l3 = s.l3 := rfl
@[simp] theorem State.onSeed_dirUse (f : Seedbank → Seedbank) : (s.onSeed f).dirUse = s.dirUse := rfl
@[simp] theorem State.onSeed_loam (f : Seedbank → Seedbank) : (s.onSeed f).loam = s.loam := rfl
@[simp] theorem State.onSeed_domains (f : Seedbank → Seedbank) : (s.onSeed f).domains = s.domains := rfl
@[simp] theorem State.onSeed_tileDom (f : Seedbank → Seedbank) : (s.onSeed f).tileDom = s.tileDom := rfl
@[simp] theorem State.onSeed_fabric (f : Seedbank → Seedbank) : (s.onSeed f).fabric = s.fabric := rfl
@[simp] theorem State.onSeed_smc (f : Seedbank → Seedbank) : (s.onSeed f).smc = s.smc := rfl
@[simp] theorem State.onSeed_pins (f : Seedbank → Seedbank) : (s.onSeed f).pins = s.pins := rfl
@[simp] theorem State.onSeed_tap (f : Seedbank → Seedbank) : (s.onSeed f).tap = s.tap := rfl
@[simp] theorem State.onSeed_ddr (f : Seedbank → Seedbank) : (s.onSeed f).ddr = s.ddr := rfl
@[simp] theorem State.onSeed_ports (f : Seedbank → Seedbank) : (s.onSeed f).ports = s.ports := rfl
@[simp] theorem State.onSeed_timeBase (f : Seedbank → Seedbank) : (s.onSeed f).timeBase = s.timeBase := rfl
@[simp] theorem State.onSeed_free (f : Seedbank → Seedbank) : (s.onSeed f).free = s.free := rfl
@[simp] theorem State.onSeed_pending (f : Seedbank → Seedbank) : (s.onSeed f).pending = s.pending := rfl
@[simp] theorem State.onSeed_view_thread (f : Seedbank → Seedbank) (k : Nat) : (s.onSeed f).thread k = s.thread k := rfl
@[simp] theorem State.onSeed_view_core (f : Seedbank → Seedbank) (k : Nat) : (s.onSeed f).core k = s.core k := rfl
@[simp] theorem State.onSeed_view_domain (f : Seedbank → Seedbank) (k : Nat) : (s.onSeed f).domain k = s.domain k := rfl
@[simp] theorem State.onSeed_view_stack (f : Seedbank → Seedbank) (k : Nat) : (s.onSeed f).stack k = s.stack k := rfl
@[simp] theorem State.onSeed_view_volume (f : Seedbank → Seedbank) (k : Nat) : (s.onSeed f).volume k = s.volume k := rfl
@[simp] theorem State.onSeed_view_clk (f : Seedbank → Seedbank) (k : Nat) : (s.onSeed f).clk k = s.clk k := rfl
@[simp] theorem State.onSeed_view_slot (f : Seedbank → Seedbank) (k : Nat) : (s.onSeed f).slot k = s.slot k := rfl
@[simp] theorem State.onSeed_view_port (f : Seedbank → Seedbank) (k : Nat) : (s.onSeed f).port k = s.port k := rfl
@[simp] theorem State.onSeed_view_fport (f : Seedbank → Seedbank) (k : Nat) : (s.onSeed f).fport k = s.fport k := rfl
@[simp] theorem State.onSeed_view_fab (f : Seedbank → Seedbank) (k : Nat) : (s.onSeed f).fab k = s.fab k := rfl
@[simp] theorem State.onSeed_view_line (f : Seedbank → Seedbank) (k : Nat) : (s.onSeed f).line k = s.line k := rfl
@[simp] theorem State.onSeed_view_domOf (f : Seedbank → Seedbank) (k : Nat) : (s.onSeed f).domOf k = s.domOf k := rfl

/-! ### Reading back -/

theorem State.core_setCore (c k : Nat) (x : Core) : (s.setCore c x).core k = if c = k then x else s.core k :=
  FMap.get_put _ _ _ _ _
theorem State.domain_setDomain (c k : Nat) (x : Domain) : (s.setDomain c x).domain k = if c = k then x else s.domain k :=
  FMap.get_put _ _ _ _ _
theorem State.core_onCore (c k : Nat) (f : Core → Core) : (s.onCore c f).core k = if c = k then f (s.core c) else s.core k :=
  FMap.get_put _ _ _ _ _
theorem State.domain_onDomain (c k : Nat) (f : Domain → Domain) : (s.onDomain c f).domain k = if c = k then f (s.domain c) else s.domain k :=
  FMap.get_put _ _ _ _ _
theorem State.stack_onStack (c k : Nat) (f : Stack → Stack) : (s.onStack c f).stack k = if c = k then f (s.stack c) else s.stack k :=
  FMap.get_put _ _ _ _ _
theorem State.volume_onVolume (c k : Nat) (f : Volume → Volume) : (s.onVolume c f).volume k = if c = k then f (s.volume c) else s.volume k :=
  FMap.get_put _ _ _ _ _
theorem State.clk_onClk (c k : Nat) (f : TileClk → TileClk) : (s.onClk c f).clk k = if c = k then f (s.clk c) else s.clk k :=
  FMap.get_put _ _ _ _ _
theorem State.slot_onSlot (c k : Nat) (f : MbSlot → MbSlot) : (s.onSlot c f).slot k = if c = k then f (s.slot c) else s.slot k :=
  FMap.get_put _ _ _ _ _
theorem State.port_onPort (c k : Nat) (f : RootPort → RootPort) : (s.onPort c f).port k = if c = k then f (s.port c) else s.port k :=
  FMap.get_put _ _ _ _ _
theorem State.fport_onFport (c k : Nat) (f : FPort → FPort) : (s.onFport c f).fport k = if c = k then f (s.fport c) else s.fport k :=
  FMap.get_put _ _ _ _ _
theorem State.fab_onFab (c k : Nat) (f : FabThread → FabThread) : (s.onFab c f).fab k = if c = k then f (s.fab c) else s.fab k :=
  FMap.get_put _ _ _ _ _
theorem State.line_onLine (c k : Nat) (f : HomeLine → HomeLine) : (s.onLine c f).line k = if c = k then f (s.line c) else s.line k :=
  FMap.get_put _ _ _ _ _

theorem State.thread_setThread (g k : Nat) (t : Thread) : (s.setThread g t).thread k = if g = k then t else s.thread k := by
  simp only [State.thread, State.setThread, FMap.find_put]
  split <;> rfl

theorem State.thread_onThread (g k : Nat) (f : Thread → Thread) :
    (s.onThread g f).thread k = if g = k then f (s.thread g) else s.thread k := State.thread_setThread s g k _

end Sys2Proof.Machine
end

