-- ==== Sys2Proof/Laws/Lines.lean ====
section
/-!
SUPPORT. What obtaining a line, fetching an instruction and marking a page-table entry can change: caches, the homes of lines and
the bits of entries, and nothing else.
-/

namespace Sys2Proof.Safety

open Sys2Proof.Machine

theorem Marked.refl (s : State) : Marked s s := ⟨rfl, fun _ => rfl⟩

theorem Marked.trans {s t u : State} (h : Marked s t) (k : Marked t u) : Marked s u := by
  refine ⟨?_, fun c => ?_⟩
  · have e := k.1; rw [h.1] at e; exact e
  · have e := k.2 c; rw [h.2 c] at e; exact e

theorem Marked.threads {s t : State} (h : Marked s t) : t.threads = s.threads := by rw [h.1]
theorem Marked.thread {s t : State} (h : Marked s t) (g : Nat) : t.thread g = s.thread g := by rw [h.1]; rfl
theorem Marked.tileDom {s t : State} (h : Marked s t) : t.tileDom = s.tileDom := by rw [h.1]
theorem Marked.domOf {s t : State} (h : Marked s t) (g : Nat) : t.domOf g = s.domOf g := by rw [h.1]; rfl
theorem Marked.pending {s t : State} (h : Marked s t) : t.pending = s.pending := by rw [h.1]

/-- A change of a core's translations and cached lines. -/
theorem Marked.onCore (s : State) (c : Nat) {f : Core → Core}
    (h : ∀ x, f x = { x with tlb := (f x).tlb, walker := (f x).walker, l1i := (f x).l1i, l1d := (f x).l1d,
                              l2 := (f x).l2, l2use := (f x).l2use, wb := (f x).wb }) : Marked s (s.onCore c f) := by
  refine ⟨rfl, fun k => ?_⟩
  rw [State.core_onCore]
  split
  · rename_i e; subst e; exact h _
  · rfl

theorem Marked.onLine (s : State) (l : Nat) (f : HomeLine → HomeLine) : Marked s (s.onLine l f) := ⟨rfl, fun _ => rfl⟩
theorem Marked.l3 (s : State) (l : List L3Line) : Marked s { s with l3 := l } := ⟨rfl, fun _ => rfl⟩
theorem Marked.dram (s : State) (m : Mem) : Marked s { s with dram := m } := ⟨rfl, fun _ => rfl⟩
theorem Marked.send (s : State) (l : List CohMsg) : Marked s (s.send l) := ⟨rfl, fun _ => rfl⟩
theorem Marked.setDir (s : State) (l : Nat) (d : DirSt) : Marked s (s.setDir l d) := ⟨rfl, fun _ => rfl⟩

theorem Marked.ite {s a b : State} {p : Prop} [Decidable p] (h : Marked s a) (k : Marked s b) : Marked s (if p then a else b) := by
  split <;> assumption

/-- A fold of steps each of which is such a change. -/
theorem Marked.foldl {α : Type} {f : State → α → State} (h : ∀ s a, Marked s (f s a)) (l : List α) (s : State) :
    Marked s (l.foldl f s) := by
  induction l generalizing s with
  | nil => exact Marked.refl s
  | cons a r ih => exact (h s a).trans (ih _)

/-- An optional step that leaves the state where it gives none. -/
theorem Marked.getD {s : State} {o : Option State} (h : ∀ t, o = some t → Marked s t) : Marked s (o.getD s) := by
  cases o with
  | none => exact Marked.refl s
  | some t => exact h t rfl

/-! ### L3 and the directory -/

theorem Marked.l3Touch (s : State) (l t : Nat) : Marked s (s.l3Touch l t) := by
  unfold State.l3Touch; split
  · exact Marked.l3 s _
  · exact Marked.refl s

theorem Marked.l3Drop (s : State) (e : L3Line) : Marked s (s.l3Drop e) := by
  unfold State.l3Drop; dsimp only; split
  · exact (Marked.l3 s _).trans (Marked.onLine _ _ _)
  · exact Marked.l3 s _

theorem Marked.l3Fill (s : State) (d l t : Nat) : Marked s (s.l3Fill d l t) := by
  unfold State.l3Fill
  split
  · exact Marked.l3Touch _ _ _
  · dsimp only
    split
    · exact Marked.l3 s _
    · split
      · exact (Marked.l3Drop s _).trans (Marked.l3 _ _)
      · exact Marked.refl s

theorem Marked.allocL3 (s : State) (d l : Nat) : Marked s (s.allocL3 d l) := by
  unfold State.allocL3
  exact (Marked.l3Fill s d l dramTag).trans (Marked.onLine _ _ _)

theorem Marked.writeL3 (s : State) (d l : Nat) : Marked s (s.writeL3 d l) := by
  unfold State.writeL3
  exact (Marked.l3Fill s d l dramTag).trans (Marked.onLine _ _ _)

theorem Marked.staleL3 (s : State) (l : Nat) : Marked s (s.staleL3 l) := Marked.onLine _ _ _
theorem Marked.freshL3 (s : State) (l : Nat) : Marked s (s.freshL3 l) := Marked.onLine _ _ _

theorem Marked.giveUp (s : State) (d l h : Nat) (st : LineSt) : Marked s (s.giveUp d l h st) := by
  cases st with
  | modified => exact (Marked.writeL3 _ _ _).trans (Marked.setDir _ _ _)
  | exclusive => exact (Marked.freshL3 _ _).trans (Marked.setDir _ _ _)
  | shared => exact Marked.ite (Marked.refl s) (Marked.setDir _ _ _)

/-! ### L2 -/

theorem Marked.dropLine (s : State) (c l : Nat) : Marked s (s.onCore c (fun x => x.dropLine l)) := Marked.onCore s c (fun _ => rfl)

theorem Marked.evictOut {s t : State} {c : Nat} {k : Nat × Nat} (h : s.evictOut c k = some t) : Marked s t := by
  unfold State.evictOut at h
  dsimp only at h
  split at h
  · cases h; exact Marked.onCore s c (fun _ => rfl)
  · split at h
    · cases h; exact Marked.dropLine _ _ _
    · cases h; exact (Marked.dropLine s c _).trans (Marked.send _ _)
    · split at h
      · cases h
      · cases h; exact ((Marked.dropLine s c _).trans (Marked.onCore _ c (fun _ => rfl))).trans (Marked.send _ _)

theorem Marked.evict2 {s t : State} {c : Nat} {k : Nat × Nat} (h : s.evict2 c k = some t) : Marked s t := by
  unfold State.evict2 at h
  split at h
  · cases h; exact (Marked.dropLine _ _ _).trans (Marked.giveUp _ _ _ _ _)
  · exact Marked.evictOut h

theorem Marked.install2 {s t : State} {c : Nat} {k : Nat × Nat} {st : LineSt} (h : s.install2 c k st = some t) : Marked s t := by
  unfold State.install2 at h
  dsimp only at h
  split at h
  · obtain ⟨a, ha, e⟩ := Option.map_eq_some_iff.mp h
    subst e; exact (Marked.evict2 ha).trans (Marked.onCore _ c (fun _ => rfl))
  · cases h; exact Marked.onCore _ c (fun _ => rfl)

/-! ### Obtaining a line -/

theorem Marked.dropHolders (s : State) (l h : Nat) : Marked s (s.dropHolders l h) := by
  refine Marked.foldl (fun s o => ?_) _ s
  split
  · exact Marked.dropLine _ _ _
  · exact Marked.refl s

theorem Marked.freeEntry {s t : State} {v : Nat} (h : s.freeEntry v = some t) : Marked s t := by
  unfold State.freeEntry at h
  split at h
  · cases h
    exact (Marked.dropHolders s v 10000).trans ((Marked.ite (Marked.writeL3 _ _ _) (Marked.freshL3 _ _)).trans (Marked.setDir _ _ _))
  · cases h

theorem Marked.readLine (s : State) (d l h : Nat) : Marked s (s.readLine d l h).1 := by
  unfold State.readLine
  split
  · rename_i o _
    have k : Marked s (if s.dirtyAt l o then s.writeL3 d l else s.freshL3 l) := Marked.ite (Marked.writeL3 _ _ _) (Marked.freshL3 _ _)
    refine Marked.trans ?_ (Marked.setDir _ _ _)
    split
    · exact k.trans (Marked.onCore _ _ (fun _ => rfl))
    · exact k
  · exact (Marked.allocL3 _ _ _).trans (Marked.setDir _ _ _)
  · exact ((Marked.allocL3 _ _ _).trans (Marked.staleL3 _ _)).trans (Marked.setDir _ _ _)

theorem Marked.ownLine (s : State) (d l h : Nat) (upg : Bool) : Marked s (s.ownLine d l h upg) := by
  unfold State.ownLine
  exact (((Marked.dropHolders s l h).trans (Marked.ite (Marked.allocL3 _ _ _) (Marked.refl _))).trans (Marked.staleL3 _ _)).trans
    (Marked.setDir _ _ _)

theorem Marked.dirRoom {s t : State} {l : Nat} (h : s.dirRoom l = some t) : Marked s t := by
  unfold State.dirRoom at h
  split at h
  · exact Marked.freeEntry h
  · cases h; exact Marked.refl s

theorem Marked.serveLine {s t : State} {c d l : Nat} {u : LineUse} {k : CohKind} (h : s.serveLine c d u l k = some t) :
    Marked s t := by
  unfold State.serveLine at h
  dsimp only at h
  split at h
  · cases h
  · split at h
    · exact (Marked.ownLine _ _ _ _ _).trans (Marked.install2 h)
    · exact (Marked.readLine _ _ _ _).trans (Marked.install2 h)

theorem Marked.fetchLine {s t : State} {c d l : Nat} {u : LineUse} (h : s.fetchLine c d u l = some t) : Marked s t := by
  unfold State.fetchLine at h
  dsimp only at h
  split at h
  · obtain ⟨w, hw, h⟩ := Option.bind_eq_some_iff.mp h
    exact (Marked.dirRoom hw).trans (Marked.serveLine h)
  · cases h

/-- A change of every core's cached lines. -/
theorem Marked.cores (s : State) (f : Nat → Core → Core)
    (h : ∀ c x, f c x = { x with l1i := (f c x).l1i, l1d := (f c x).l1d, l2 := (f c x).l2, l2use := (f c x).l2use }) :
    Marked s { s with cores := s.cores.map (fun p => (p.1, f p.1 p.2)) } := by
  refine ⟨rfl, fun c => ?_⟩
  have key : ∀ l : FMap Core, FMap.get (l.map (fun p => (p.1, f p.1 p.2))) c Core.reset =
      FMap.get l c Core.reset ∨ FMap.get (l.map (fun p => (p.1, f p.1 p.2))) c Core.reset = f c (FMap.get l c Core.reset) := by
    intro l
    induction l with
    | nil => exact Or.inl rfl
    | cons p r ih =>
      simp only [List.map_cons, FMap.get]
      split
      · rename_i e; subst e; exact Or.inr rfl
      · exact ih
  simp only [State.core]
  rcases key s.cores with e | e <;> rw [e]
  rw [h]

theorem Marked.dropStray (s : State) (l h : Nat) : Marked s (s.dropStray l h) := by
  have e : s.dropStray l h = { s with cores := s.cores.map (fun p => (p.1,
      if s.reqNo p.1 == h then { p.2 with l1i := p.2.l1i.filter (· != (l, dramTag)) }
      else if (l, dramTag) ∈ p.2.l2use then p.2.dropLine l else p.2)) } := by
    unfold State.dropStray
    congr 1
    apply List.map_congr_left
    intro p _
    split
    · rfl
    · split <;> rfl
  rw [e]
  refine Marked.cores s (fun c x => if s.reqNo c == h then { x with l1i := x.l1i.filter (· != (l, dramTag)) }
      else if (l, dramTag) ∈ x.l2use then x.dropLine l else x) (fun c x => ?_)
  split
  · rfl
  · split <;> rfl

theorem Marked.obtain {s t : State} {c d l : Nat} {u : LineUse} (h : s.obtain c d u l = some t) : Marked s t := by
  have fill : ∀ x : Core, (x.touch2 (l, dramTag)).fill1 u (l, dramTag) = { x with
      l1i := ((x.touch2 (l, dramTag)).fill1 u (l, dramTag)).l1i, l1d := ((x.touch2 (l, dramTag)).fill1 u (l, dramTag)).l1d,
      l2use := ((x.touch2 (l, dramTag)).fill1 u (l, dramTag)).l2use } := by intro x; cases u <;> rfl
  have done : ∀ w : State, Marked w (if u.owns then
      ((w.onCore c (fun x => (x.touch2 (l, dramTag)).fill1 u (l, dramTag))).dropStray l (w.reqNo c))
      else w.onCore c (fun x => (x.touch2 (l, dramTag)).fill1 u (l, dramTag))) := by
    intro w
    have k : Marked w (w.onCore c (fun x => (x.touch2 (l, dramTag)).fill1 u (l, dramTag))) :=
      Marked.onCore w c (fun x => by rw [fill x])
    exact Marked.ite (k.trans (Marked.dropStray _ _ _)) k
  simp only [State.obtain] at h
  obtain ⟨w, hw, e⟩ := Option.map_eq_some_iff.mp h
  subst e
  refine Marked.trans ?_ (done w)
  split at hw
  · cases hw; exact Marked.refl s
  · cases hw; exact Marked.onCore s c (fun _ => rfl)
  · exact Marked.fetchLine hw
  · cases hw; exact Marked.refl s
  · exact Marked.fetchLine hw

theorem Marked.obtainRefs {s t : State} {c d : Nat} {u : LineUse} {rs : List ByteRef} (h : s.obtainRefs c d u rs = some t) :
    Marked s t := by
  let step (o : Option State) (line : Nat) : Option State := o.bind (fun s => s.obtain c d u line)
  have none_ : ∀ l : List Nat, l.foldl step none = none := by
    intro l; induction l with
    | nil => rfl
    | cons _ _ ih => exact ih
  have key : ∀ (l : List Nat) (s : State), l.foldl step (some s) = some t → Marked s t := by
    intro l
    induction l with
    | nil => intro s e; cases e; exact Marked.refl _
    | cons x r ih =>
      intro s e
      cases hx : s.obtain c d u x with
      | none =>
        have e' : r.foldl step (s.obtain c d u x) = some t := e
        rw [hx, none_] at e'; cases e'
      | some b =>
        have e' : r.foldl step (s.obtain c d u x) = some t := e
        rw [hx] at e'; exact (Marked.obtain hx).trans (ih b e')
  exact key _ s h

theorem Marked.obtainSome (s : State) (c d : Nat) (u : LineUse) (rs : List ByteRef) : Marked s (s.obtainSome c d u rs) :=
  Marked.foldl (fun _ _ => Marked.getD (fun _ h => Marked.obtain h)) _ s

/-! ### Page-table entries and fetches -/

theorem Marked.useRef (s : State) (g : Nat) (st : Bool) (r : ByteRef) : Marked s (s.useRef g st r) := by
  unfold State.useRef
  split
  · exact Marked.refl s
  · dsimp only
    refine (Marked.dram s _).trans (Marked.ite (Marked.refl _) (Marked.onCore _ _ (fun _ => rfl)))

theorem Marked.useRefs (s : State) (g : Nat) (st : Bool) (rs : List ByteRef) : Marked s (s.useRefs g st rs) := by
  unfold State.useRefs
  split
  · exact (Marked.useRef _ _ _ _).trans (Marked.useRef _ _ _ _)
  · exact Marked.refl s

/-- What the fetch of an instruction leaves. -/
theorem Marked.fetched (s : State) (g n : Nat) : Marked s (s.fetched g n) := by
  unfold State.fetched
  dsimp only
  split
  · refine Marked.trans ?_ (Marked.useRefs _ _ _ _)
    refine Marked.trans ?_ (Marked.onCore _ _ (fun _ => rfl))
    exact (Marked.obtainSome _ _ _ _ _).trans
      (Marked.foldl (fun _ _ => Marked.getD (fun _ h => (Marked.l3Fill _ _ _ _).trans (Marked.install2 h))) _ _)
  · exact Marked.refl s

end Sys2Proof.Safety
end

