-- ==== Sys2Proof/Laws/Issue.lean ====
section
/-!
SUPPORT. What issuing and retiring a scalar instruction can do: the counters a retirement may change, the state an
instruction that completes leaves, and the fault or hold of one that does not.
-/

namespace Sys2Proof.Machine

open Sys2Proof.Safety

/-! ### The counters -/

/-- Two states of a thread that differ at most in its counters. -/
def Counted (t u : Thread) : Prop :=
  u = { t with sys := u.sys } ∧ ∀ k, isCounter k = false → u.sysGet k = t.sysGet k

theorem Counted.refl (t : Thread) : Counted t t := ⟨rfl, fun _ _ => rfl⟩

theorem Counted.trans {t u v : Thread} (h : Counted t u) (k : Counted u v) : Counted t v :=
  ⟨by rw [k.1, h.1], fun n hn => (k.2 n hn).trans (h.2 n hn)⟩

theorem Counted.sysSet (t : Thread) (n : Nat) (v : Word) (h : isCounter n = true) : Counted t (t.sysSet n v) := by
  refine ⟨rfl, fun k hk => ?_⟩
  have : n ≠ k := by intro e; subst e; simp [h] at hk
  exact FMap.get_set_ne _ _ _ this

theorem Thread.countEvent_counted (t : Thread) (ring ev n : Nat) : Counted t (t.countEvent ring ev n) := by
  unfold Thread.countEvent
  split
  · have key : ∀ (l : List Nat) (u : Thread), (∀ i ∈ l, i < 8) → Counted t u → Counted t (l.foldl (fun t k =>
        let sel := t.sysNat (Sys.pmsel k)
        if bitOf sel 12 && bitsOf sel 7 0 == ev && bitOf sel (8 + ring) then
          let c := t.sysNat (Sys.pmc k) + n
          let t := t.sysSet (Sys.pmc k) (BitVec.ofNat 64 (c % 2 ^ 48))
          if c < 2 ^ 48 then t
          else t.sysSet Sys.pmctl (t.sysGet Sys.pmctl ||| BitVec.ofNat 64 (2 ^ (8 + k)))
        else t) u) := by
      intro l
      induction l with
      | nil => intro u _ h; exact h
      | cons i r ih =>
        intro u hi h
        have hc : isCounter (Sys.pmc i) = true :=
          (by decide : ∀ j, j < 8 → isCounter (Sys.pmc j) = true) i (hi i (by simp))
        refine ih _ (fun j hj => hi j (by simp [hj])) ?_
        dsimp only
        split
        · split
          · exact h.trans (Counted.sysSet _ _ _ hc)
          · exact (h.trans (Counted.sysSet _ _ _ hc)).trans (Counted.sysSet _ _ _ (by decide))
        · exact h
    exact key _ t (by simp) (Counted.refl t)
  · exact Counted.refl t

theorem Thread.countEvents_counted (t : Thread) (ring : Nat) (evs : List Nat) :
    Counted t (evs.foldl (fun t e => t.countEvent ring e 1) t) := by
  have key : ∀ (l : List Nat) (u : Thread), Counted t u → Counted t (l.foldl (fun t e => t.countEvent ring e 1) u) := by
    intro l
    induction l with
    | nil => intro u h; exact h
    | cons e r ih => intro u h; exact ih _ (h.trans (Thread.countEvent_counted _ _ _ _))
  exact key evs t (Counted.refl t)

/-! ### Threads of a state -/

@[simp] theorem State.thread_setThread_same (s : State) (g : Nat) (t : Thread) : (s.setThread g t).thread g = t := by
  simp [State.thread, State.setThread]

theorem State.thread_setThread_ne (s : State) {g h : Nat} (t : Thread) (n : g ≠ h) :
    (s.setThread g t).thread h = s.thread h := by
  simp [State.thread, State.setThread, FMap.find_put_ne _ _ n]

@[simp] theorem State.setThread_setThread (s : State) (g : Nat) (t u : Thread) :
    (s.setThread g t).setThread g u = s.setThread g u := by simp [State.setThread]

@[simp] theorem State.thread_onThread_same (s : State) (g : Nat) (f : Thread → Thread) :
    (s.onThread g f).thread g = f (s.thread g) := by simp [State.onThread]

theorem State.onThread_eq (s : State) (g : Nat) (f : Thread → Thread) :
    s.onThread g f = s.setThread g (f (s.thread g)) := rfl

/-! ### Retirement -/

/-- A retired instruction's counters: the thread differs at most in its counters, and nothing else in the part but the count
of free values. -/
theorem State.countRetired_eq (s : State) (g ring : Nat) (evs : List Nat) :
    ∃ u n, Counted (s.thread g) u ∧ s.countRetired g ring evs = { s.setThread g u with free := n } := by
  have h1 := (Thread.countEvent_counted (s.thread g) ring 0x01 1).trans
    (Thread.countEvents_counted ((s.thread g).countEvent ring 0x01 1) ring evs)
  unfold State.countRetired
  dsimp only
  split
  · refine ⟨_, s.free + 1, h1.trans (Thread.countEvent_counted _ ring 0x02 (Config.microOps s.free)), ?_⟩
    simp [State.onThread, State.setThread, State.thread]
  · exact ⟨_, s.free, h1, by simp [State.onThread, State.setThread]⟩

theorem State.trainPredictor_setThread (s : State) (g h : Nat) (t : Thread) :
    (s.setThread h t).trainPredictor g = (s.trainPredictor g).setThread h t := by
  simp only [State.trainPredictor, State.domOf, State.setThread]
  split <;> rfl

theorem State.trainPrefetcher_setThread (s : State) (g h : Nat) (t : Thread) :
    (s.setThread h t).trainPrefetcher g = (s.trainPrefetcher g).setThread h t := by
  simp only [State.trainPrefetcher, State.domOf, State.setThread]
  split <;> rfl

/-- What a retiring instruction of the events `evs` trains of its core for its domain (R254, R258). -/
def State.trained (s : State) (g : Nat) (evs : List Nat) : State :=
  let s := if evs.contains 0x03 then s.trainPredictor g else s
  if evs.contains 0x05 then s.trainPrefetcher g else s

theorem State.trained_setThread (s : State) (g h : Nat) (t : Thread) (evs : List Nat) :
    (s.setThread h t).trained g evs = (s.trained g evs).setThread h t := by
  unfold State.trained
  split <;> split <;> simp only [State.trainPredictor_setThread, State.trainPrefetcher_setThread]

/-- An instruction that retires leaves its thread as it changed it, at the next address, and the counters counted. -/
theorem State.retired_turned (s : State) (g ring : Nat) (ip : Word) (evs : List Nat) (psw : Bool) :
    Turned (s.trained g evs) (s.retired g ring ip evs psw) g ip
      { s.thread g with
        misp := (s.thread g).misp && !evs.contains 0x03
        psw := if psw then (s.thread g).psw else { (s.thread g).psw with brs := false } } := by
  unfold State.retired
  dsimp only
  have e0 : ∀ f : Thread → Thread, (if evs.contains 0x05 = true then
        (if evs.contains 0x03 = true then (s.onThread g f).trainPredictor g else s.onThread g f).trainPrefetcher g
      else if evs.contains 0x03 = true then (s.onThread g f).trainPredictor g else s.onThread g f) =
      (s.trained g evs).setThread g (f (s.thread g)) := by
    intro f
    rw [State.onThread_eq, ← State.trained_setThread]
    rfl
  rw [e0]
  obtain ⟨u, n, hu, e⟩ := State.countRetired_eq ((s.trained g evs).setThread g
    { (s.thread g).setIp ip with
      hold := if (s.thread g).stq.isSome then (s.thread g).hold else .none, prog := 0
      misp := (s.thread g).misp && !evs.contains 0x03
      psw := if psw then (s.thread g).psw else { (s.thread g).psw with brs := false } }) g ring
    (if (evs.contains 0x03 && (s.thread g).misp) = true then 0x04 :: evs else evs)
  rw [State.thread_setThread_same] at hu
  rw [State.setThread_setThread] at e
  refine ⟨u.sys, n, e.trans ?_, fun k hk => (hu.2 k hk).trans (by simp [Thread.sysGet, Thread.setIp])⟩
  rw [hu.1]
  rfl

/-- An instruction that does not itself write PSW retires with PSW.BRS 0. -/
theorem State.retired_spec (s : State) (g ring : Nat) (ip : Word) (evs : List Nat) :
    Retired (s.trained g evs) (s.retired g ring ip evs false) g ip
      { s.thread g with misp := (s.thread g).misp && !evs.contains 0x03 } :=
  State.retired_turned s g ring ip evs false

/-! ### Issue -/

/-- An instruction that issues and retires comes to what its effect comes to where its bytes are fetched. -/
theorem State.issue_of_issues {s : State} {o : Op} {x : Insn} {body : State → Fin} (h : Issues s o x)
    (r : (body s).retires = true) :
    s.issue o x body = s.conclude x.thread (o.length x) (s.thread x.thread).psw.ss (body (fetchedFor s o x)) := by
  obtain ⟨h1, h2, ⟨h3, h4, h5, h6, h7⟩, h8⟩ := h
  have nf : (body s).faults = false := by
    cases e : body s <;> simp [e, Fin.retires] at r <;> rfl
  simp [State.issue, State.runAt, fetchedFor, State.checkDue, State.boundaryEvent, h1, h2, h3, h4, h5, h6, h7, h8, nf, r]

/-- One that issues and neither retires nor faults comes to its end where it stands. -/
theorem State.issue_of_waits {s : State} {o : Op} {x : Insn} {body : State → Fin} (h : Issues s o x)
    (r : (body s).retires = false) (nf : (body s).faults = false) :
    s.issue o x body = s.conclude x.thread (o.length x) (s.thread x.thread).psw.ss (body s) := by
  obtain ⟨h1, h2, ⟨h3, h4, h5, h6, h7⟩, h8⟩ := h
  simp [State.issue, State.runAt, State.checkDue, State.boundaryEvent, h1, h2, h3, h4, h5, h6, h7, h8, nf, r]

/-- One whose effect faults takes the fault, or waits for the frame's store (R304, R461). -/
theorem State.issue_of_fault {s s' : State} {o : Op} {x : Insn} {body : State → Fin} {f : Flt} (h : Issues s o x)
    (r : body s = .flt f s') :
    s.issue o x body = if (s.thread x.thread).deliveryWaits then s.holdAt x.thread .fence else s'.fault x.thread f := by
  obtain ⟨h1, h2, ⟨h3, h4, h5, h6, h7⟩, h8⟩ := h
  simp [State.issue, State.runAt, State.checkDue, State.boundaryEvent, State.conclude, Fin.faults, h1, h2, h3, h4, h5, h6, h7,
    h8, r]

@[simp] theorem fetchedFor_thread (s : State) (o : Op) (x : Insn) (g : Nat) : (fetchedFor s o x).thread g = s.thread g :=
  (Marked.fetched s x.thread (o.length x)).thread g

/-- An instruction that issues and completes into a thread state retires into the next instruction. -/
theorem State.completes_of_ok {s : State} {o : Op} {x : Insn} {body : State → Fin} {u : Thread} (h : Issues s o x)
    (r : (body s).retires = true)
    (hb : body (fetchedFor s o x) = .ok ((fetchedFor s o x).setThread x.thread u)) : Completes s (s.issue o x body) o x u := by
  rw [State.issue_of_issues h r, hb]
  have := State.retired_spec ((fetchedFor s o x).setThread x.thread u) x.thread (s.thread x.thread).ring
    ((s.thread x.thread).pc + BitVec.ofNat 64 (o.length x)) []
  simp only [State.trained, List.contains_nil, Bool.false_eq_true, if_false, State.thread_setThread_same, Bool.not_false,
    Bool.and_true] at this
  obtain ⟨sys, n, e, hk⟩ := this
  refine ⟨_, ⟨sys, n, ?_, hk⟩, rfl⟩
  simp only [Option.getD_none, State.after] at e ⊢
  rw [e, State.setThread_setThread]

/-- An instruction that issues and completes into the next instruction, without a branch event and without writing PSW, retires
there with the part its effect leaves. -/
theorem State.retiresIn_of_done {s s' : State} {o : Op} {x : Insn} {body : State → Fin} {evs : List Nat} (h : Issues s o x)
    (r : (body s).retires = true) (hb : body (fetchedFor s o x) = .done s' none evs false false)
    (he : evs.contains 0x03 = false) :
    RetiresIn s (s'.trained x.thread evs) (s.issue o x body) x.thread (s.after o x) (s'.thread x.thread) := by
  rw [State.issue_of_issues h r, hb]
  have := State.retired_spec s' x.thread (s.thread x.thread).ring ((s.thread x.thread).pc + BitVec.ofNat 64 (o.length x)) evs
  simp only [he, Bool.not_false, Bool.and_true] at this
  exact ⟨_, this, rfl⟩

/-- The same with a control transfer to `a`, which trains the predictors and settles its misprediction. -/
theorem State.retiresIn_of_jump {s s' : State} {o : Op} {x : Insn} {body : State → Fin} {a : Word} {evs : List Nat}
    (h : Issues s o x) (r : (body s).retires = true) (hb : body (fetchedFor s o x) = .done s' (some a) evs false false)
    (he : evs.contains 0x03 = true) :
    RetiresIn s (s'.trained x.thread evs) (s.issue o x body) x.thread a { s'.thread x.thread with misp := false } := by
  rw [State.issue_of_issues h r, hb]
  have := State.retired_spec s' x.thread (s.thread x.thread).ring a evs
  simp only [he, Bool.not_true, Bool.and_false] at this
  exact ⟨_, this, rfl⟩

end Sys2Proof.Machine
end

