-- ==== Sys2Proof/Machine/Lands.lean ====
section
/-!
DEFINITION. The land grid (R22, R776 to R783, R797): what each position of the LGA-5624 holds, by row 1 to 76 and column 1 to 76
counted from the A1 corner.
-/

namespace Sys2Proof

/-- A net of Table 19-2, or a position without a land. A differential pair's second land has `neg` set; DDR signals are numbered
in the order of R780, and a low-speed signal is named by its row and column in Table 19-3. -/
inductive Net where
  | hole
  | rsvd
  | vss
  | vssSense
  | vmesh
  | vddq
  | vio18
  | vaux
  | vseed
  | vloam12
  | vloam25
  | vcore (tile : Nat)
  | vcoreSense (tile : Nat)
  | ddr (channel signal : Nat)
  | meadow (port lane : Nat) (tx neg : Bool)
  | pcie (group lane : Nat) (tx neg : Bool)
  | pcieRefclk (group : Nat) (neg : Bool)
  | perst (port : Nat)
  | low (row col : Nat)
  deriving DecidableEq, Repr

/-- The letters of a row: nineteen to a cycle (R22). -/
def rowName (row : Nat) : String :=
  let letter (k : Nat) : String := (("A B C D E F G H J K L M N P T U V W Y".splitOn " ").drop k).headD ""
  if row ≤ 19 then letter (row - 1) else letter ((row - 20) / 19) ++ letter ((row - 1) % 19)

/-- The positions that hold no land (R777). -/
def landHole (row col : Nat) : Bool :=
  (row == 1 && (decide (col ≤ 3) || col == 76)) || (row == 2 && decide (col ≤ 2)) || (row == 76 && (col == 1 || col == 76)) ||
    (decide (57 ≤ row) && decide (row ≤ 62) && decide (27 ≤ col) && decide (col ≤ 50))

/-- A DDR band (R780), by channel, row offset and column offset from the package edge. -/
def ddrNet (ch r c : Nat) : Net :=
  if c = 13 then .vddq
  else if r < 10 then (if c = 12 then .vss else .ddr ch (12 * r + c))
  else .ddr ch (120 + 13 * (r - 10) + c)

/-- The low-speed region (R779, Table 19-3). -/
def lowNet (row col : Nat) : Net :=
  if (row == 2 && decide (30 ≤ col) && decide (col ≤ 41)) || (row == 3 && decide (30 ≤ col) && decide (col ≤ 42)) ||
      (row == 4 && ((decide (30 ≤ col) && decide (col ≤ 34)) || (decide (36 ≤ col) && decide (col ≤ 47)))) then .low row col
  else if row = 1 ∧ col ≤ 54 then .rsvd
  else if row = 3 ∧ 48 ≤ col ∧ col ≤ 55 then .vio18
  else if row = 4 ∧ 48 ≤ col ∧ col ≤ 55 then .vaux
  else if row = 4 ∧ 56 ≤ col ∧ col ≤ 59 then .vseed
  else .vss

/-- A pair of a lane row at column offset `c`, lane `base` first (R781). -/
def laneNet (pair : Nat → Bool → Net) (base c : Nat) : Net :=
  if c % 3 = 2 then .vss else pair (base + c / 3) (c % 3 == 1)

/-- A Meadow link port (Table 19-4). -/
def meadowNet (port r c : Nat) : Net :=
  if r < 4 then laneNet (fun n neg => .meadow port n true neg) (2 * r) c
  else if r = 4 then .vss
  else if r < 9 then laneNet (fun n neg => .meadow port n false neg) (2 * (r - 5)) c
  else if c % 2 = 0 then .vio18 else .vss

/-- A PCI Express group (Table 19-4), its rows counted inward from the edge. -/
def pcieNet (g r c : Nat) : Net :=
  if r < 4 then laneNet (fun n neg => .pcie g n false neg) (16 * g + 4 * r) c
  else if 5 ≤ r ∧ r < 9 then laneNet (fun n neg => .pcie g n true neg) (16 * g + 4 * (r - 5)) c
  else if r = 10 then
    (if c < 2 then .pcieRefclk g (c == 1) else if 3 ≤ c ∧ c < 7 then .perst (4 * g + (c - 3)) else .vss)
  else .vss

/-- A tile's power cell (R782). -/
def cellNet (t r c : Nat) : Net :=
  if r = 0 ∨ r = 2 ∨ (r = 4 ∧ c < 4) then .vcore t
  else if r = 4 ∧ c = 4 then .vcoreSense t
  else if (r = 4 ∧ c = 5) ∨ (r = 1 ∧ c = 0) then .vmesh
  else .vss

/-- A block of the uncore power region (R782): `k` counts columns from the package edge. -/
def uncoreNet (row k : Nat) : Net :=
  if row ≤ 58 then .vloam12
  else if row = 59 then (if k < 8 then .vloam25 else if k < 10 then .vssSense else .vss)
  else if row = 60 ∨ (row = 61 ∧ k < 4) then .vmesh
  else .vss

/-- What a position holds (Table 19-1). -/
def netAt (row col : Nat) : Net :=
  if landHole row col then .hole
  else if col ≤ 14 then (if row ≤ 2 ∨ 75 ≤ row then .vss else ddrNet ((row - 3) / 12) ((row - 3) % 12) (col - 1))
  else if 63 ≤ col then (if row ≤ 2 ∨ 75 ≤ row then .vss else ddrNet (6 + (row - 3) / 12) ((row - 3) % 12) (76 - col))
  else if row ≤ 4 then lowNet row col
  else if row ≤ 16 then meadowNet ((col - 15) / 6) (row - 5) ((col - 15) % 6)
  else if row ≤ 56 then cellNet ((row - 17) / 5 * 8 + (col - 15) / 6) ((row - 17) % 5) ((col - 15) % 6)
  else if row ≤ 62 then uncoreNet row (if col ≤ 26 then col - 15 else 62 - col)
  else pcieNet ((col - 15) / 12) (76 - row) ((col - 15) % 12)

/-- Is a land in the boundary-scan register (R797): a low-speed signal but REFCLK at B38 and B39, or a DDR5 signal? -/
def Net.scanned (n : Net) : Bool :=
  match n with
  | .low row col => !(row == 2 && (col == 38 || col == 39))
  | .ddr _ _ => true
  | _ => false

/-- The cells of the boundary-scan register: 40 low-speed lands and 146 DDR5 signals of each of twelve channels (R778, R797). -/
def boundaryCells : Nat := 40 + 12 * 146

/-- May the platform leave the land unconnected (R783)? -/
def Net.open_ (n : Net) : Bool := match n with | .rsvd => true | .hole => true | _ => false

end Sys2Proof
end

