-- ==== Sys2Proof/WellFormed.lean ====
section
/-!
DEFINITION. The commands that can be spelled: every number within the range the part gives it (C-7128: 128 cores of two
threads, 64 tiles, 64 domains, 8 Loam stacks, 16 root ports, 8 link ports), and framings no longer than their fields.
-/

namespace Sys2Proof

/-- A thread of the part (256 of them). -/
def okThread (g : Nat) : Bool := decide (g < 256)

/-- A core of the part (128 of them). -/
def okCore (c : Nat) : Bool := decide (c < 128)

/-- A framed scalar instruction: its thread exists and it carries at most five prefix bytes, all of 0xE0–0xEF, the fifth
being the one that R70 refuses; an escape as its first byte would make it a tile instruction (R68). -/
def Insn.wf (x : Insn) : Bool :=
  okThread x.thread && decide (x.prefixes.length ≤ 5) && x.prefixes.all (fun b => decide (0xE0 ≤ b.toNat) && decide (b.toNat < 0xF0)) &&
    x.prefixes.head? != some 0xE8 && x.prefixes.head? != some 0xE9

/-- A framed tile instruction: its thread exists and its escape byte is 0xE8 or 0xE9 (R68). -/
def TileInsn.wf (t : TileInsn) : Bool :=
  okThread t.thread && decide (t.prefixes.length ≤ 5) && (t.esc == 0xE8 || t.esc == 0xE9)

/-- A control-space store: an existing thread, a width of 1, 2, 4 or 8 bytes, naturally aligned (R15). -/
def CsStore.wf (w : CsStore) : Bool :=
  okThread w.thread && (w.width == 1 || w.width == 2 || w.width == 4 || w.width == 8) && w.offset % w.width == 0

/-- A device access: as a store, with a register specifier of form M (R66). -/
def CsAccess.wf (a : CsAccess) : Bool :=
  okThread a.thread && (a.width == 1 || a.width == 2 || a.width == 4 || a.width == 8) && a.offset % a.width == 0 &&
    decide (a.reg < 40)

/-- A Synry request fits its frame (R716): parameters of at most 480 bytes. -/
def SynryReq.wf (c : SynryReq) : Bool := decide (c.params.length ≤ 480)

/-- A fabric packet: node IDs of 16 bits (R653), virtual channels 0 to 3. -/
def Packet.wf (p : Packet) : Bool := decide (p.src < 65536) && decide (p.dst < 65536) && decide (p.vc < 4)

/-- A coherence request: a line of the 52-bit address space, a requester of R451 (cores below 512, agents from 512 to 656), bytes
within the line. -/
def CohReq.wf (r : CohReq) : Bool :=
  decide (r.line < 2 ^ 46) && decide (r.req < 657) && decide (r.off + r.bytes.length ≤ 64)

/-- A non-allocating read: of an agent, or of an existing thread within one line, its micro-ops within the reorder buffer (R259).
-/
def NaReq.wf (r : NaReq) : Bool :=
  match r with
  | .agent q => q.wf
  | .spec a => okThread a.thread && decide (a.uops ≤ 448)

/-- A hardware error names an existing thread. -/
def HwError.wf (e : HwError) : Bool := okThread e.thread && decide (e.unit < 256) && decide (e.unitIdx < 256)

/-- Well-formed commands. GXFER and GDETACH have two rows each, told apart by their immediate (R179, R187): 1 is the second row of
GXFER, 8 to 15 that of GDETACH, any other value the first row's. -/
def Instr.wf (i : Instr) : Bool :=
  match i with
  | .registerWrite w => w.wf
  | .nop x => x.insn.wf
  | .call x => x.wf
  | .ret x => x.wf
  | .jmp x => x.wf
  | .bcc x _ => x.wf
  | .bz x => x.wf
  | .bnz x => x.wf
  | .dbnz x => x.wf
  | .wflush x => x.wf
  | .backgroundSpill thread => okThread thread
  | .backgroundFill thread => okThread thread
  | .rdsr x => x.wf
  | .wrsr x => x.wf
  | .add x => x.wf
  | .adc x => x.wf
  | .sub x => x.wf
  | .sbc x => x.wf
  | .and x => x.wf
  | .or x => x.wf
  | .xor x => x.wf
  | .andn x => x.wf
  | .shl x => x.wf
  | .shr x => x.wf
  | .sar x => x.wf
  | .mul x => x.wf
  | .addi x => x.wf
  | .adci x => x.wf
  | .subi x => x.wf
  | .sbci x => x.wf
  | .andi x => x.wf
  | .ori x => x.wf
  | .xori x => x.wf
  | .andni x => x.wf
  | .shli x => x.wf
  | .shri x => x.wf
  | .sari x => x.wf
  | .ld x => x.wf
  | .lds x => x.wf
  | .st x => x.wf
  | .swap x => x.wf
  | .cas x => x.wf
  | .aadd x => x.wf
  | .aand x => x.wf
  | .aor x => x.wf
  | .axor x => x.wf
  | .amax x => x.wf
  | .amaxu x => x.wf
  | .amin x => x.wf
  | .aminu x => x.wf
  | .setcc x c => x.wf && !(c == 0 && (x.opnd.toNat % 16 == 1 || x.opnd.toNat % 16 == 2))
  | .rdfl x => x.wf && x.opnd.toNat % 16 == 1
  | .wrfl x => x.wf && x.opnd.toNat % 16 == 2
  | .bfx x => x.wf
  | .bfxs x => x.wf
  | .bfi x => x.wf
  | .clz x => x.wf
  | .ctz x => x.wf
  | .perm x => x.wf
  | .movs x => x.wf
  | .mulh x => x.wf
  | .mulhu x => x.wf
  | .mulw x => x.wf
  | .div x => x.wf
  | .divu x => x.wf
  | .rem x => x.wf
  | .remu x => x.wf
  | .fadd x => x.wf
  | .fsub x => x.wf
  | .fmul x => x.wf
  | .fdiv x => x.wf
  | .fsqrt x => x.wf
  | .fmin x => x.wf
  | .fmax x => x.wf
  | .fcmp x => x.wf
  | .fcmpe x => x.wf
  | .fma x => x.wf
  | .rdfcsr x => x.wf
  | .wrfcsr x => x.wf
  | .fcvtB64ToB32 x => x.wf
  | .fcvtB32ToB64 x => x.wf
  | .fcvtToS32 x => x.wf
  | .fcvtToU32 x => x.wf
  | .fcvtToS64 x => x.wf
  | .fcvtToU64 x => x.wf
  | .fcvtFromS32 x => x.wf
  | .fcvtFromU32 x => x.wf
  | .fcvtFromS64 x => x.wf
  | .fcvtFromU64 x => x.wf
  | .gate x => x.wf
  | .gret x => x.wf
  | .ldc x => x.wf
  | .stc x => x.wf
  | .gderive x => x.wf
  | .grevoke x => x.wf
  | .revocationDrainEnd thread => okThread thread
  | .gquery x => x.wf
  | .gxferS x => x.wf && x.imm.toNat % 256 != 1
  | .gxferR x => x.wf && x.imm.toNat % 256 == 1
  | .gattach x => x.wf
  | .gdetach x => x.wf && x.imm.toNat % 256 / 8 != 1
  | .gdetachP x => x.wf && x.imm.toNat % 256 / 8 == 1
  | .tinv x => x.wf
  | .tinvInvalidate thread core => okThread thread && okCore core
  | .tinvAckComplete thread => okThread thread
  | .fret x => x.wf
  | .brk x => x.wf
  | .interruptDelivery thread => okThread thread
  | .tileStreamFaultDelivery thread => okThread thread
  | .machineCheck e => e.wf
  | .correctedError e => e.wf
  | .setpend w => w.wf
  | .msiWrite port _ => decide (port < 16)
  | .sbar x => x.wf
  | .pflush x => x.wf
  | .branchMispredict x => okThread x.thread
  | .sfbInstall thread _ _ _ => okThread thread
  | .boundEntryFreed _ => true
  | .tileQueueEnter t => t.wf
  | .queuedWrsrApply thread => okThread thread
  | .tcfg thread => okThread thread
  | .tzero thread => okThread thread
  | .tld x => okThread x.thread
  | .tst x => okThread x.thread
  | .tlda x => okThread x.thread
  | .tsta x => okThread x.thread
  | .tmovToScalar t => t.wf
  | .tmovToTile thread => okThread thread
  | .tmmaE thread => okThread thread
  | .tmmaF thread => okThread thread
  | .tmmai thread => okThread thread
  | .tscl thread => okThread thread
  | .tcvt thread => okThread thread
  | .tadd thread => okThread thread
  | .tmul thread => okThread thread
  | .tmax thread => okThread thread
  | .tmin thread => okThread thread
  | .tredSum thread => okThread thread
  | .tredMax thread => okThread thread
  | .twait thread => okThread thread
  | .twaitRelease thread => okThread thread
  | .tsync t => t.wf
  | .tfence thread => okThread thread
  | .tsave t _ => t.wf
  | .trstr t _ => t.wf
  | .tresume t => t.wf
  | .tresumeSkip t => t.wf
  | .tresumeFlush t => t.wf
  | .tqry t => t.wf
  | .tput x => okThread x.thread
  | .tget thread => okThread thread
  | .swardModeChange core => okCore core
  | .descriptorLaunch w => w.wf
  | .descriptorAbort w => w.wf
  | .streamRequestIssue core => okCore core
  | .descriptorDone core _ => okCore core
  | .tsbApertureAccess a => a.wf
  | .l2Eviction core _ => okCore core
  | .rds r => r.req.wf && r.rivals.all (fun q => q.2.wf)
  | .rdx r => r.req.wf && r.rivals.all (fun q => q.2.wf)
  | .upg r => r.req.wf && r.rivals.all (fun q => q.2.wf)
  | .rdna r => r.req.wf && r.rivals.all (fun q => q.2.wf)
  | .wrl r => r.req.wf && r.rivals.all (fun q => q.2.wf)
  | .fwds _ _ => true
  | .fwdx _ _ => true
  | .fwdna _ _ => true
  | .inv _ _ => true
  | .binv _ _ => true
  | .datas _ _ => true
  | .datae _ _ => true
  | .datax _ _ => true
  | .datana _ _ => true
  | .grantx _ _ => true
  | .fwdack _ _ => true
  | .fwdackd _ _ => true
  | .fwdnak _ _ => true
  | .wbm _ core => okCore core
  | .eve _ core => okCore core
  | .evs _ core => okCore core
  | .wback _ core => okCore core
  | .wbstale _ core => okCore core
  | .mfence x => x.wf
  | .isync x => x.wf
  | .revisionFree _ _ => true
  | .loamReadRequest _ => true
  | .loamPageSenseDone stack _ => decide (stack < 8)
  | .loamCodewordDecoded stack _ _ _ => decide (stack < 8)
  | .readRetryStep stack _ _ => decide (stack < 8)
  | .lclr w => w.wf
  | .lvcreate c => c.wf
  | .lvresize c => c.wf
  | .lvdelete c => c.wf
  | .lopen c => c.wf
  | .lstage c => c.wf
  | .lzero c => c.wf
  | .lcommit c => c.wf
  | .commitSwitch _ => true
  | .labort c => c.wf
  | .lparam c => c.wf
  | .lhealth c => c.wf
  | .pageProgramDone stack _ _ => decide (stack < 8)
  | .blockErase stack _ => decide (stack < 8)
  | .eraseResume stack _ => decide (stack < 8)
  | .eraseDone stack _ _ => decide (stack < 8)
  | .compaction stack => decide (stack < 8)
  | .wearRelocation stack _ => decide (stack < 8)
  | .readDisturbRefresh stack _ => decide (stack < 8)
  | .senseCountCheckpoint stack => decide (stack < 8)
  | .patrolFactorUpdate stack => decide (stack < 8)
  | .patrolBlock _ => true
  | .loamReady stack _ => decide (stack < 8)
  | .ferricWrite _ _ _ => true
  | .commitBufferTimeout => true
  | .seedbankCommit => true
  | .seedbankPageProgrammed _ => true
  | .seedbankRecovery => true
  | .seedbankPatrol _ _ => true
  | .seedbankApertureAccess a => a.wf
  | .sbunlkRd thread => okThread thread
  | .sbunlkWr thread => okThread thread
  | .sbunlkClose thread => okThread thread
  | .sbsetpwRd thread => okThread thread
  | .sbsetpwWr thread => okThread thread
  | .sbcommitGo thread => okThread thread
  | .sbread c => c.wf
  | .sbwrite c => c.wf
  | .sbcommit c => c.wf
  | .sbunlock c => c.wf
  | .sbsetpw c => c.wf
  | .sbclose c => c.wf
  | .sbaudit c => c.wf
  | .sblog c => c.wf
  | .sbauditclr c => c.wf
  | .sbcount c => c.wf
  | .sbhealth c => c.wf
  | .csbegin c => c.wf
  | .csitem c => c.wf
  | .csend c => c.wf
  | .csabort c => c.wf
  | .csstatus c => c.wf
  | .changeSetValidate => true
  | .gracePeriodExpiry _ => true
  | .scrubDone tile => decide (tile < 64)
  | .windowZeroDone domain _ => decide (domain < 64)
  | .additionPass => true
  | .drelease c => c.wf
  | .dstart c => c.wf
  | .ovclear c => c.wf
  | .dcreate _ => true
  | .ddestroy _ => true
  | .tmove _ => true
  | .winadd _ => true
  | .windel _ => true
  | .wayset _ => true
  | .shareset _ => true
  | .guardset _ => true
  | .rootadd _ => true
  | .rootdel _ => true
  | .portadd _ => true
  | .portdel _ => true
  | .powerset _ => true
  | .routeset _ => true
  | .divset _ => true
  | .resetcfg _ => true
  | .fepset _ => true
  | .fepdel _ => true
  | .fqset _ => true
  | .fqdel _ => true
  | .fgrpset _ => true
  | .fgrpdel _ => true
  | .linkUp port _ _ _ => decide (port < 8)
  | .linkDown x => decide (x.port < 8) && decide (x.unacked ≤ 64)
  | .flitReplay x => decide (x.port < 8) && decide (x.unacked ≤ 64)
  | .helloSend => true
  | .hello _ => true
  | .coordinatorElected => true
  | .linkStateRequest _ => true
  | .linkStateAnswer _ => true
  | .nodeIdAssignment => true
  | .discoveryCommit _ => true
  | .discoveryTimeout => true
  | .coordinatorLost => true
  | .lost _ _ => true
  | .frescan c => c.wf
  | .routeBankWrite _ => true
  | .bufferDivide => true
  | .epochFlip => true
  | .epochDrainReport => true
  | .routeBankRetire => true
  | .packetArrival p => p.wf
  | .tputRowArrival p => p.wf
  | .tputAck p => p.wf
  | .tgetRequestArrival p => p.wf
  | .tgetRowReturn p => p.wf
  | .fabricRefused p => p.wf
  | .sndctlGo w => w.wf
  | .messageDelivery p => p.wf
  | .sendAck p => p.wf
  | .creditRequest p => p.wf
  | .creditReturn p => p.wf
  | .qheadWrite w => w.wf
  | .collectiveSum w => w.wf
  | .collectiveMax w => w.wf
  | .collectiveBroadcast w => w.wf
  | .collectiveBarrier w => w.wf
  | .collectiveChunk p => p.wf
  | .fabricTimeout thread => okThread thread
  | .tussockImageReceived _ => true
  | .tussockImageTimeout => true
  | .tussockMemberReady _ _ => true
  | .tussockWaitTimeout => true
  | .tussockLinkDown _ thread => okThread thread
  | .voltageSettleCheck tile _ => decide (tile < 64)
  | .voltageRecheck tile _ => decide (tile < 64)
  | .dividerSwitch tile => decide (tile < 64)
  | .timerFire thread => okThread thread
  | .sensorSample _ => true
  | .droopTrip tile _ => decide (tile < 64)
  | .powerThrottleStep domain => decide (domain < 64)
  | .powerThrottleRelease domain => decide (domain < 64)
  | .thermalStep tile => decide (tile < 64)
  | .thermalRelease tile => decide (tile < 64)
  | .thermalTrip _ => true
  | .prochotInput => true
  | .budgetRecompute => true
  | .statusWordPoll _ _ _ => true
  | .pmbAlert _ => true
  | .pmbusTimeout => true
  | .ident c => c.wf
  | .status c => c.wf
  | .time c => c.wf
  | .sense c => c.wf
  | .powerread c => c.wf
  | .clkread c => c.wf
  | .pkglimit c => c.wf
  | .threstart c => c.wf
  | .vrread c => c.wf
  | .mailboxGo w => w.wf
  | .mgmtWriteFrame _ => true
  | .mgmtReadResponse _ => true
  | .vc3Frame _ _ => true
  | .vauxRise => true
  | .smcBoot => true
  | .pwrgoodRise => true
  | .pwrgoodFall => true
  | .resetNFall => true
  | .resetNRise _ _ => true
  | .sheafRead _ _ => true
  | .clockStart _ _ => true
  | .loamRecovery stack => decide (stack < 8)
  | .ddrTraining _ => true
  | .tussockAssembly => true
  | .domainCreation => true
  | .zeroFill => true
  | .bootImageCopy domain _ => decide (domain < 64)
  | .bootThreadRelease domain => decide (domain < 64)
  | .perstDeassert port => decide (port < 16)
  | .railUndervolt _ => true
  | .refclkLoss => true
  | .xlateWrite thread _ => okThread thread
  | .dimmThermalRead _ _ _ => true
  | .pcieDmaRequest d => decide (d.port < 16) && decide (d.data.length ≤ 512) && decide (d.len ≤ 4096)
  | .pcieLoadError port thread _ _ _ _ => decide (port < 16) && okThread thread
  | .pcieLinkDown port => decide (port < 16)
  | .cfgdataLoad _ => true
  | .cfgdataStore _ => true
  | .extest => true
  | .idcode => true
  | .samplePreload captured => decide (captured.length = boundaryCells)
  | .clamp => true
  | .highz => true
  | .bypass => true
  | .prochotRelease => true
  | .vauxFall => true
  | .pcieLinkUp port width rate => decide (port < 16) && [1, 2, 4, 8, 16].contains width && decide (1 ≤ rate ∧ rate ≤ 5)
  | .loamDieStopsAnswering stack _ => decide (stack < 8)
  | .epochChangeAck _ => true

end Sys2Proof
end

