-- ==== Sys2Proof/Tests/Slice0.lean ====
section
/-!
SUPPORT. Tests: the checks of WellFormed each refuse an ill-formed command; witnesses that the hypotheses of the statements
hold together on small states; worked examples of the manual.
-/

namespace Sys2Proof.Tests

open Sys2Proof Sys2Proof.Machine Sys2Proof.Safety

/-! ### A small running part -/

/-- Domain 0: tiles 0 and 1, the first GiB of DRAM, root port 0, 40 W. -/
def dom0 : Domain :=
  { Domain.reset with valid := true, tiles := 3, windows := [(0, { base := 0, limit := 2 ^ 30 })], ports := 1, power := 40 }

/-- A thread that runs at 0x1000 in ring 0 with translation off, w1 and w2 given. -/
def thr0 : Thread :=
  { Thread.reset 0 with
    run := .running, ip := 0x1000, cur := [(1, 0xFF), (2, 3), (3, 0x2000)], f := [(1, 0x3FF0000000000000), (2, 0x4000000000000000)] }

/-- The part after start-up with one running thread. -/
def demo : State :=
  { State.reset with
    threads := [(0, thr0)], domains := [(0, dom0)], tileDom := [(0, 0), (1, 0)],
    ddr := { Ddr.reset with trained := true, caps := [(0, 64)], top := 64 * 2 ^ 30 },
    pins := { Pins.reset with pwrgood := true, resetN := true },
    smc := { Smc.reset with up := true, step := 12, rpll := true },
    seed := { Seedbank.reset with recovered := true }, ports := [(0, { RootPort.reset with exists_ := true })] }

/-- `demo` with its thread changed. -/
def demoT (f : Thread → Thread) : State := demo.onThread 0 f

/-- A framed instruction of thread 0: operand field and immediate. -/
def ins (opnd : BitVec 24) (imm : Word) : Insn := { thread := 0, prefixes := [], opnd := opnd, imm := imm }

/-- Operand field of form R3 and M. -/
def r3 (d a b f : Nat) : BitVec 24 := BitVec.ofNat 24 (d * 2 ^ 18 + a * 2 ^ 12 + b * 2 ^ 6 + f)

/-- Operand field of form R2 and RI: destination, source, low bits. -/
def ri (d s f : Nat) : BitVec 24 := BitVec.ofNat 24 (d * 2 ^ 10 + s * 2 ^ 4 + f)

/-- `AtBoundary` as a test. -/
def boundaryB (s : State) (g : Nat) : Bool :=
  s.decodes g && (s.thread g).checks.isEmpty && (s.thread g).execHits.isEmpty && (s.thread g).tileFaultDue.isNone &&
    (s.thread g).trapHere.isNone

theorem boundaryB_iff (s : State) (g : Nat) : boundaryB s g = true ↔ AtBoundary s g := by
  simp [boundaryB, AtBoundary, and_assoc, Option.isNone_iff_eq_none, List.isEmpty_iff]

/-- `Issues` as a test. -/
def issuesB (s : State) (o : Op) (x : Insn) : Bool :=
  decide (x.thread < 256) && (s.thread x.thread).issues && boundaryB s x.thread && (s.frontFault o x).isNone

theorem issuesB_iff (s : State) (o : Op) (x : Insn) : issuesB s o x = true ↔ Issues s o x := by
  simp [issuesB, Issues, boundaryB_iff, and_assoc, Option.isNone_iff_eq_none]

/-- `InOrder` as a test. -/
def inOrderB (s : State) (g : Nat) : Bool := (s.core (g / 2)).spec.all (fun o => o.acc.thread != g)

theorem inOrderB_iff (s : State) (g : Nat) : inOrderB s g = true ↔ InOrder s g := by
  simp [inOrderB, InOrder]

/-- Does a row issue with its own framing? -/
def rowIssues (s : State) (i : Instr) : Bool :=
  match framing i with
  | some (o, x) => issuesB s o x
  | none => false

/-- The checked bytes of an access satisfy `f`. -/
def refsAre (s : State) (g p : Nat) (n : Need) (a k : Nat) (f : List ByteRef → Bool) : Bool :=
  match s.check g p n a k with
  | .ok rs => f rs
  | .error _ => false

theorem refsAre_iff (s : State) (g p : Nat) (n : Need) (a k : Nat) (f : List ByteRef → Bool) :
    refsAre s g p n a k f = true ↔ ∃ rs, s.check g p n a k = .ok rs ∧ f rs = true := by
  unfold refsAre
  cases s.check g p n a k <;> simp

/-- `InMemory` as a test. -/
def inMemoryB (s : State) (rs : List ByteRef) : Bool := (controlOf rs).isNone && (s.severed rs).isNone

theorem inMemoryB_iff (s : State) (rs : List ByteRef) : inMemoryB s rs = true ↔ InMemory s rs := by
  simp [inMemoryB, InMemory, Option.isNone_iff_eq_none]

/-- `EntryReady` as a test, for some bytes of the frame. -/
def readyB (s : State) (g : Nat) (e : Event) (d : GateDesc) : Bool :=
  let t := s.thread g
  inOrderB s g && s.usableDesc g e.code t.ring == some d && decide (t.res ≤ 7) &&
    (e.level.isSome || classLevel e.code == 15 ||
      (decide (t.psw.ml.toNat < classLevel e.code) && !bitOf (t.sysNat Sys.ringctl) t.ring)) &&
    decide (64 ≤ pushAt s g d) &&
    decide ((if t.psw.ems then t.sysNat Sys.esp - 0x4000 else t.sysNat (Sys.slim d.tpl)) ≤ pushAt s g d) &&
    refsAre s g d.tpl Need.blockSt (pushAt s g d) 64 (fun _ => true)

theorem readyB_iff (s : State) (g : Nat) (e : Event) (d : GateDesc) :
    readyB s g e d = true ↔ ∃ rs, EntryReady s g e d rs := by
  simp [readyB, EntryReady, refsAre_iff, inOrderB_iff, and_assoc, or_assoc]

/-- `AtHead` as a test. -/
def headB (s : State) (g : Nat) (e : TqEntry) (t : TileInsn) (o : Nat) : Bool :=
  s.tileHead g == some e && e.op == .tile t && t.op.toNat == o && (s.core (g / 2)).mode != 2 && (s.thread g).tile.timed.isEmpty

theorem headB_iff (s : State) (g : Nat) (e : TqEntry) (t : TileInsn) (o : Nat) : headB s g e t o = true ↔ AtHead s g e t o := by
  simp [headB, AtHead, OneAtATime, and_assoc, List.isEmpty_iff]

/-- `TileIssues` as a test. -/
def tileIssuesB (s : State) (t : TileInsn) : Bool :=
  decide (t.thread < 256) && (s.thread t.thread).issues && boundaryB s t.thread && (s.tileFront t).isNone

theorem tileIssuesB_iff (s : State) (t : TileInsn) : tileIssuesB s t = true ↔ TileIssues s t := by
  simp [tileIssuesB, TileIssues, boundaryB_iff, and_assoc, Option.isNone_iff_eq_none]

/-- A part with the first GiB of DRAM, no Tussock and domain 0 as `demo` has it: those bytes are the domain's own. -/
theorem own_of_demo (s : State) (a n : Nat) (hx : bitOf ((s.thread 0).sysNat Sys.xlate) 0 = false) (ha : s.fabric.assembled = false)
    (ht : s.ddr.top = 64 * 2 ^ 30) (hd : s.domOf 0 = some 0) (hw : (s.domain 0).windows = [(0, { base := 0, limit := 2 ^ 30 })])
    (hc : (s.domain 0).cutWin = []) (h : a + n ≤ 2 ^ 30) : OwnDram s 0 a n := by
  refine ⟨hx, by omega, 0, hd, fun i hi => ⟨?_, ?_⟩⟩
  · simp only [State.installed, ha, ht]; simp; omega
  · simp only [Domain.owns, hw, hc]; simp; omega

/-- `Reaches` as a test. -/
def reachesB (s : State) (w : CsStore) (l : CsLoc) : Bool :=
  decide (w.thread < 256) && (s.thread w.thread).run == .running && csLocate w.offset == l &&
    s.csTarget ((s.domOf w.thread).getD 64) l && w.width == csWidth l && w.offset % w.width == 0 && (s.fenceWait w.thread).isNone

theorem reachesB_iff (s : State) (w : CsStore) (l : CsLoc) : reachesB s w l = true ↔ Reaches s w l := by
  simp [reachesB, Reaches, and_assoc, Option.isNone_iff_eq_none]

/-- A doubleword store of thread 0 to control space. -/
def store8 (offset value : Nat) : CsStore := { thread := 0, offset := offset, width := 8, value := BitVec.ofNat 64 value }

/-- `Taken` as a test. -/
def takenB (s : State) (k : Nat) (c : SynryReq) : Bool :=
  s.smcRuns && s.blockReady k && s.permitted k c.iface && decide ((cmdLen k).1 ≤ c.params.length) &&
    decide (c.params.length ≤ (cmdLen k).2) && !s.setsClosed k c.iface && (!cmdChange k || !s.auditFull) &&
    (!seedWrite k || s.smc.waiting.all (fun w => !seedWrite w.1)) &&
    (match c.iface with
    | .mailbox d cls n _ => (s.slot (slotKey d cls n)).state != 1 && (s.domain d).valid
    | i => (FMap.find (s.tagsOf i) c.tag.toNat).all (fun p => !p.pend) && decide (pendingTags (s.tagsOf i) < 16))

theorem takenB_iff (s : State) (k : Nat) (c : SynryReq) : takenB s k c = true ↔ Taken s k c := by
  unfold takenB Taken
  cases hi : c.iface <;>
    simp only [Bool.and_eq_true, decide_eq_true_eq, Bool.not_eq_true', Bool.or_eq_true, bne_iff_ne, List.all_eq_true,
      Option.all_eq_true, ← Bool.not_eq_true, and_assoc] <;>
    grind

/-- A command of the management port with TAG 1. -/
def req (params : List Byte) : SynryReq := { iface := .mgmt, tag := 1, flags := 0, params := params }

/-! ### WellFormed refuses what cannot be spelled -/

theorem test_wf_ok : Instr.wf (.add (ins (r3 4 1 2 0) 0)) = true := by decide
theorem test_wf_thread : Instr.wf (.add { ins 0 0 with thread := 256 }) = false := by decide
theorem test_wf_prefixes : Instr.wf (.add { ins 0 0 with prefixes := [0xE0, 0xE1, 0xE2, 0xE3, 0xE4, 0xE5] }) = false := by decide
theorem test_wf_escape :
    Instr.wf (.tileQueueEnter { thread := 0, prefixes := [], esc := 0xE7, op := 0x10, f := 0, i := 0, e := 0 }) = false := by decide
theorem test_wf_store_width : Instr.wf (.registerWrite { thread := 0, offset := 0, width := 3, value := 0 }) = false := by decide
theorem test_wf_store_aligned : Instr.wf (.registerWrite { thread := 0, offset := 4, width := 8, value := 0 }) = false := by decide
set_option maxRecDepth 4000 in
theorem test_wf_request :
    Instr.wf (.ident { iface := .mgmt, tag := 0, flags := 0, params := List.replicate 481 0 }) = false := by decide
theorem test_wf_core : Instr.wf (.swardModeChange 128) = false := by decide
theorem test_wf_tile : Instr.wf (.scrubDone 64) = false := by decide
theorem test_wf_domain : Instr.wf (.bootThreadRelease 64) = false := by decide
theorem test_wf_stack : Instr.wf (.blockErase 8 0) = false := by decide
theorem test_wf_link : Instr.wf (.linkDown ⟨8, 0⟩) = false := by decide
theorem test_wf_port : Instr.wf (.perstDeassert 16) = false := by decide
theorem test_wf_packet :
    Instr.wf (.packetArrival { src := 0, dst := 0, vc := 4, epoch := false, seq := 0, crossed := false, srcDom := 0,
                               body := .control 0 [] }) = false := by decide
theorem test_wf_error :
    Instr.wf (.machineCheck { thread := 0, unit := 256, unitIdx := 0, kind := 1, corrupt := false, paddr := none }) = false := by
  decide


/-! ### Scalar instructions: the hypotheses hold together -/

/-- Every scalar arithmetic, flag and branch row issues on the running part with valid operands. -/
theorem witness_arithmetic_rows_issue :
    [Instr.add (ins (r3 4 1 2 0) 0), .adc (ins (r3 39 38 32 0) 0), .sub (ins (r3 0 31 2 0) 0), .sbc (ins (r3 4 1 2 0) 0),
     .and { ins (r3 4 1 2 0) 0 with prefixes := [0xE3, 0xE0] }, .or (ins (r3 4 1 2 0) 0), .xor (ins (r3 4 1 2 0) 0),
     .andn { ins (r3 4 1 2 0) 0 with prefixes := [0xE2] }, .shl (ins (r3 4 1 2 0) 0), .shr (ins (r3 4 1 2 0) 0),
     .sar { ins (r3 4 1 2 0) 0 with prefixes := [0xE1] }, .mul (ins (r3 4 1 2 0) 0), .mulh (ins (r3 4 1 2 0) 0),
     .mulhu (ins (r3 4 1 2 0) 0), .mulw (ins (r3 4 1 2 0) 0), .div (ins (r3 4 1 2 0) 0), .divu (ins (r3 4 1 5 0) 0),
     .rem { ins (r3 4 1 2 0) 0 with prefixes := [0xE0] }, .remu (ins (r3 4 1 2 0) 0), .bfx (ins (r3 4 1 0 63) 0),
     .bfxs (ins (r3 4 1 63 0) 0), .bfi (ins (r3 4 1 8 7) 0), .clz (ins (r3 4 1 0 0) 0), .ctz (ins (r3 4 5 0 0) 0),
     .perm (ins (r3 4 1 2 0) 0)].all (rowIssues demo) = true ∧
    [Instr.addi (ins (ri 4 1 1) 9), .adci (ins (ri 4 1 0) 0), .subi (ins (ri 4 1 12) 9), .sbci (ins (ri 4 1 4) 9),
     .andi (ins (ri 4 1 1) 255), .ori (ins (ri 4 1 1) 9), .xori (ins (ri 4 1 1) 9), .andni (ins (ri 4 1 1) 9),
     .shli (ins (ri 4 1 1) 63), .shri (ins (ri 4 1 1) 0), .sari (ins (ri 4 1 1) 63), .nop ⟨ins 0 0, 0x01, 0⟩,
     .setcc (ins (ri 4 0 0) 0) 15, .rdfl (ins (ri 4 0 1) 0), .wrfl (ins (ri 0 4 2) 0), .rdfcsr (ins (r3 4 0 0 0) 0),
     .wrfcsr (ins (r3 0 1 0 0) 0), .jmp (ins 0x40 0x10), .call (ins 3 0), .bcc (ins 0x40 0x10) 2, .bz (ins 0x41 0x10),
     .bnz (ins 0x41 0x10), .dbnz (ins 0x41 0x10), .ret (ins 0 0), .wflush (ins 0 0)].all (rowIssues demo) = true := by
  decide

/-- Every floating-point, memory and system row issues on the running part with valid operands. -/
theorem witness_system_rows_issue :
    [Instr.fadd (ins (r3 3 1 2 1) 0), .fsub (ins (r3 3 1 2 0) 0), .fmul (ins (r3 3 1 2 1) 0), .fdiv (ins (r3 3 1 2 1) 0),
     .fmin (ins (r3 3 1 2 1) 0), .fmax (ins (r3 3 1 2 1) 0), .fma (ins (r3 3 1 2 1) 0), .fsqrt (ins (r3 3 1 0 1) 0),
     .fcmp (ins (r3 0 1 2 1) 0), .fcmpe (ins (r3 0 1 2 0) 0), .fcvtB64ToB32 (ins (r3 3 1 0 0) 0),
     .fcvtB32ToB64 (ins (r3 3 1 0 0) 0), .fcvtToS32 (ins (r3 4 1 0 1) 0), .fcvtToU32 (ins (r3 4 1 0 0) 0),
     .fcvtToS64 (ins (r3 4 1 0 1) 0), .fcvtToU64 (ins (r3 4 1 0 1) 0), .fcvtFromS32 (ins (r3 3 1 0 1) 0),
     .fcvtFromU32 (ins (r3 3 1 0 1) 0), .fcvtFromS64 (ins (r3 3 1 0 0) 0), .fcvtFromU64 (ins (r3 3 1 0 1) 0),
     .ld (ins (r3 4 3 0 0) 0), .lds { ins (r3 4 3 0 0) 0 with prefixes := [0xE2] }, .st (ins (r3 4 3 0 0) 0),
     .ldc (ins (r3 4 3 0 0) 0), .stc (ins (r3 4 3 0 0) 0), .movs (ins (r3 4 1 2 0) 0)].all (rowIssues demo) = true ∧
    [Instr.swap (ins (r3 4 3 0 0) 0), .cas (ins (r3 30 3 0 0) 0), .aadd { ins (r3 4 3 0 0) 0 with prefixes := [0xE0] },
     .aand (ins (r3 4 3 0 0) 0), .aor (ins (r3 4 3 0 0) 0), .axor (ins (r3 4 3 0 0) 0), .amax (ins (r3 4 3 0 0) 0),
     .amaxu (ins (r3 4 3 0 0) 0), .amin (ins (r3 4 3 0 0) 0), .aminu (ins (r3 4 3 0 0) 0), .rdsr (ins 4 0),
     .wrsr (ins 0x107004 0), .gate (ins (ri 0 0 2) 1), .gret (ins 0 0), .fret (ins 0 0), .gderive (ins (ri 30 1 1) 0xFF),
     .gquery (ins (ri 4 1 1) 3), .grevoke (ins (ri 0 1 1) 1), .gxferS (ins (ri 4 1 1) 0), .gxferR (ins (ri 4 0 1) 1),
     .gattach (ins (ri 0 1 1) 7), .gdetach (ins (ri 0 0 1) 7), .gdetachP (ins (ri 0 0 1) 15), .tinv (ins (ri 0 1 1) 0),
     .brk (ins 0 0), .sbar (ins 0 0), .pflush (ins 0 0), .mfence (ins 0 0), .isync (ins 0 0)].all (rowIssues demo) = true := by
  decide

/-- MultiplyAndDivideResults: a divisor of 3 with no interrupt to take, and a divisor of 0. -/
theorem witness_divide :
    (demo.thread 0).reg 2 = 3 ∧ demo.nextIrq 0 = none ∧ (demo.thread 0).reg 5 = 0 ∧
    issuesB demo (opR3 true false validR3) (ins (r3 4 1 5 0) 0) = true := by decide

/-- BranchOutcomes: the last canonical target, the first that is not, and each condition of BZ, BNZ and DBNZ. -/
def atTop : State := demoT (fun t => (t.setReg 3 (BitVec.ofNat 64 (2 ^ 48 - 1))).setReg 4 (BitVec.ofNat 64 (2 ^ 48)))

theorem witness_branches :
    issuesB atTop opJump (ins 3 0) = true ∧ ds (ins 3 0) = 0 ∧ ((atTop.thread 0).reg (bSpec (ins 3 0))).toNat < 2 ^ 48 ∧
    issuesB atTop opJump (ins 4 0) = true ∧ 2 ^ 48 ≤ ((atTop.thread 0).reg (bSpec (ins 4 0))).toNat ∧
    condTrue 0 (demo.thread 0).fl = true ∧ condTrue 1 (demo.thread 0).fl = false ∧
    (demo.thread 0).reg (bSpec (ins 0x45 0)) = 0 ∧ (demo.thread 0).reg (bSpec (ins 0x41 0)) ≠ 0 ∧
    ((demoT (fun t => t.setReg 1 1)).thread 0).reg 1 - 1 = 0 := by decide

/-- CallAndReturnSlideTheWindow: CALL with RES at 6, and RET with one resident caller. -/
theorem witness_call_return :
    let s := demoT (fun t => { t with older := List.replicate 5 [(1, 7)] })
    let r := demoT (fun t => ({ t with older := [[(1, 7)]] }).setReg 7 0x1010)
    issuesB s opJump (ins 3 0) = true ∧ ((s.thread 0).reg 3).toNat < 2 ^ 48 ∧ (s.thread 0).res = 6 ∧
    issuesB r (Op.plain false .n (fun _ => true)) (ins 0 0) = true ∧ ((r.thread 0).reg 7).toNat < 2 ^ 48 ∧
    (r.thread 0).older = [] ++ [[(1, 7)]] := by decide

set_option maxRecDepth 4000 in
/-- SpillsAndFillsMoveOneWindow: a background spill at RES 6, WFLUSH of one and of no window, and a background fill. -/
theorem witness_spills :
    let room (t : Thread) : Thread := ((t.sysSet Sys.wbsp 0x8000).sysSet Sys.wblim 0x80C0).sysSet Sys.wctl 1
    let s := demoT (fun t => room { t with older := List.replicate 5 [(1, 7)] })
    let w := demoT (fun t => room { t with older := [[(1, 7)]] })
    let f := demoT (fun t => (room t).setSpilled 1)
    let o := Op.plain true .n (fun _ => true)
    let free (s : State) : Bool := (s.thread 0).run == .running && !(s.thread 0).fenced && (s.thread 0).stq.isNone
    (s.thread 0).older.getLast? = some [(1, 7)] ∧ (s.thread 0).wbsp + 192 ≤ (s.thread 0).sysNat Sys.wblim ∧
    refsAre s 0 0 Need.blockSt (s.thread 0).wbsp 192 (fun _ => true) = true ∧ free s = true ∧
    bitOf ((s.thread 0).sysNat Sys.wctl) 0 = true ∧ (s.thread 0).res = 6 ∧
    (w.thread 0).res = 2 ∧ issuesB w o (ins 0 0) = true ∧ free w = true ∧
    refsAre w 0 0 Need.blockSt (w.thread 0).wbsp 192 (fun _ => true) = true ∧
    refsAre (fetchedFor w o (ins 0 0)) 0 0 Need.blockSt (w.thread 0).wbsp 192 (fun _ => true) = true ∧
    (demo.thread 0).res = 1 ∧ issuesB demo o (ins 0 0) = true ∧
    free f = true ∧ bitOf ((f.thread 0).sysNat Sys.wctl) 0 = true ∧ (f.thread 0).older = [] ∧ (f.thread 0).spilled = 1 ∧
    refsAre f 0 0 Need.blockLd (((f.thread 0).wbsp + (2 ^ 48 - 192)) % 2 ^ 48) 192
      (fun rs => !hasLoam rs && !hasPcie rs && rs.all (fun r => r.tgt != .rom)) = true := by decide

/-- FloatResultsAndTraps and CompareAndConvertResults: a sum that traps nothing, 1/0 with its trap enabled, a comparison
with a quiet NaN that is invalid for FCMPE only, and conversions in range, of a NaN, of an infinity and beyond the range. -/
theorem witness_float :
    let one := binary64.unpack 0x3FF0000000000000
    let nan := binary64.unpack 0x7FF8000000000000
    trapSub (binary64.addNum 0 one one).exc 0 = none ∧
    trapSub (binary64.divNum 0 one (binary64.unpack 0)).exc 0x1F = some 2 ∧
    (one.snan || nan.snan) = false ∧ (one.isNan || nan.isNan) = true ∧ bitOf 1 0 = true ∧
    nan.isNan = true ∧ binary64.unpack 0xFFF0000000000000 = .inf true ∧
    (match one with | .fin n m e => decide (roundToInt 0 n m e = (1, false)) | _ => false) = true ∧
    (match binary64.unpack 0x41E0000000000000 with | .fin n m e => decide (roundToInt 0 n m e = (2 ^ 31, false)) | _ => false) = true ∧
    (match binary64.unpack 0xC1E0000000200000 with | .fin n m e => decide (roundToInt 0 n m e = (-2 ^ 31 - 1, false)) | _ => false) = true := by
  decide

/-- `Held` as a test. -/
def heldB (s : State) (c : Nat) (own : Bool) (rs : List ByteRef) : Bool :=
  (dramLines rs).all (fun l => (FMap.find (s.core c).l2 l).any (fun st => !own || st != .shared)) &&
    rs.all (fun r => r.tgt != .rom || (s.core c).l2use.contains (r.pa / 64, 0))

theorem heldB_iff (s : State) (c : Nat) (own : Bool) (rs : List ByteRef) : heldB s c own rs = true ↔ Held s c own rs := by
  simp only [heldB, Held, Bool.and_eq_true, List.all_eq_true, Option.any_eq_true, Bool.or_eq_true, Bool.not_eq_true', bne_iff_ne,
    List.contains_iff_mem]
  constructor <;> (intro h; refine ⟨fun l hl => ?_, fun r hr => ?_⟩ <;> have := h.1 <;> have := h.2 <;> grind)

/-- `Reached` as a test, for some checked bytes. -/
def reachedB (s : State) (g p : Nat) (nd : Need) (a n : Nat) : Bool :=
  (s.fenceWait g).isNone && inOrderB s g &&
    refsAre s g p nd a n (fun rs => inMemoryB s rs && !hasLoam rs && !hasPcie rs && heldB s (g / 2) nd.store rs)

theorem reachedB_iff (s : State) (g p : Nat) (nd : Need) (a n : Nat) :
    reachedB s g p nd a n = true ↔ ∃ rs, Reached s g p nd a n rs := by
  simp [reachedB, Reached, refsAre_iff, inOrderB_iff, inMemoryB_iff, heldB_iff, and_assoc, Option.isNone_iff_eq_none]

/-- `demo` with the line at `a` modified in the L2 of core 0, and what `f` sets. -/
def holding (a : Nat) (f : Thread → Thread) : State := (demoT f).onCore 0 (fun c => { c with l2 := [(a / 64, .modified)] })

/-- LoadsAndStores: a doubleword that ends the domain's window, whose line the core holds before the fetch and after; nothing
waits, is poisoned or matches. -/
theorem witness_loads_stores :
    let s := holding 0x3FFFFFF8 (fun t => t.setReg 3 0x3FFFFFF8)
    let f := fetchedFor s (opMem false false) (ins (r3 4 3 0 0) 0)
    (s.ea (opMem false false) (ins (r3 4 3 0 0) 0)).toNat = 0x3FFFFFF8 ∧
    issuesB s (opMem false false) (ins (r3 4 3 0 0) 0) = true ∧ issuesB s (opMem true false) (ins (r3 4 3 0 0) 0) = true ∧
    reachedB s 0 0 Need.ld 0x3FFFFFF8 8 = true ∧ reachedB f 0 0 Need.ld 0x3FFFFFF8 8 = true ∧
    reachedB s 0 0 Need.st 0x3FFFFFF8 8 = true ∧ reachedB f 0 0 Need.st 0x3FFFFFF8 8 = true ∧
    (s.thread 0).dataHits false 0x3FFFFFF8 8 = [] ∧ (s.thread 0).dataHits true 0x3FFFFFF8 8 = [] := by and_intros <;> decide

/-- AtomicsReadModifyWrite: an aligned doubleword and an address one past it. -/
theorem witness_atomics :
    let s := holding 0x2000 (fun t => t.setReg 6 0x2001)
    let o := opAtomic (fun _ => true)
    issuesB s o (ins (r3 4 3 0 0) 0) = true ∧ (s.ea o (ins (r3 4 3 0 0) 0)).toNat = 0x2000 ∧
    reachedB s 0 0 Need.rmw 0x2000 8 = true ∧ reachedB (fetchedFor s o (ins (r3 4 3 0 0) 0)) 0 0 Need.rmw 0x2000 8 = true ∧
    (s.thread 0).dataHits true 0x2000 8 = [] ∧ issuesB s o (ins (r3 4 6 0 0) 0) = true ∧
    (s.ea o (ins (r3 4 6 0 0) 0)).toNat % 8 ≠ 0 := by and_intros <;> decide

/-- MovsCopiesByteByByte: overlapping ranges of three bytes in a line that the core holds, and a count of zero. -/
theorem witness_movs :
    let s := holding 0x2000 (fun t => (t.setReg 4 0x2001).setReg 1 0x2000)
    let f := fetchedFor s opMovs (ins (r3 4 1 2 0) 0)
    let has (z : State) : Bool := FMap.find (z.core 0).l2 0x80 == some .modified
    issuesB s opMovs (ins (r3 4 1 2 0) 0) = true ∧ s.fenceWait 0 = none ∧ inOrderB s 0 = true ∧ s.presented 0 = none ∧
    has s = true ∧ has f = true ∧ (∀ i, i < 3 → (0x2001 + i) / 64 = 0x80 ∧ (0x2000 + i) / 64 = 0x80) ∧
    (∀ n, n < 4 → bitOf ((s.thread 0).sysNat (Sys.bpc n)) 0 = false) ∧ OwnDram s 0 0x2001 3 ∧ OwnDram s 0 0x2000 3 ∧
    ((s.thread 0).reg 2).toNat = 3 ∧ ((s.thread 0).reg 5).toNat = 0 := by
  and_intros
  all_goals decide

/-- StoppedThreadsIssueNothing and DecodingFaults: a halted thread, opcodes that no instruction has, each decoding fault in turn,
and a matched execute breakpoint. -/
theorem witness_decoding :
    let o := opR3 true true validR3
    let sub (x : Insn) : Option Nat := (o.decodeFault x).map (·.1)
    let none_ (op op2 : Byte) : Option Nat := ((opNop op op2).decodeFault (ins 0 0)).map (·.1)
    let hit := demoT (fun t => (t.sysSet (Sys.bpa 1) 0x1000).sysSet (Sys.bpc 1) 0x101)
    (State.reset.thread 5).issues = false ∧ o.bad = none ∧
    none_ 0x00 0 = some 1 ∧ none_ 0xF2 0 = some 2 ∧ none_ 0xFF 0 = some 2 ∧ none_ 0xF0 0x42 = some 2 ∧ none_ 0xF1 0x0C = some 2 ∧
    none_ 0x06 0 = some 2 ∧ none_ 0x0F 0 = some 2 ∧
    sub { ins (r3 4 1 2 0) 0 with prefixes := [0xE0, 0xE1, 0xE2, 0xE3, 0xE4] } = some 4 ∧
    sub { ins (r3 4 1 2 0) 0 with prefixes := [0xE3, 0xE3] } = some 3 ∧
    sub { ins (r3 4 1 2 0) 0 with prefixes := [0xEA] } = some 6 ∧ sub { ins (r3 4 1 2 0) 0 with prefixes := [0xE7] } = some 6 ∧
    sub (ins (r3 4 1 50 0) 0) = some 8 ∧ (opR2 1 (fun _ => true)).fnOk (ins (ri 4 0 2) 0) = false ∧
    opRI.fnOk (ins (ri 4 1 5) 0) = true ∧ (ins (ri 4 1 5) 0).immBytes .ri = none ∧
    (ins (r3 4 1 2 0) 0).immBytes .r3 = some 0 ∧
    (demo.frontFault opTinv (ins (ri 4 1 1) 0)).isSome = true ∧ demo.decodes 0 = true ∧ (demo.thread 0).checks = [] ∧
    hit.frontFault o (ins (r3 4 1 2 0) 0) = none ∧ (hit.thread 0).execHits = [1] ∧
    (demo.check 0 0 Need.ifetch 0x1000 4).isOk = true := by and_intros <;> decide

/-- TrapsAtTheEnd: a kept trap at its boundary, with nothing before it, with a deliverable tile-stream fault, and with a fault of
the instruction's own. -/
theorem witness_traps :
    let p : Trap := { code := 0x18, sub := 1, fip := 0, faddr := 0, atIp := 0x1000, atSp := 0 }
    let s := demoT (fun t => { t with traps := [p] })
    let held := demoT (fun t => { t with traps := [p], psw := { t.psw with ml := 0 }, tile := { t.tile with held := some (0x13, 7) } })
    let o := Op.plain true .n (fun _ => true)
    (s.thread 0).traps = [p] ∧ p.atIp = (s.thread 0).ip ∧ p.atSp = (s.thread 0).reg 39 ∧ (s.thread 0).issues = true ∧
    s.decodes 0 = true ∧ (s.thread 0).checks = [] ∧ (s.thread 0).deliveryWaits = false ∧ s.frontFault o (ins 0 0) = none ∧
    (s.thread 0).execHits = [] ∧ (s.thread 0).tileFaultDue = none ∧ (held.thread 0).tileFaultDue = some (0x13, 7) ∧
    (s.frontFault o { ins 0 0 with prefixes := [0xE0] }).isSome = true := by and_intros <;> decide

/-- SystemRegisterAccess: allocated, plain, read-only and unallocated numbers; a ring that may not; the numbers at their bounds.
-/
theorem witness_system_registers :
    let v := demo.thread 0
    let u := (demoT (fun t => { t with psw := { t.psw with pl := 3 } })).thread 0
    v.sysFault 0x101 false = none ∧ v.sysFault 0xF10 true = none ∧ v.sysFault 0x100 true = none ∧ v.psw.ss = false ∧
    v.sysFault 0x710 true = none ∧ v.sysFault 0x717 true = none ∧ v.sysFault 0x001 true = none ∧ sysReadOnly 0x001 = true ∧
    v.sysFault Sys.xlate true = none ∧ v.sysFault 0x501 true = none ∧ v.sysFault 0x507 true = none ∧ v.tile.queue.length < 32 ∧
    sysAllocated 0x0FF = false ∧ u.sysFault 0x50A false = some (Flt.mk' 0x10 0 0) ∧
    u.sysFault 0x517 true = some (Flt.mk' 0x10 0 0) ∧ v.sysFault 0x517 true = none ∧ v.ring = 0 ∧ u.ring = 3 ∧ u.sysNat Sys.ntxen = 0 ∧
    bitsOf (u.sysNat Sys.cause) 17 16 < u.ring := by and_intros <;> decide

/-! ### Gates, grants, events -/

/-- A gate descriptor's bytes (Table 4-2): handler, target ring, MINPL, ML, SSEL, kind and its argument words. -/
def descBytes (hip tpl minpl ml ssel kind args : Nat) : List Byte :=
  leBytes 8 (hip + tpl * 2 ^ 48 + minpl * 2 ^ 50 + ml * 2 ^ 52 + ssel * 2 ^ 56 + kind * 2 ^ 58) ++ leBytes 8 args

/-- `demo` at ring `p` with `n` descriptors in its gate table, descriptor `k` as given, and a stack at every ring. -/
def gated (p n k : Nat) (bs : List Byte) : State :=
  { demoT (fun t =>
      ((((({ t with psw := { t.psw with pl := BitVec.ofNat 2 p, ml := 0 } }.sysSet Sys.gtb 0x100000).sysSet Sys.gtl
        (BitVec.ofNat 64 n)).sysSet (Sys.sp 0) 0x9000).setReg 39 0x8000).setReg 24 5).setReg 7 0x1010) with
    dram := Mem.write [] (0x100000 + 32 * k) bs }

/-- The descriptor of code `k` as thread 0 reads it. -/
def descIs (s : State) (k : Nat) (f : GateDesc → Bool) : Bool :=
  match s.gateDesc 0 k with
  | some d => f d
  | none => false

/-- The descriptor of code 1 takes its arguments, leaving the thread as it is, and has room for its frame below 0x9000. -/
def gateRoom (s : State) : Bool :=
  match s.gateDesc 0 1 with
  | some d => (match s.argsCheck 0 d.args 0 with
    | .ok z => refsAre z 0 d.tpl Need.blockSt 0x8FC0 64 (fun _ => true) && z.thread 0 == s.thread 0
    | .error _ => false)
  | none => false

/-- GatesEnterOrFault: a usable call gate from ring 3 with RES at 1, and each refusal in turn. -/
theorem witness_gates :
    let s := gated 3 2 1 (descBytes 0x5000 0 3 4 0 1 0)
    let args : Nat := 0x180
    let bad := gated 3 2 1 (descBytes 0x5000 0 3 4 0 1 args)
    let long := (bad.onThread 0 (fun t => t.setReg 24 0x10001))
    issuesB s opGate (ins (ri 0 0 2) 1) = true ∧ (s.thread 0).gtlCount = 2 ∧
    descIs s 1 (fun d => d.kind == 1 && decide ((s.thread 0).ring ≤ d.minpl) && decide (d.tpl ≤ (s.thread 0).ring) &&
      d.malformed 3 == false && (s.argsCheck 0 d.args 0).isOk && d.ssel == 0 && d.tpl == 0) = true ∧
    (s.thread 0).res = 1 ∧ (s.thread 0).sysNat (Sys.sp 0) = 0x9000 ∧ (s.thread 0).sysNat (Sys.slim 0) ≤ 0x8FC0 ∧
    gateRoom s = true ∧ gateRoom (fetchedFor s opGate (ins (ri 0 0 2) 1)) = true ∧ s.fenceWait 0 = none ∧
    (fetchedFor s opGate (ins (ri 0 0 2) 1)).gateDesc 0 1 = s.gateDesc 0 1 ∧
    issuesB (gated 3 1 1 []) opGate (ins (ri 0 0 2) 1) = true ∧ (gated 3 1 1 []).gateDesc 0 0x10000000 = none ∧
    descIs (gated 3 2 1 (descBytes 0 0 3 0 0 0 0)) 1 (fun d => d.kind != 1) = true ∧
    descIs (gated 3 2 1 (descBytes 0 0 2 0 0 1 0)) 1 (fun d => d.kind == 1 && decide (d.minpl < 3)) = true ∧
    descIs (gated 1 2 1 (descBytes 0 2 3 0 0 1 0)) 1 (fun d => decide (1 < d.tpl)) = true ∧
    descIs (gated 3 2 1 (descBytes 0 0 3 0 2 1 0)) 1 (fun d => d.malformed 3) = true ∧
    descIs long 1 (fun d => d.malformed 3 == false && !(long.argsCheck 0 d.args 0).isOk) = true := by
  and_intros <;> decide

/-- ReturnsRestoreTheFrame: a gate frame and an event frame at sp with a resident caller, and frames of the wrong kind and of a
more privileged ring. -/
theorem witness_returns :
    let at_ (ring kind pl : Nat) : State :=
      { demoT (fun t => ({ t with psw := { t.psw with pl := BitVec.ofNat 2 ring }, older := [[(1, 7)]] }).setReg 39 0x8000) with
        dram := Mem.write [] 0x8000 (leBytes 8 (0x1234 + kind * 2 ^ 48) ++ leBytes 8 pl) }
    let o := Op.plain false .n (fun _ => true)
    let kindIs (s : State) (ring kind pl : Nat) : Bool :=
      let z := fetchedFor s o (ins 0 0)
      (s.fenceWait 0).isNone && refsAre s 0 ring Need.blockLd 0x8000 64 (fun rs => rs.all (fun r => r.tgt == .dram) &&
        refsAre z 0 ring Need.blockLd 0x8000 64 (fun rz => rz.all (fun r => r.tgt == .dram) && z.refBytes 0 rz == s.refBytes 0 rs) &&
        (frameOf (s.refBytes 0 rs)).kind == kind && (frameOf (s.refBytes 0 rs)).psw.pl.toNat == pl &&
        (frameOf (s.refBytes 0 rs)).psw.ss == false && (frameOf (s.refBytes 0 rs)).win == false)
    issuesB (at_ 0 3 3) o (ins 0 0) = true ∧ kindIs (at_ 0 3 3) 0 3 3 = true ∧
    kindIs (at_ 0 1 0) 0 1 0 = true ∧ kindIs (at_ 0 2 0) 0 2 0 = true ∧ kindIs (at_ 1 4 1) 1 4 1 = true ∧
    kindIs (at_ 1 3 0) 1 3 0 = true ∧ kindIs (at_ 1 1 0) 1 1 0 = true ∧ ((at_ 0 3 3).thread 0).psw.ss = false := by
  and_intros <;> decide

/-- A grant of DRAM that thread `h` holds at depth `d`, with rights `r`. -/
def grant (h : Option Nat) (d r : Nat) : Grant :=
  { inUse := true, gen := 1, kind := 2, object := 0, rights := BitVec.ofNat 8 r, base := 0x10000, len := 0x4000, parent := 3,
    depth := d, holder := h, parked := none }

/-- `demo` with those grants in its domain's store, thread 0 naming entry `i` in w1, and thread 1 running too. -/
def granted (i fresh : Nat) (l : FMap Grant) : State :=
  { demoT (fun t => ((t.setReg 1 (BitVec.ofNat 64 (0x1000 + i))).setReg 30 0x1000).setReg 31 0x1000) with
    domains := [(0, { dom0 with store := { entries := l, fresh := fresh, freed := [] } })] }

/-- GrantsDeriveAndQuery: each check of GDERIVE in turn, at its bounds, and its success. -/
theorem witness_derive :
    let od := opAuth 1 (fun x => decide (x.rd2 ≤ 30) && isInt x.rs2)
    let x := ins (ri 30 1 1) 0x03
    let st (i fresh : Nat) (g : Grant) : GrantStore := ((granted i fresh [(5, g)]).domain 0).store
    let h : Word := 0x1005
    issuesB (granted 5 6 [(5, grant (some 0) 14 0x83)]) od x = true ∧ (st 5 6 (grant (some 0) 14 0x83)).check 0 0x2005 = 1 ∧
    (st 5 6 (grant (some 1) 14 0x83)).check 0 h = 2 ∧ (st 5 6 (grant (some 0) 14 0x83)).check 0 h = 0 ∧
    (grant (some 0) 14 0x03).rights.getLsbD 7 = false ∧ (grant (some 0) 14 0x83).rights.getLsbD 7 = true ∧
    0x10 &&& (grant (some 0) 14 0x83).rights.toNat ≠ 0x10 ∧ 15 ≤ (grant (some 0) 15 0x83).depth ∧
    (st 5 4096 (grant (some 0) 14 0x83)).freeEntry = none ∧ (st 5 6 (grant (some 0) 14 0x83)).freeEntry = some 6 ∧
    x.immRI.toNat % 256 &&& 0x83 = 3 ∧ 3 &&& kindRights 2 = 3 ∧ 0x1000 % kindGranule 2 = 0 ∧ 0x1000 + 0x1000 ≤ 0x4000 ∧
    (granted 5 6 []).domOf 0 = some 0 := by decide

/-- RevocationFreesAndDrains: a child and a root that the thread holds, a grant held elsewhere, and the end of the drain. -/
theorem witness_revoke :
    let o := opAuth 1 (fun x => x.rd2 == 0 && isInt x.rs2 && decide (x.immRI.toNat ≤ 1))
    let s := granted 5 6 [(3, grant (some 0) 0 0x83), (5, grant (some 0) 1 0x83)]
    let away := granted 5 6 [(5, { grant (some 1) 0 0x83 with parent := 0 })]
    let x := ins (ri 0 1 1) 0
    let dr := s.onThread 0 (fun t => { t with draining := true, revoke := some x })
    issuesB s o x = true ∧ (s.domain 0).store.check 0 0x1005 = 0 ∧ (s.domain 0).store.holdsAbove 0 5 16 = true ∧
    ((s.domain 0).store.entry 5).depth ≠ 0 ∧ ((s.domain 0).store.entry 3).depth = 0 ∧ (s.domain 0).store.check 0 0x1003 = 0 ∧
    (s.domain 0).store.check 0 0x2005 = 1 ∧ (away.domain 0).store.check 0 0x1005 ≠ 1 ∧
    (away.domain 0).store.holdsAbove 0 5 16 = false ∧ (dr.thread 0).draining = true ∧ dr.drained 0 = true ∧
    (dr.thread 0).revoke = some x ∧ (dr.thread 0).psw.ss = false := by
  and_intros <;> decide

/-- GrantTransfersAndWindows: a receiver with room, one whose mailbox is full, one outside the domain; a mailbox to take from; a
free window for a DRAM grant, and a kind with no window. -/
theorem witness_transfer :
    let g := grant (some 0) 1 0xC3
    let s := { granted 5 6 [(5, g)] with threads := [(0, (granted 5 6 [(5, g)]).thread 0), (3, { thr0 with gmail := List.replicate 7 1 })] }
    let full := { s with threads := [(3, { thr0 with gmail := List.replicate 8 1 })] }
    (s.domain 0).store.check 0 0x1005 = 0 ∧ g.rights.getLsbD 6 = true ∧ (grant (some 0) 1 0x83).rights.getLsbD 6 = false ∧
    s.domOf 3 = some 0 ∧ (s.thread 3).gmail.length < 8 ∧ 8 ≤ (full.thread 3).gmail.length ∧ s.domOf 8 ≠ some 0 ∧
    (demo.thread 0).gmail = [] ∧ (s.thread 3).gmail = 1 :: List.replicate 6 1 ∧ (s.domain 0).store.check 0 0x2005 ≠ 0 ∧
    FMap.find (s.thread 0).gw 7 = none ∧ (s.windowFor g 5).isSome = true ∧ s.windowFor { g with kind := 1 } 5 = none ∧
    (s.thread 0).windowsOf 5 1 = [] := by
  and_intros <;> decide

/-- TranslationInvalidation: ring 0 and ring 3, a core that owes its acknowledgement, and none that does. -/
theorem witness_tinv :
    let op (l : List Nat) : TinvOp := { insn := ins (ri 0 0 1) 2, mode := 2, va := 3, root := 0, wait := l }
    let s := demoT (fun t => { t with tinv := some (op [0, 3]) })
    issuesB demo opTinv (ins (ri 0 0 1) 2) = true ∧ (demo.thread 0).ring = 0 ∧
    issuesB (demoT (fun t => { t with psw := { t.psw with pl := 3 } })) opTinv (ins (ri 0 0 1) 2) = true ∧
    (demo.thread 0).stq = none ∧ (s.core 3).spec = [] ∧
    (s.thread 0).tinv = some (op [0, 3]) ∧ 3 ∈ (op [0, 3]).wait ∧ (op []).wait = [] ∧ (s.thread 0).psw.ss = false := by
  and_intros <;> decide

/-- DeliveryEntersTheHandler and MaskedFaultsEscalate: an event of class 14 through its descriptor at ML 13; the same fault at ML
14 escalates through the descriptor of 0x16. -/
theorem witness_delivery :
    let ml (s : State) (n : Nat) : State := s.onThread 0 (fun t => { t with psw := { t.psw with ml := BitVec.ofNat 4 n } })
    let s := ml (gated 3 256 0x0D (descBytes 0x5000 0 3 14 0 2 0)) 13
    let up := ml (gated 3 256 0x16 (descBytes 0x6000 0 3 15 0 2 0)) 14
    let e := faultEvent s 0 (Flt.mk' 0x0D 1 0)
    descIs s 0x0D (fun d => readyB s 0 e d && decide (d.hip < 2 ^ 48)) = true ∧
    classLevel 0x0D < 15 ∧ classLevel 0x0D ≤ (up.thread 0).psw.ml.toNat ∧
    descIs up 0x16 (readyB up 0 { faultEvent up 0 (Flt.mk' 0x0D 1 0) with code := 0x16, sub := 0x01 }) = true := by
  and_intros <;> decide

/-- EventsAtABoundary: a presented interrupt of level 15 above the mask, a held tile-stream fault, and an error outside and inside
its handler. -/
theorem witness_boundary :
    let src : Src := { level := 15, en := true, pend := true, ovr := false, target := 0 }
    let s := gated 3 512 (sourceCause 0x3FF) (descBytes 0x5000 0 3 14 0 2 0)
    let irq := { s with domains := [(0, { dom0 with srcs := [(0x3FF, src)] })] }
    let held := (gated 3 256 0x13 (descBytes 0x5000 0 3 14 0 2 0)).onThread 0
      (fun t => { t with tile := { t.tile with held := some (0x13, 7) } })
    let e : Event := { code := sourceCause 0x3FF, sub := 0, faddr := BitVec.ofNat 64 (0x3FF + 15 * 2 ^ 16), fip := 0x1000, fprog := 0,
                       retIp := 0x1000, level := some 15, gate := false }
    let clear (s : State) : Bool := (s.thread 0).issues && (s.thread 0).checks.isEmpty && (s.thread 0).trapHere.isNone &&
      !(s.thread 0).deliveryWaits && (s.thread 0).tinv.isNone && (s.thread 0).revoke.isNone && (s.thread 0).prog == 0
    clear irq = true ∧ clear held = true ∧ issuesB irq (Op.plain false .n (fun _ => true)) (ins 0 0) = true ∧
    irq.presented 0 = some (0x3FF, 15) ∧ irq.takeable 0 (sourceCause 0x3FF) 15 = true ∧ irq.domOf 0 = some 0 ∧
    (irq.thread 0).tileFaultDue = none ∧ descIs irq (sourceCause 0x3FF) (readyB irq 0 e) = true ∧
    (held.thread 0).psw.ml.toNat < classLevel 0x13 ∧ (held.thread 0).issues = true ∧
    (let free := held.onThread 0 (fun t => { t with tile := { t.tile with held := none } })
     descIs free 0x13 (readyB free 0 { e with code := 0x13, sub := 7, faddr := (held.thread 0).tile.faddr, level := none }) = true) ∧
    bitOf ((demo.thread 0).sysNat Sys.estat) 10 = false ∧
    bitOf (((demoT (fun t => t.sysSet Sys.estat 0x400)).thread 0).sysNat Sys.estat) 10 = true := by
  and_intros <;> decide

/-! ### The tile extension -/

/-- A tile instruction of thread 0 with escape 0xE8. -/
def tin (op f : Nat) : TileInsn :=
  { thread := 0, prefixes := [], esc := 0xE8, op := BitVec.ofNat 8 op, f := BitVec.ofNat 32 f, i := 0, e := 0 }

/-- Its entry, with `value` captured. -/
def entry (t : TileInsn) (value : Word) : TqEntry := { op := .tile t, ring := 0, value := value, ip := some 0x2000 }

/-- `demo` with tile instructions enabled and thread 0's Tile Queue as given. -/
def tiled (q : List TqEntry) : State :=
  demoT (fun t => { (((t.sysSet Sys.ntxen 1).sysSet Sys.tsblim 0x1000).sysSet (Sys.tcfg 1) 0x401) with tile := { t.tile with queue := q } })

/-- A stream stopped with fault 0x13, subcode 7. -/
def halted (q : List TqEntry) : State :=
  (tiled q).onThread 0 (fun t => t.sysSet Sys.tprog (BitVec.ofNat 64 (2 ^ 63 + 0x13 * 2 ^ 32 + 7 * 2 ^ 40)))

/-- TileQueueInOrderAndJoined: instructions that enter with the queue one short of full; queued WRSR of TSTAT and of TCTL in each
of its cases; a mode change to serve. -/
theorem witness_tile_queue :
    let nop := entry (tin 0x13 0) 0
    let w (n ring v : Nat) : TqEntry := { op := .wrsr n 4, ring := ring, value := BitVec.ofNat 64 v, ip := some 0x2000 }
    let drain := (tiled [w Sys.tctl 0 0x200]).onCore 0 (fun c => { c with modeDrain := some 0 })
    [tin 0x0C 0, tin 0x03 (1 * 2 ^ 11 + 3 * 2 ^ 18), tin 0x07 (1 + 3 * 2 ^ 19), { tin 0x03 3 with esc := 0xE9 }].all (fun t =>
      !t.joins && tileIssuesB (tiled (List.replicate 31 nop)) t) = true ∧
    ((tiled (List.replicate 31 nop)).thread 0).tile.queue.length = 31 ∧
    (tiled [w Sys.tstat 0 7]).tileHead 0 = some (w Sys.tstat 0 7) ∧ (tiled [w Sys.tctl 0 0x200]).tileHead 0 = some (w Sys.tctl 0 0x200) ∧
    bitsOf (w Sys.tctl 0 0x200).value.toNat 9 8 ≠ 3 ∧ bitsOf (w Sys.tctl 0 0x200).value.toNat 9 8 ≠ (demo.core 0).mode ∧
    (tiled [w Sys.tctl 1 0]).tileHead 0 = some (w Sys.tctl 1 0) ∧ bitsOf (w Sys.tctl 0 0x300).value.toNat 9 8 = 3 ∧
    ((tiled [w Sys.tstat 0 7]).thread 0).tile.timed = [] ∧ (drain.thread 0).tile.move = none ∧ (drain.thread 1).tile.move = none ∧
    (drain.core 0).modeDrain = some 0 ∧ drain.getInFlight 0 = false ∧ drain.getInFlight 1 = false ∧
    (drain.thread 0).tile.queue.head? = some (w Sys.tctl 0 0x200) := by
  and_intros <;> decide

/-- The same statement: TWAIT one short of its count, at it, and at it with the error bit; TFENCE; and each joining form. -/
theorem witness_tile_join :
    let e := entry { tin 0x11 2 with i := 5 } 0
    let cnt (v : Nat) : State := ((tiled [e]).onThread 0 (fun t => { t with tile := { t.tile with waiting := true } })).onCore 0
      (fun c => { c with scnt := [(2, BitVec.ofNat 64 v)] })
    let past (s : State) : Nat := ((FMap.get (s.core 0).scnt 2 0).toNat + (2 ^ 32 - 5)) % 2 ^ 32
    let t := entry (tin 0x0C 0) 0
    headB (cnt 4) 0 e { tin 0x11 2 with i := 5 } 0x11 = true ∧ ((cnt 4).thread 0).tile.waiting = true ∧ 2 ^ 31 ≤ past (cnt 4) ∧
    past (cnt 5) = 0 ∧ bitOf (FMap.get ((cnt 5).core 0).scnt 2 0).toNat 32 = false ∧
    bitOf (FMap.get ((cnt (5 + 2 ^ 32)).core 0).scnt 2 0).toNat 32 = true ∧ past (cnt (5 + 2 ^ 32)) < 2 ^ 31 ∧
    headB (tiled [entry (tin 0x13 0) 0]) 0 (entry (tin 0x13 0) 0) (tin 0x13 0) 0x13 = true ∧
    [tin 0x12 0, tin 0x07 (19 * 2 + 63 * 2 ^ 6 + 63 * 2 ^ 12 + 4 * 2 ^ 19), tin 0x17 4].all (tileIssuesB (tiled [])) = true ∧
    bitOf (((tiled []).thread 0).sysNat Sys.tprog) 63 = false ∧ (tiled []).sward 0 = true ∧ 63 < regRows 19 ∧ 63 < rowBytes 19 * 8 / 32 ∧
    [tin 0x12 0, tin 0x12 1, tin 0x16 0, tin 0x16 1, tin 0x16 2].all (tileIssuesB (halted [t])) = true ∧
    bitOf (((halted [t]).thread 0).sysNat Sys.tprog) 63 = true ∧ ((halted [t]).thread 0).tile.held = none ∧
    ((halted [t]).thread 0).tile.queue ≠ [] := by
  and_intros <;> decide

/-- TileRegistersAndStops: TCFG words at the bounds of each check, TZERO of A3, TMOV into the last element of A3 and past the rows
of T0. -/
theorem witness_tile_registers :
    let at_ (op f : Nat) : Bool := headB (tiled [entry (tin op f) 9]) 0 (entry (tin op f) 9) (tin op f) op
    let cfg (type rows sfmt blk : Nat) : Nat := 7 + (type + rows * 2 ^ 4 + sfmt * 2 ^ 12 + blk * 2 ^ 14) * 2 ^ 8
    let c (f : Nat) : Nat := bitsOf f 25 8
    let fixed := (tiled [entry (tin 2 0) 9]).onCore 0 (fun c => { c with mode := 2 })
    let add : TimedOp := { entry := entry (tin 0x0C 0) 0, insn := tin 0x0C 0, at_ := 0, move := none, sys := [], snap := [], rows := [] }
    fixed.tileHead 0 = some (entry (tin 2 0) 9) ∧ (fixed.core 0).mode = 2 ∧ (fixed.thread 0).tile.timed = [] ∧
    (fixed.thread 0).tile.move = none ∧ (16, 4) ∈ add.readsAt 4 ∧
    [cfg 0 0 0 0, cfg 1 1 0 0, cfg 8 64 0 0, cfg 5 64 2 2, cfg 9 1 0 0, cfg 1 0 0 0, cfg 8 65 0 0].all (at_ 1) = true ∧
    bitsOf (c (cfg 0 0 0 0)) 3 0 = 0 ∧ bitsOf (c (cfg 8 64 0 0)) 3 0 = 8 ∧ bitsOf (c (cfg 8 64 0 0)) 10 4 = 64 ∧
    bitsOf (c (cfg 8 64 0 0)) 13 12 = 0 ∧ bitsOf (c (cfg 5 64 2 2)) 13 12 = 2 ∧
    blkOk 5 (bitsOf (c (cfg 5 64 2 2)) 16 14) (bitOf (c (cfg 5 64 2 2)) 17) = true ∧ bitsOf (c (cfg 9 1 0 0)) 3 0 = 9 ∧
    bitsOf (c (cfg 1 0 0 0)) 10 4 = 0 ∧ bitsOf (c (cfg 8 65 0 0)) 10 4 = 65 ∧ at_ 2 19 = true ∧
    at_ 7 (1 + 19 * 2 + 63 * 2 ^ 6 + 63 * 2 ^ 12) = true ∧ at_ 7 (1 + 0 * 2 + 0 * 2 ^ 6 + 64 * 2 ^ 12) = true ∧
    ((tiled [entry (tin 2 0) 9]).thread 0).tile.queue.head? = some (entry (tin 2 0) 9) ∧ (entry (tin 2 0) 9).ip = some 0x2000 := by
  and_intros <;> decide

/-- TileArithmeticIsExact: each row at the head with no numeric trap, products of floats by both selections and of integers, the
conversions at the bounds of TYPE and PART, and members an exact group takes. -/
theorem witness_tile_arithmetic :
    let at_ (op f : Nat) : Bool := headB (tiled [entry (tin op f) 9]) 0 (entry (tin op f) 9) (tin op f) op
    let types (a b : Nat) : State := (tiled []).onThread 0 (fun t =>
      (t.sysSet (Sys.tcfg 0) (BitVec.ofNat 64 (a + 16 * 64))).sysSet (Sys.tcfg 1) (BitVec.ofNat 64 (b + 16 * 64)))
    let ty (s : State) (n : Nat) : Nat := bitsOf ((s.thread 0).sysNat (Sys.tcfg n)) 3 0
    [(0x0C, 0x3F), (0x0D, 0), (0x0E, 4), (0x0F, 4), (0x0A, 0x20), (0x10, 63 * 2 ^ 5), (0x10, 0x10), (0x08, 0x104), (0x08, 0x204),
     (0x08, 4), (0x09, 4), (0x0B, 1 * 2 ^ 5), (0x0B, 11 * 2 ^ 5), (0x0B, 3 * 2 ^ 5 + 2 ^ 9), (0x0B, 4 * 2 ^ 5 + 2 ^ 9)].all
       (fun p => at_ p.1 p.2) = true ∧
    bitOf (((tiled []).thread 0).sysNat Sys.tctl) 4 = false ∧ bitOf (((tiled []).thread 0).sysNat Sys.tctl) 5 = false ∧
    ty (types 1 5) 0 = 1 ∧ ty (types 1 5) 1 = 5 ∧ bitsOf (((types 1 5).thread 0).sysNat (Sys.tcfg 1)) 13 12 = 0 ∧
    ty (types 6 8) 0 = 6 ∧ ty (types 6 8) 1 = 8 ∧
    (∀ x ∈ [Num.fin false 1 0, .fin true 3 2], ∃ n m e, x = .fin n m e ∧ -60 ≤ e) ∧
    (∀ x ∈ [Num.fin false 1 0, .fin true 3 2], ∀ n m e, x = .fin n m e → m ≠ 0 → e + (bitLen m : Int) - 1 - 65 ≤ -60) ∧
    (∃ x ∈ [Num.fin false 1 0, .fin true 3 2], ∃ n m e, x = .fin n m e ∧ m ≠ 0) ∧
    [Num.fin false 1 0, .fin true 3 2].Perm [.fin true 3 2, .fin false 1 0] ∧ (List.replicate 32 (exactOut 0)).length = 32 := by
  refine ⟨by decide, by decide, by decide, by decide, by decide, by decide, by decide, by decide, ?_, ?_, ?_, by decide, by decide⟩
  · intro x hx
    simp only [List.mem_cons, List.not_mem_nil, or_false] at hx
    rcases hx with h | h <;> exact ⟨_, _, _, h, by decide⟩
  · intro x hx n m e h hm
    simp only [List.mem_cons, List.not_mem_nil, or_false] at hx
    rcases hx with h' | h' <;> (rw [h] at h'; injection h' with _ h1 h2; subst h1; subst h2; decide)
  · exact ⟨_, List.mem_cons_self, _, _, _, rfl, by decide⟩

/-- `LinesHeld` as a test. -/
def linesHeldB (s : State) (g a n : Nat) (own : Bool) : Bool :=
  (upFrom (a / 64) ((a + n + 63) / 64 - a / 64)).all (fun l => (FMap.find (s.core (g / 2)).l2 l).any (fun st => !own || st != .shared))

theorem mem_upFrom_of (l a n : Nat) (h1 : a ≤ l) (h2 : l < a + n) : l ∈ upFrom a n := by
  induction n generalizing a with
  | zero => omega
  | succ k ih =>
    unfold upFrom
    rcases Nat.lt_or_ge a l with h | h
    · exact List.mem_cons_of_mem _ (ih (a + 1) (by omega) (by omega))
    · exact List.mem_cons.mpr (.inl (by omega))

theorem linesHeld_of (s : State) (g a n : Nat) (own : Bool) (h : linesHeldB s g a n own = true) : LinesHeld s g a n own := by
  intro l h1 h2
  have := List.all_eq_true.mp h l (mem_upFrom_of _ _ _ h1 (by omega))
  simp only [Option.any_eq_true, Bool.or_eq_true, Bool.not_eq_true', bne_iff_ne] at this
  grind

/-- `tiled` with the move of its head set up, and the lines of 4 KiB from 0x4000 and of the first KiB held by core 0. -/
def moving (e : TqEntry) (m : Option TileMove) : State :=
  ((tiled [e]).onThread 0 (fun t => { t with tile := { t.tile with move := m } })).onCore 0 (fun c =>
    { c with l2 := (upFrom 0 16 ++ upFrom 0x100 8).map (fun l => (l, .modified)) })

/-- A move of register `code` from row `row0`, `nrow` rows, at `base`. -/
def move (code row0 nrow base : Nat) (tsb : Bool) : TileMove :=
  { code := code, row0 := row0, nrow := nrow, base := base, stride := 64, tsb := tsb, win := 0, e := 0 }

theorem setUp_of_move (s : State) (e : TqEntry) (t : TileInsn) (m : TileMove) (h : (s.thread 0).tile.move = some m)
    (k : TileMove → State → State) : s.moveSetup 0 e t k = k m s := by simp [State.moveSetup, h]

/-- TileMemoryMovesAndSaves: a move between T0 and the last row of the TSB window, one between A3 and DRAM that the core holds,
one row of two, an instruction and a descriptor that give a move, and a first row past the window. -/
theorem witness_tile_moves :
    let tsb := tin 3 (1 * 2 ^ 11 + 3 * 2 ^ 18 + 2 ^ 24)
    let mem := { tin 6 (19 + 63 * 2 ^ 5 + 1 * 2 ^ 11 + 3 * 2 ^ 18) with i := 0x40 }
    let desc := { tin 4 3 with esc := 0xE9 }
    let s (t : TileInsn) (v : Word) (m : Option TileMove) : State :=
      { moving (entry t v) m with dram := Mem.write [] 0x4000 (leBytes 8 0x4000 ++ leBytes 8 0 ++ leBytes 8 (2 * 2 ^ 11) ++ leBytes 8 0) }
    let q (o : Nat) : Nat := leNat (Mem.read (s desc 0x4000 none).dram (0x4000 + o) 8)
    let inTsb := s tsb 0xFC0 (some (move 0 0 1 0xFC0 true))
    let inMem := s mem 0x4000 (some (move 19 62 2 0x4000 false))
    headB inTsb 0 (entry tsb 0xFC0) tsb 3 = true ∧ headB inMem 0 (entry mem 0x4000) mem 6 = true ∧
    headB (s desc 0x4000 none) 0 (entry desc 0x4000) desc 4 = true ∧ (inTsb.thread 0).tile.resume = 0 ∧
    (move 0 0 1 0xFC0 true).at_ 0 + rowBytes 0 = bitsOf ((inTsb.thread 0).sysNat Sys.tsblim) 19 12 * 4096 ∧
    (inTsb.core 0).poison = [] ∧ bitsOf tsb.fw 10 5 + bitsOf tsb.fw 17 11 ≤ regRows (tsb.fw % 32) ∧
    OwnDram inMem 0 ((move 19 62 2 0x4000 false).at_ 0) 256 ∧ LinesHeld inMem 0 ((move 19 62 2 0x4000 false).at_ 0) 256 true ∧
    OwnDram (s desc 0x4000 none) 0 0x4000 32 ∧ LinesHeld (s desc 0x4000 none) 0 0x4000 32 false ∧
    q 0 = 0x4000 ∧ q 16 = 2 * 2 ^ 11 ∧ q 24 = 0 ∧ ((s desc 0x4000 none).thread 0).tile.move = none ∧
    0x1000 ≤ (move 0 0 1 0x1000 true).at_ 0 := by
  with_reducible and_intros
  all_goals
    first
    | decide
    | exact own_of_demo _ _ _ (by decide) (by decide) (by decide) (by decide) (by decide) (by decide) (by decide)
    | exact linesHeld_of _ _ _ _ _ (by decide)

set_option maxRecDepth 4000 in
/-- The same statement: TSAVE of an empty and of a stopped stream, and TRSTR of a header that passes and of one of another FORMAT.
-/
theorem witness_tile_saves :
    let hold (s : State) : State := s.onCore 0 (fun c => { c with l2 := (upFrom 0 16).map (fun l => (l, .modified)) })
    let s := hold (tiled [])
    let h := hold (halted [entry (tin 0x0C 0) 0])
    let hdr (w : Nat) : List Byte := leBytes 8 w ++ List.replicate 1016 0
    let held (s : State) : Bool := (saveUnits 0).all (fun off => linesHeldB s 0 off 64 true)
    tileIssuesB s (tin 0x14 0) = true ∧ tileIssuesB s (tin 0x15 0) = true ∧ tileIssuesB h (tin 0x14 0) = true ∧
    (s.thread 0).tile.queue = [] ∧ bitOf ((h.thread 0).sysNat Sys.tprog) 63 = true ∧ s.sward 0 = true ∧ h.sward 0 = true ∧
    (s.thread 0).tile.timed = [] ∧ (s.thread 0).tile.inuse = 0 ∧ held s = true ∧ held (tileFetched s (tin 0x14 0)) = true ∧
    bitOf ((s.thread 0).sysNat Sys.txprog) 0 = false ∧ OwnDram s 0 0 0x19400 ∧ OwnDram h 0 0 0x19400 ∧
    headerCheck 0 (hdr 1) = .ok [] ∧ headerCheck 0 (hdr 2) = .error 0x0A := by
  with_reducible and_intros
  all_goals
    first
    | decide
    | rfl
    | exact own_of_demo _ _ _ (by decide) (by decide) (by decide) (by decide) (by decide) (by decide) (by decide)

/-! ### Speculation, sources, the Stream engine -/

/-- A load of thread 0 that has run ahead, of line 9, ready to be installed. -/
def ahead (fromL2 : Bool) : SpecOp :=
  { acc := { thread := 0, va := 576, size := 8, fetch := false, uops := 1, loads := 1, stores := 0 }, dom := 0, line := 9, walk := [],
    at_ := .ready, sfb := true, fromL2 := fromL2, miss := !fromL2, data := List.replicate 64 0, put := false, redone := false, dead := false }

/-- SpeculationAndSources: loads ready to be installed from L2 and from beyond, with the bytes of memory and with others; a
request that waits at a full queue; a miss with its data; SETPEND at the bounds of its ranges, an MSI and a timer that is due. -/
theorem witness_speculation :
    let s (o : SpecOp) : State := { demo.onCore 0 (fun c => { c with spec := [o], l2 := [(9, .shared)], l2use := [(9, dramTag)] }) with
      stops := [(.rds, { line := 0, req := 1, domain := 0, off := 0, bytes := [] })],
      lines := [(0, { HomeLine.reset with txn := some { kind := .rds, req := 2, dom := 0, off := 0, bytes := [], wait := [0] } })] }
    let found (s : State) : Option SpecOp :=
      (s.core 0).spec.find? (fun o => o.acc.thread == 0 && o.line == 9 && o.at_ == .ready && !o.put && !o.dead && !o.acc.fetch)
    let u := s (ahead true)
    let m : Miss := { slice := 0, chan := 0, dom := 0, line := 0, ddr := 1 }
    let t := { demoT (fun t => (t.sysSet Sys.tmrctl 1).sysSet Sys.tmrcmp 5) with timeBase := 5 }
    let n (v : Nat) : Nat := bitsOf (store8 0x08002000 v).value.toNat 9 0
    (u.thread 0).run = .running ∧ found u = some (ahead true) ∧ (u.core 0).l2use.find? (fun e => e.1 == 9) = some (9, dramTag) ∧
    found (s (ahead false)) = some (ahead false) ∧ FMap.has ((s (ahead false)).core 0).l2 9 = true ∧
    (ahead false).part (ahead false).data = (ahead false).part ((s (ahead false)).lineBytes 9) ∧
    (ahead false).part (List.replicate 64 1) ≠ (ahead false).part ((s (ahead false)).lineBytes 9) ∧
    homeOf 0 = 0 ∧ u.queueUsed 0 < 256 ∧ (u.line 0).txn.isSome = true ∧ ({ demo with misses := [m] } : State).missWait = [] ∧ m.ddr = 1 ∧
    reachesB u (store8 0x08002000 0x010) (.dist 0 0x2000) = true ∧ (u.domain 0).valid = true ∧
    n 0x010 = 0x010 ∧ n 0x0FF = 0x0FF ∧ n 0x300 = 0x300 ∧ n 0x3FF = 0x3FF ∧ n 0x00F = 0x00F ∧ n 0x100 = 0x100 ∧ n 0x2FF = 0x2FF ∧
    (u.port 0).exists_ = true ∧ (u.domain 0).ports.getLsbD 0 = true ∧ (∀ e, e < 0 → (u.domain e).valid = true → False) ∧
    t.domOf 0 = some 0 ∧ bitOf ((t.thread 0).sysNat Sys.tmrctl) 0 = true ∧ (t.thread 0).sysNat Sys.tmrcmp ≤ t.timeBase := by
  and_intros <;> decide

/-- `demo` with descriptor `n` of core 0 as given and thread 0's TSB window 0x0000–0x0FFF. -/
def streams (n : Nat) (d : Desc) : State :=
  (demoT (fun t => t.sysSet Sys.tsblim 0x1000)).onCore 0 (fun c => { c with descs := [(n, d)] })

/-- DescriptorRegistersAndLaunch: stores to each register of descriptor 15, launches at and past the window's end, of no lines, on
a core of another thread's, a busy descriptor, and SRCCFG of the last source. -/
theorem witness_descriptors :
    let d (lines rows dst : Nat) : Desc := { Desc.reset with shape := BitVec.ofNat 64 (lines + rows * 2 ^ 16), dst := BitVec.ofNat 64 dst }
    let at_ (r : Nat) : Nat := 0x07000100 + 0x40 * 15 + r
    let s := streams 15 (d 1 1 0xFC0)
    [0x00, 0x08, 0x10, 0x18, 0x20, 0x28].all (fun r => reachesB s (store8 (at_ r) 1) (.stream 0 (0x100 + 0x40 * 15 + r))) = true ∧
    (FMap.get (s.core 0).descs 15 Desc.reset).state ≠ 1 ∧ (store8 0 1).value.toNat % 4 = 1 ∧ (store8 0 2).value.toNat % 4 = 2 ∧
    bitsOf (d 1 1 0).shape.toNat 13 0 = 1 ∧ bitsOf (d 8192 8192 0).shape.toNat 13 0 = 8192 ∧
    bitsOf (d 8192 8192 0).shape.toNat 29 16 = 8192 ∧ bitsOf (d 0 1 0).shape.toNat 13 0 = 0 ∧ (d 1 1 0xFC0).dst.toNat + 64 * 1 = 0x1000 ∧
    bitsOf ((s.thread 0).sysNat Sys.tsblim) 19 12 * 4096 = 0x1000 ∧
    reachesB s (store8 (0x07010128) 1) (.stream 1 0x128) = true ∧
    (FMap.get ((streams 15 { d 1 1 0 with state := 1 }).core 0).descs 15 Desc.reset).state = 1 ∧
    (d 1 1 0).ending = none ∧ (d 1 1 0).flight = [] ∧ s.loam.stackMap = [] ∧
    { d 1 1 0 with flight := [{ row := 0, at_ := 0, left := 1, marked := false }] }.flight ≠ [] ∧
    reachesB s (store8 (0x08000000 + 8 * 1023) 0x1F) (.dist 0 (8 * 1023)) = true := by
  and_intros <;> decide

/-- StreamTransfers: a request from the domain's DRAM, one that fails its check, a descriptor with every row issued, and both
sides of the TSB aperture. -/
theorem witness_streams :
    let d : Desc := { Desc.reset with state := 1, shape := 0x10001, src := 0x4000 }
    let s := streams 15 d
    let bad := streams 15 { d with src := 0x40000000 }
    (s.core 0).serveNext = some 15 ∧ OwnDram s 0 0x4000 64 ∧ s.missOk 0x100 0 = true ∧ (s.domOf 0).getD 64 = 0 ∧ d.flight = [] ∧
    d.ending = none ∧ (bad.core 0).serveNext = some 15 ∧
    (bad.check 0 0 Need.blockLd 0x40000000 64).isOk = false ∧
    bitsOf d.shape.toNat 29 16 ≤ { d with row := 1 }.row ∧ reachesB s (store8 0x0700FFF8 1) (.stream 0 0xFFF8) = true ∧
    reachesB s (store8 0x07008000 1) (.stream 0 0x8000) = true ∧ ((s.core 0).apbase * 0x8000 + (0x8000 - 0x8000)) / 64 ∉ (s.core 0).poison := by
  refine ⟨by decide, ?_, by decide, by decide, by decide, by decide, by decide, by decide⟩
  exact own_of_demo _ _ _ (by decide) (by decide) (by decide) (by decide) (by decide) (by decide) (by decide)

/-! ### Coherence -/

/-- `demo` with line 0 at its home as given and one message on its way. -/
def homed (x : HomeLine) (m : List CohMsg) : State := { demo with lines := [(0, x)], msgs := m }

/-- `Arrives` as a test. -/
def arrivesB (s : State) (k : CohKind) (r : CohReq) : Bool :=
  s.sends (k, r) && (s.line r.line).txn.isNone && (s.line r.line).waiting.isEmpty && (s.line r.line).blocked == .none &&
    !s.missWait.contains r.line && s.proxyMay r.line k && decide (s.queueUsed (homeOf r.line) < 256) &&
    s.stops.all (fun e => homeOf e.2.line != homeOf r.line) &&
    (!s.readsDram r.line (queuedReq s k r) || s.missOk r.line (s.reqDom r)) &&
    (s.localCore r.req).all (fun c => !(s.core c).busy r.line)

theorem arrivesB_iff (s : State) (k : CohKind) (r : CohReq) : arrivesB s k r = true ↔ Arrives s k r := by
  simp only [arrivesB, Arrives, Bool.and_eq_true, Bool.or_eq_true, Bool.not_eq_true', decide_eq_true_eq, List.all_eq_true,
    Option.all_eq_true, bne_iff_ne, beq_iff_eq, Option.isNone_iff_eq_none, List.isEmpty_iff, and_assoc, ← List.contains_iff_mem,
    ← Bool.not_eq_true]
  grind

/-- HomeOrdersEachLine: a request opens at a line that is invalid, shared with and without its requester, and owned; one finds its
set of the directory full; two reach one line in a cycle; each L2 state is evicted, with the write-back buffer one short of full
and full. -/
theorem witness_home_requests :
    let r (c : Nat) : CohReq := { line := 0, req := c, domain := 0, off := 0, bytes := [] }
    let st (d : DirSt) : State := homed { HomeLine.reset with dir := d } []
    let from_ (k : CohKind) : Bool :=
      ([DirSt.invalid, .shared [3], .shared [4, 5], .owned 4].all (fun d => arrivesB (st d) k (r 3)))
    let set : List Nat := (List.range 16).map (fun i => (i + 1) * 65 * 64 * 8192)
    let full : State := { st .invalid with
      dirUse := set, lines := (0, HomeLine.reset) :: set.map (fun l => (l, { HomeLine.reset with dir := .shared [5] })) }
    let busy := homed { HomeLine.reset with txn := some { kind := .rds, req := 9, dom := 0, off := 0, bytes := [], wait := [4] } } []
    let c (l : LineSt) (n : Nat) : Core := { Core.reset with l2 := [(9, l)], wb := (List.range n).map (fun k => (k, true)) }
    [CohKind.rds, .rdx].all from_ = true ∧ arrivesB ((st (.shared [3])).onCore 3 (fun c => { c with l2 := [(0, .shared)] })) .upg (r 3) = true ∧
    (st .invalid).dirVictim 0 = none ∧ arrivesB full .rds (r 3) = true ∧ full.dirVictim 0 = some (16 * 65 * 64 * 8192) ∧
    (full.line (16 * 65 * 64 * 8192)).dir.holders = [5] ∧ (full.line (16 * 65 * 64 * 8192)).txn = none ∧
    busy.sends (.rdx, r 3) = true ∧ busy.sends (.rdx, r 60) = true ∧ (busy.core 3).busy 0 = false ∧ (busy.core 60).busy 0 = false ∧
    busy.localCore 3 ≠ busy.localCore 60 ∧ busy.queueUsed 0 < 255 ∧
    (busy.arrivalPort 3 0 < busy.arrivalPort 60 0 ∨ busy.arrivalPort 60 0 < busy.arrivalPort 3 0) ∧
    (c .shared 0).wb.length = 0 ∧ (c .exclusive 15).wb.length = 15 ∧ FMap.find (c .modified 16).l2 9 = some .modified ∧
    (c .modified 16).wb.length = 16 := by with_reducible and_intros <;> decide

/-- The same statement: the last answer to each kind of transaction, and a notice at a line whose transaction is open, that its
sender holds, and that it does not hold. -/
theorem witness_home_answers :
    let m (k : MsgKind) : CohMsg := { kind := k, line := 0, peer := 4, req := none, held := false, data := [] }
    let t (k : ReqKind) : Txn := { kind := k, req := 3, dom := 0, off := 0, bytes := List.replicate 64 1, wait := [4] }
    let txn (k : ReqKind) (d : DirSt) : HomeLine := { HomeLine.reset with dir := d, txn := some (t k) }
    let arrives (k : MsgKind) (x : HomeLine) : Bool := (homed x [m k]).arriving k 0 4 == some (m k)
    let open_ := homed (txn .rds (.owned 4)) []
    [MsgKind.fwdack, .fwdackd, .fwdnak].all (fun k =>
      [ReqKind.rds, .rdx, .upg, .wrl, .rdna, .free].all (fun r => arrives k (txn r (.owned 4)) && arrives k (txn r (.shared [4])))) = true ∧
    (open_.line 0).txn = some (t .rds) ∧ (t .rds).wait = [4] ∧ (open_.line 0).waiting = [] ∧ 4 ∉ (open_.line 0).notices ∧
    open_.entryWaiters 0 = [] ∧ (t .wrl).bytes.length = 64 ∧ open_.holderOf 3 = 3 ∧ open_.outside 4 = false ∧
    [MsgKind.wbm, .eve, .evs].all (fun k => arrives k (txn .rds (.owned 4)) && arrives k { HomeLine.reset with dir := .owned 4 } &&
      arrives k { HomeLine.reset with dir := .shared [4, 5] } && arrives k { HomeLine.reset with dir := .shared [4] } &&
      arrives k HomeLine.reset) = true := by with_reducible and_intros <;> decide

/-- HoldersAndRequesters: each forward at a core that holds the line in each state, whose copy waits in the write-back buffer,
that no longer has it, and that wants it; each response at its requester, and the copy of a non-allocating read at a load, a fetch
and nobody. -/
theorem witness_holders :
    let m (k : MsgKind) : CohMsg := { kind := k, line := 9, peer := 4, req := some 3, held := false, data := [] }
    let want : FMap Want := [(9, { kind := .rdx, off := 0, bytes := [7] })]
    let s (k : MsgKind) (l : FMap LineSt) (wb : FMap Bool) (w : FMap Want) (o : List SpecOp) : State :=
      { demo.onCore 4 (fun c => { c with l2 := l, wb := wb, want := w, spec := o }) with msgs := [m k] }
    let arrives (k : MsgKind) (l : FMap LineSt) (wb : FMap Bool) (w : FMap Want) : Bool :=
      (s k l wb w []).arriving k 9 4 == some (m k) && (s k l wb w []).localCore 4 == some 4
    let sent (fetch : Bool) : SpecOp := { ahead false with at_ := .sent, acc := { (ahead false).acc with thread := 8, fetch := fetch } }
    let asked (o : List SpecOp) : Option SpecOp := ((s .datana [] [] [] o).core 4).spec.find? (fun o => o.at_ == .sent && o.line == 9)
    [MsgKind.fwds, .fwdx, .fwdna, .inv, .binv].all (fun k =>
      [LineSt.shared, .exclusive, .modified].all (fun st => arrives k [(9, st)] [] []) && arrives k [] [(9, true)] [] && arrives k [] [] [] &&
      arrives k [] [] want) = true ∧
    [MsgKind.datas, .datae, .datax, .grantx, .datana].all (fun k => arrives k [] [] want) = true ∧
    [MsgKind.wback, .wbstale].all (fun k => arrives k [] [(9, true)] []) = true ∧
    FMap.has ((s .fwds [] [] want []).core 4).want 9 = true ∧ FMap.has ((s .fwds [] [] [] []).core 4).want 9 = false ∧
    ((s .datas [] [] want []).core 4).later = [] ∧ ((s .datas [] [] want []).core 4).victim2 (9, dramTag) = none ∧
    asked [] = none ∧ asked [sent false] = some (sent false) ∧ asked [sent true] = some (sent true) ∧ (sent true).dead = false := by
  with_reducible and_intros <;> decide

/-! ### Loam -/

/-- A revision of volume 4 with one unit written. -/
def revision (n pins : Nat) : Revision :=
  { number := n, units := [(0, 2048 * 300)], tops := [(0, 2048 * 5)], leaves := [(0, 2048 * 6)], bytes := [], pins := pins }

/-- `demo` with volume 4 of 2 MiB at Loam offset 0 holding the revisions given, and stack 0 as given. -/
def loamed (rs : List Revision) (cur : Option Nat) (x : Stack) : State :=
  { demo with loam := { Loam.reset with
      stackMap := [(0, { x with ready := true })]
      volumes := [(4, { vbase := 0, vlen := 0x200000, current := cur, lastRev := 7, deleting := false, revs := rs })] } }

/-- A read of thread 0 for the first line of volume 4. -/
def lineReq : LoamReq := { domain := 0, dest := .scalar 0, offset := 0, volume := 4, revision := 7 }

/-- A page-read entry of domain 0 with the codewords given. -/
def reading (stage : Nat) (sensed : Bool) (tried good failing : List Nat) : PageRead :=
  { entry := 9, domain := 0, page := 2048 * 300, stage := stage, volume := 4, rev := 7, unit := 0, reqs := [lineReq], sensed := sensed,
    tried := tried, good := good, failing := failing }

/-- LoamReads: a unit never written, one whose top page is not cached, a stack that is not ready, a sense at its turn and behind a
program, codewords short of eight and the eighth, a retry step that fixes none, one that ends the read and one with no setting
left, and a store to LCLR. -/
theorem witness_loam_reads :
    let s := (loamed [revision 7 0] (some 7) Stack.reset).onThread 0 (fun t => { t with hold := .loam })
    let at_ (e : PageRead) : State := loamed [revision 7 0] (some 7) { Stack.reset with reads := [e] }
    let found (e : PageRead) : Prop :=
      ((at_ e).stack 0).reads.find? (fun y => y.entry == 9) = some e ∧ ((at_ e).stack 0).waiting = [] ∧ e.stage = 0
    let b := ((at_ (reading 0 true [0] [] [])).stack 0).block 300
    let program : Prog := { page := 2048 * 300, what := .compact 4, started := true }
    let sense := reading 0 false [0] [] []
    let last := [1, 2, 3, 4, 5, 6, 7]
    s.loamDue lineReq = true ∧ s.loamDue { lineReq with dest := .other 0 } = true ∧ (s.stack 1).ready = false ∧
    loamStack { lineReq with offset := 16384 } = 1 ∧ loamStack lineReq = 0 ∧
    ((s.volume 4).rev 7).isSome = true ∧ (s.stack 0).ready = true ∧ (s.stack 0).state ≠ 2 ∧
    FMap.find (revision 7 0).tops 1 = none ∧ FMap.find (revision 7 0).tops 0 = some (2048 * 5) ∧ (4, 7) ∉ (s.stack 0).mapTop ∧
    (s.stack 0).reads = [] ∧ s.loamAdmits 0 0 = true ∧ (s.stack 0).waiting = [] ∧
    ((at_ sense).stack 0).leads sense = true ∧
    Stack.leads { Stack.reset with reads := [reading 2 false [0] [] [], { reading 2 false [0] [] [] with entry := 10 }] }
      { reading 2 false [0] [] [] with entry := 10 } = false ∧
    found sense ∧ ((at_ sense).stack 0).planeFirst sense = true ∧ ((at_ sense).stack 0).programs = [] ∧
    Stack.programming { (at_ sense).stack 0 with programs := [program] } 1 = true ∧ planeOf (slotOf sense.page) = 1 ∧
    found (reading 0 true [0] [1, 2, 3, 4, 5] []) ∧ found (reading 0 true [0] last []) ∧ 0 ∈ loamCodewords lineReq ∧
    ((at_ (reading 0 true [0] [1] [])).core 0).victim2 (loamLine lineReq) = none ∧ lineReq.dest = .scalar 0 ∧
    found (reading 0 true [0] last [0]) ∧ b.ranking.find? (fun k => !([0].contains k)) = some 1 ∧
    found (reading 0 true [0, 1, 2, 3, 4, 5, 6, 7] last [0]) ∧ b.ranking.find? (fun k => !([0, 1, 2, 3, 4, 5, 6, 7].contains k)) = none ∧
    lineReq.domain = 0 ∧ reachesB s (store8 0x01040040 1) (.lc 0 0 0x040) = true := by
  and_intros <;> decide

/-- An update session of volume 4. -/
def session (d : Nat) : Session :=
  { number := 5, volume := 4, domain := d, grant := 0, staged := [], bytes := [], ops := [], nextOp := 0, commit := false,
    reply := none, made := none, root := none }

/-- A state with a session and internal commits under way. -/
def updating (s : State) (z : List Session) (k : List Compact) : State := { s with loam := { s.loam with sessions := z, compacts := k } }

set_option maxRecDepth 8000 in
/-- LoamCommands: LVCREATE beside and over an extent, LVRESIZE larger, smaller with and without a revision and below a root grant,
LVDELETE of a pinned volume, LOPEN with and without a session of the volume. -/
theorem witness_loam_volumes :
    let s := loamed [revision 7 1] (some 7) Stack.reset
    let o := updating s [session 64] []
    let le (n v : Nat) : List Byte := leBytes n v
    let wide (rs : List Revision) (cur : Option Nat) : State :=
      let s := loamed rs cur Stack.reset
      s.onVolume 4 (fun x => { x with vlen := 0x400000 })
    let shrink := req (le 2 4 ++ le 8 0x200000)
    let rooted : State := { wide [] none with domains := [(0, { dom0 with
      roots := [3]
      store := { entries := [(3, { Grant.reset with inUse := true, kind := 1, object := 4, base := 0x200000, len := 0x200000 })]
                 fresh := 4, freed := [] } })] }
    takenB s 0x206 (req (le 2 1023 ++ le 8 0x200000 ++ le 8 0x200000)) = true ∧ extentOk 0x200000 0x200000 = true ∧
    (s.volume 1023).vlen = 0 ∧ rangesMeet 0x200000 0x200000 0 0x200000 = false ∧ (∀ n, n < 8 → (s.stack n).state ≠ 1 ∧ (s.stack n).state ≠ 2) ∧
    (s.volume 4).vlen ≠ 0 ∧ (s.volume 4).deleting = false ∧ s.volumeBusy 4 = false ∧
    takenB s 0x207 (req (le 2 4 ++ le 8 0x400000)) = true ∧ extentOk 0 0x400000 = true ∧ (s.volume 4).vlen < 0x400000 ∧
    takenB (wide [] none) 0x207 shrink = true ∧ (wide [] none).rootBeyond 4 0x200000 = false ∧ (wide [] none).loam.sessions = [] ∧
    ((wide [] none).volume 4).now = none ∧ ((wide [revision 7 0] (some 7)).volume 4).now = some (revision 7 0) ∧
    (revision 7 0).units.all (fun u => decide (u.1 * 16384 < 0x200000)) = true ∧
    ((wide [revision 7 0] (some 7)).shrink 4 0x200000 ({ iface := .mgmt, tag := 1, code := 0x207 }, shrink.params)).isSome = true ∧
    takenB rooted 0x207 shrink = true ∧ rooted.rootBeyond 4 0x200000 = true ∧
    takenB s 0x208 (req (le 2 4)) = true ∧ (revision 7 1) ∈ (s.volume 4).revs ∧ (revision 7 1).pins ≠ 0 ∧
    takenB s 0x201 (req (le 2 4 ++ le 1 0)) = true ∧ s.loam.sessions = [] ∧ session 64 ∈ o.loam.sessions ∧ (session 64).volume = 4 := by
  and_intros <;> decide

set_option maxRecDepth 8000 in
/-- The same statement: LSTAGE inside and past the volume, LZERO, LABORT with and without a session and of a thread with no
window, LPARAM and LHEALTH inside and outside their ranges. -/
theorem witness_loam_commands :
    let s := loamed [revision 7 1] (some 7) Stack.reset
    let o := updating s [session 64] []
    let le (n v : Nat) : List Byte := leBytes n v
    let stage (n : Nat) : SynryReq := req (le 2 5 ++ le 4 0 ++ le 4 n ++ le 8 0x4000)
    takenB o 0x202 (stage 128) = true ∧ (0 + 128) * 16384 = (o.volume 4).vlen ∧ (o.volume 4).vlen < (0 + 129) * 16384 ∧
    o.sourceOk 64 0x4000 (2 * 16384) = true ∧ (o.takePages (upFrom 0 2)).isSome = true ∧
    (∀ n, o.headroom n + ((upFrom 0 2).filter (fun u => u % 8 == n)).length ≤ headroomMax) ∧
    takenB o 0x203 (req (le 2 5 ++ le 4 0 ++ le 4 128)) = true ∧ takenB o 0x205 (req (le 2 5)) = true ∧
    o.loam.sessions.find? (fun z => z.number == 5 && z.domain == 64 && !z.commit) = some (session 64) ∧
    takenB s 0x205 (req (le 2 5)) = true ∧ s.loam.sessions.find? (fun z => z.number == 5 && z.domain == 64 && !z.commit) = none ∧
    o.mayUpdate (req (le 2 5)) (session 64) 0 0 = true ∧
    takenB (updating s [session 0] []) 0x205 { req (le 2 5) with iface := .mailbox 0 1 0 0 } = true ∧
    (updating s [session 0] []).mayUpdate { req (le 2 5) with iface := .mailbox 0 1 0 0 } (session 0) 0 0 = false ∧
    takenB s 0x209 (req [24, 40, 32]) = true ∧ lparamOk 24 40 32 = true ∧ lparamOk 0 40 32 = false ∧
    takenB s 0x20A (req [7]) = true ∧ takenB s 0x20A (req [8]) = true := by
  have room (n : Nat) : (updating (loamed [revision 7 1] (some 7) Stack.reset) [session 64] []).headroom n = 0 := by
    cases n with
    | zero => decide
    | succ n => exact Nat.zero_sub _
  have stage (n : Nat) : 0 + ((upFrom 0 2).filter (fun u => u % 8 == n)).length ≤ headroomMax :=
    Nat.le_trans (Nat.add_le_add_left (List.length_filter_le _ _) _) (by decide)
  and_intros <;> first | decide | exact fun n => (room n).symm ▸ stage n

/-- CommitMakesARevision: LCOMMIT of an empty session, a commit whose root record is at its commit point, the switch of an
internal commit, and a revision to free. -/
theorem witness_commit :
    let s (z : Session) (k : List Compact) : State := updating (loamed [revision 7 0, revision 6 0] (some 7) Stack.reset) [z] k
    let z := session 64
    let c := req (leBytes 2 5)
    let made := { z with commit := true, made := some (revision 8 0), root := some 0, reply := some { iface := .mgmt, tag := 1, code := 0x204 } }
    let k : Compact := { volume := 4, made := revision 7 0, vlen := none, reply := none, root := some 0 }
    takenB (s z []) 0x204 c = true ∧ (s z []).sessionOf c = some z ∧ (s z []).mayUpdate c z 0 0 = true ∧ z.staged = [] ∧
    (∀ n, n < 8 → ((s z []).stack n).state ≠ 1 ∧ ((s z []).stack n).state ≠ 2) ∧ (s z []).programsOf 5 = false ∧
    (s z []).volumeBusy 4 = false ∧
    (s made []).loam.sessions.find? (fun z => z.volume == 4 && z.commit) = some made ∧ seqLarger 0 (s made []).seed.done = false ∧
    (s made []).smc.waiting = [] ∧
    (s z [k]).loam.sessions.find? (fun z => z.volume == 4 && z.commit) = none ∧
    (s z [k]).loam.compacts.find? (fun z => z.volume == 4) = some k ∧ ((s z [k]).volume 4).now = some (revision 7 0) ∧
    k.made.number = (revision 7 0).number ∧
    ((s z []).volume 4).rev 6 = some (revision 6 0) ∧ ((s z []).volume 4).current ≠ some 6 ∧ ((s z []).volume 4).deleting = false ∧
    (s z []).revisionIdle 4 6 = true := by
  and_intros <;> decide

set_option maxRecDepth 8000 in
/-- LoamKeeping: a started program whose internal commit is gone, a stale block one cycle short of its limit, an erase that runs
and one suspended, a block at its sense limit, and a sound patrol result. -/
theorem witness_loam_keeping :
    let b (st : BlockSt) (used live cycles senses : Nat) : Block := { Block.reset with st := st, used := used, live := live, cycles := cycles, senses := senses }
    let x (b : Block) : Stack := { Stack.reset with blocks := [(300, b)] }
    let s (b : Block) : State := loamed [] none (x b)
    let r : PatrolResult := { stack := 0, slot := 300, retried := false, corrected := 40, uncorrect := false, learn := 7, ranking := [1, 2, 3, 4, 5, 6, 7] }
    let prog : Prog := { page := 5, what := .compact 4, started := true }
    let done := loamed [] none { Stack.reset with programs := [prog] }
    (done.stack 0).programs.find? (fun g => g.page == 5 && g.started) = some prog ∧ done.loam.compacts = [] ∧ done.smc.waiting = [] ∧
    slotOk 300 = true ∧
    ((s (b .inUse 1536 0 4999 0)).stack 0).stale 300 = true ∧ ((s (b .inUse 1536 0 4999 0)).stack 0).eraseIn 1 = false ∧
    ((s (b .inUse 1536 0 4999 0)).stack 0).senses 1 = false ∧ ((s (b .inUse 1536 0 4999 0)).stack 0).temp < 105 ∧
    ((s (b .erasing 1 0 1 0)).stack 0).block 300 = b .erasing 1 0 1 0 ∧ ((s (b .erasing 1 0 1 0)).stack 0).programs = [] ∧
    ((s (b .suspended 1 0 1 0)).stack 0).ready = true ∧ ((s (b .suspended 1 0 1 0)).stack 0).reads = [] ∧
    (s (b .inUse 9 9 1 20000000)).mayRelocate 0 300 = true ∧
    (((s (b .inUse 9 9 1 20000000)).stack 0).leastWorn (((s (b .inUse 9 9 1 20000000)).stack 0).freeSlots 1 false)).isSome = true ∧
    metaSlot 300 = false ∧
    rankingOk r.ranking = true ∧ r.corrected ≤ (s (b .inUse 9 9 1 0)).loam.refreshBits ∧ r.learn < 8 ∧ 0 < (b .inUse 9 9 1 0).live ∧
    (s (b .inUse 9 9 1 0)).smcRuns = true := by
  and_intros <;> decide

set_option maxRecDepth 16000 in
/-- The same statement: a cold block with one worn free block in its plane, a stack short of staging headroom with a page to move,
a stack that is not ready before recovery, and one whose die stops. -/
theorem witness_loam_relocation :
    let b (st : BlockSt) (used live cycles : Nat) : Block := { Block.reset with st := st, used := used, live := live, cycles := cycles }
    let cold : Stack := { Stack.reset with
      blocks := (upFrom 257 178).map (fun k => (k, if k = 260 then b .free 0 0 300 else b .inUse 9 9 0)) }
    let w := loamed [] none cold
    let tight := loamed [revision 7 0] (some 7) { Stack.reset with blocks := [(300, b .inUse 1200000 1 1)] }
    let early : State := { loamed [revision 7 0] (some 7) Stack.reset with
      smc := { demo.smc with step := 6 }, loam := { (loamed [revision 7 0] (some 7) Stack.reset).loam with stackMap := [] } }
    (w.stack 0).freeSlots (planeOf 300) (metaSlot 300) = [260] ∧ w.mayRelocate 0 300 = true ∧
    ((w.stack 0).block 300).cycles < ((w.stack 0).block 260).cycles ∧ (w.stack 0).meanCycles + 200 ≤ ((w.stack 0).block 260).cycles ∧
    4 * (headroomMax - tight.headroom 0) < headroomMax ∧ tight.compactSlot 0 = some 300 ∧ tight.movable 0 300 = [(4, 0, 2048 * 300)] ∧
    (tight.moveUnits 0 4 [0]).isSome = true ∧ early.smcRuns = true ∧ early.smc.step = 6 ∧ early.seed.recovered = true ∧
    (early.stack 0).ready = false ∧ early.loam.sessions = [] ∧ early.loam.compacts = [] ∧
    (∀ e ∈ (early.stack 0).blocks, e.2.st ≠ .incomplete) ∧
    (∀ v ∈ early.loam.volumes, v.2.deleting = false ∧ ∀ r ∈ v.2.revs, v.2.current = some r.number) ∧
    (w.stack 0).state ≠ 2 ∧ (w.stack 0).reads = [] ∧ (w.stack 0).waiting = [] := by
  and_intros <;> decide

/-! ### Seedbank -/

/-- `demo` with Seedbank as given. -/
def seeded (f : Seedbank → Seedbank) : State := { demo with seed := f demo.seed }

/-- SeedbankCommits: a record of 56 bytes, a full buffer, one whose first write is a second old, one with nothing due, a page
programmed with others and as the last, a verify failed once and twice, the last Ferric unit, and recovery in step 2. -/
theorem witness_seedbank_commits :
    let img : List Byte := List.replicate 64 0x5A
    let buf (n : Nat) (first : Option Nat) (asked : Bool) : State := { seeded (fun b => { b with
      openBuf := { cseq := 1, images := (List.range n).map (fun i => (i, [])), first := first, asked := asked } }) with timeBase := 1000000 }
    let c (todo : FMap (List Byte)) (tries : Nat) : SbCommit := { cseq := 1, todo := todo, images := [], tries := tries }
    let two := { demo with smc := { demo.smc with step := 2 }, seed := Seedbank.reset }
    (List.replicate 56 (1 : Byte)).length ≤ 56 ∧ demo.seed.room 9 = true ∧ demo.seed.room 10 = true ∧ demo.seed.bad = [] ∧
    demo.seed.recovered = true ∧ demo.seed.waiters = [] ∧ demo.smc.waiting = [] ∧ demo.seed.commit = none ∧
    (buf 64 none false).seed.openBuf.images.length = 64 ∧ (buf 1 (some 0) false).seed.openBuf.first = some 0 ∧
    0 + 1000000 ≤ (buf 1 (some 0) false).timeBase ∧ (buf 63 (some 1) false).seed.openBuf.images.length < 64 ∧
    (buf 63 (some 1) false).timeBase < 1 + 1000000 ∧
    (seeded (fun b => { b with commit := some (c [(3, img), (4, img)] 0) })).seed.commit = some (c [(3, img), (4, img)] 0) ∧
    img.length = 64 ∧ (c [(3, img)] 1).tries < 2 ∧ 2 ≤ (c [(3, img)] 2).tries ∧ demo.seed.sparesUsed < 1024 ∧
    0xFFF0 % 16 = 0 ∧ 0xFFF0 < 0x10000 ∧ demo.seed.room 65534 = true ∧
    (seeded (fun b => { b with commit := some (c [] 0) })).seed.room 65534 = true ∧ 65534 ∉ demo.seed.bad ∧
    two.smcRuns = true ∧ two.smc.step = 2 ∧ two.seed.recovered = false ∧ 3 ∉ two.smc.railBad := by
  and_intros <;> decide

/-- `demo` with a grant window over the whole Seedbank partition of domain 0. -/
def windowed : State :=
  { demoT (fun t => { t with gw := [(0, { index := 5, gen := 1, kind := 3, object := 0, rights := 3, base := 0xFE0002004000,
                                          limit := 0xFE0002008000, revision := none })] }) with
    domains := [(0, { dom0 with store := { entries := [(5, { grant (some 0) 0 3 with kind := 3 })], fresh := 6, freed := [] } })] }

theorem run_length (m : Mem) (a n : Nat) : (Mem.run m a n).length = n := by
  induction n generalizing m a with
  | zero => rfl
  | succ k ih =>
    unfold Mem.run
    split
    · simp [ih]
    · split <;> simp [ih]

set_option maxRecDepth 16000 in
/-- SeedbankWindowsAndCommands: the window at PL0 with a right password, a wrong one, and the tenth failure; a partition with and
without a password; both sides of the aperture; and each command inside and outside its ranges. -/
theorem witness_seedbank_windows :
    let acc (store : Bool) (off : Nat) : CsAccess := { thread := 0, offset := off, width := 8, store := store, value := 1, reg := 4 }
    let ok (bit a : Nat) : Bool := (windowed.grantAt 0 0 3 a [bit] none).isOk
    let fails (n : Nat) : State := seeded (fun b => { b with parts := [(0, { SbPart.reset with fails := n })] })
    let locked := seeded (fun b => b.write1 0 (pwPage 0) (leBytes 8 7 ++ leBytes 8 8))
    let crowded := seeded (fun b => { b with openBuf := { b.openBuf with images := (List.range 8).map (fun i => (Part.domain 0 + i, [])) } })
    AtWindow windowed 0 0 ∧ ok 0 0xFE0002004000 = true ∧ ok 1 0xFE0002007FF8 = true ∧ ((fails 9).seed.part 0).fails < 10 ∧
    ((fails 10).seed.part 0).fails = 10 ∧ demo.seed.password 0 false = (demo.thread 0).sbpwd.toNat ∧
    locked.seed.password 0 false ≠ (demo.thread 0).sbpwd.toNat ∧ PasswordRoom demo.seed 0 ∧ demo.seed.isOpen 0 true = true ∧
    locked.seed.isOpen 0 true = false ∧ locked.seed.isOpen 0 false = false ∧
    csLocate (acc true 0x02007FF8).offset = .seed 0 0x7FF8 ∧ csLocate (acc false 0x02004000).offset = .seed 0 0x4000 ∧
    demo.seed.unreadable 0x300000 8 = false ∧ demo.seed.domRoom 0 (0x303FF8 / 64) = true ∧
    crowded.seed.domRoom 0 (0x303FF8 / 64) = false ∧ crowded.seed.isOpen 0 true = true ∧ FullPages demo.seed := by
  have full : FullPages demo.seed := by
    intro i
    simp [Seedbank.readPage, FMap.find, demo, Seedbank.reset, Seedbank.regionPage, Mem.block, run_length]
  and_intros <;> first | decide | exact full

set_option maxRecDepth 16000 in
/-- The same statement: each Seedbank command of the management port. -/
theorem witness_seedbank_commands :
    let rd (p off n : Nat) : SynryReq := req (leBytes 1 p ++ leBytes 4 off ++ leBytes 2 n)
    let locked := seeded (fun b => b.write1 0 (pwPage 0) (leBytes 8 7 ++ leBytes 8 8))
    let wp := { demo with pins := { demo.pins with wpN := false } }
    partRange 0 = some (0x300000, 0x4000) ∧ takenB demo 0x301 (rd 0 0x3F00 256) = true ∧ 0x3F00 + 256 ≤ 0x4000 ∧ 0x4000 < 0x3F01 + 256 ∧
    inPwTable (0x300000 + 0x3F00) 256 = false ∧ locked.seed.isOpen 0 false = false ∧
    takenB demo 0x302 (req (leBytes 1 0 ++ leBytes 4 0x3FFF ++ [7])) = true ∧ demo.seed.isOpen 0 true = true ∧ demo.protects 0 = false ∧
    locked.seed.isOpen 0 true = false ∧ wp.protects 0x42 = true ∧ takenB wp 0x302 (req (leBytes 1 0x42 ++ leBytes 4 0 ++ [7])) = true ∧
    demo.seed.failed = [] ∧ demo.seed.openBuf.images.length < 60 ∧ demo.seed.room (0x303FFF / 64) = true ∧
    takenB demo 0x303 (req []) = true ∧ takenB demo 0x304 (req (leBytes 1 0 ++ leBytes 1 1 ++ leBytes 8 8)) = true ∧
    locked.seed.password 0 true = 8 ∧ takenB demo 0x305 (req (leBytes 1 0 ++ leBytes 1 1 ++ leBytes 8 8)) = true ∧
    takenB demo 0x306 (req [0]) = true ∧ partRange 0x7F = none ∧ takenB demo 0x307 (req [0, 0, 0, 0, 16]) = true ∧
    takenB demo 0x308 (req [0, 0, 0, 0, 17]) = true ∧ takenB demo 0x309 (req []) = true ∧ ({ demo with pins := { demo.pins with wpN := true } }).pins.wpN = true ∧
    takenB demo 0x30A (req [63]) = true ∧ takenB demo 0x30A (req [64]) = true ∧ takenB demo 0x30B (req []) = true := by
  and_intros <;> decide

/-! ### Change sets -/

/-- A change set of the management port in a state, with its items. -/
def cset (n : Nat) (st : SetSt) (items : List Item) : ChangeSet :=
  { number := n, iface := 0, persist := false, items := items, st := st, status := St.pending, edge := false,
    reply := some { iface := .mgmt, tag := 1, code := 0x403 } }

/-- An item with its parameters, its parts not begun. -/
def item (code : Nat) (params : List Byte) : Item :=
  { code := code, params := params, status := St.pending, phase := 0, deadline := 0, forced := false, todo := [], removed := false, added := false }

/-- `demo` with the change sets given. -/
def withSets (l : List ChangeSet) : State := { demo with smc := { demo.smc with sets := l, nextSet := 9 } }

/-- A request of thread 0 through the change-set mailbox of domain 0. -/
def boxed (params : List Byte) : SynryReq := { iface := .mailbox 0 2 0 0, tag := 1, flags := 0, params := params }

set_option maxRecDepth 16000 in
/-- ChangeSetCommands: CSBEGIN with three and four sets open; CSITEM and CSEND of a set that is open and of none; the queue one
short of full and full; CSSTATUS; DRELEASE of a tile in its grace period and of one that no item names; DSTART and THRESTART of a
halted and a running thread; the last canonical IP. -/
theorem witness_change_set_commands :
    let open_ (k : Nat) : State := withSets ((List.range k).map (fun n => cset n .building []))
    let queued (k : Nat) : State := withSets (cset 7 .building [item It.divset [0, 1]] :: (List.range k).map (fun n => cset n .queued []))
    let full := cset 7 .building (List.replicate 255 (item It.divset [0, 1]))
    let grace := withSets [cset 7 .removal [{ item It.tmove (leBytes 1 1 ++ leBytes 1 0 ++ leBytes 1 64 ++ leBytes 2 0 ++ leBytes 8 0) with phase := 1 }]]
    let scrubbing := withSets [cset 7 .removal
      [{ item It.tmove (leBytes 1 1 ++ leBytes 1 0 ++ leBytes 1 64 ++ leBytes 2 0 ++ leBytes 8 0) with phase := 3, todo := [1] }]]
    let start (g ip : Nat) : SynryReq := boxed (leBytes 8 g ++ leBytes 8 ip)
    takenB (open_ 3) 0x401 (req []) = true ∧ ((open_ 3).smc.sets.filter (fun y => y.st == .building)).length = 3 ∧
    ((open_ 4).smc.sets.filter (fun y => y.st == .building)).length = 4 ∧
    takenB (queued 4) 0x402 (req (leBytes 2 7 ++ leBytes 2 0x41F ++ [0, 1])) = true ∧ (queued 4).openSet 0 7 = some (cset 7 .building [item It.divset [0, 1]]) ∧
    (queued 4).openSet 0 8 = none ∧ full.items.length < 256 ∧ takenB (queued 4) 0x403 (req (leBytes 2 7)) = true ∧
    ((queued 4).smc.sets.filter (fun y => y.st == .queued)).length = 4 ∧ ((queued 5).smc.sets.filter (fun y => y.st == .queued)).length = 5 ∧
    takenB (queued 4) 0x404 (req (leBytes 2 7)) = true ∧ takenB (queued 4) 0x405 (req (leBytes 2 3)) = true ∧
    ((queued 4).smc.sets.find? (fun x => x.number == 3 && x.iface == 0)).isSome = true ∧
    takenB grace 0x406 (boxed (leBytes 8 0x100)) = true ∧ (grace.domain 0).tiles.getLsbD 1 = true ∧
    (grace.itemsNow.find? (fun p => p.2.releases 0 0 1)).isSome = true ∧ demo.itemsNow = [] ∧ (demo.domain 0).tiles.getLsbD 2 = false ∧
    takenB demo 0x407 (start 1 (2 ^ 48 - 1)) = true ∧ demo.awaitsScrub 1 = false ∧ scrubbing.awaitsScrub 4 = true ∧
    takenB scrubbing 0x407 (start 4 0) = true ∧ demo.domOf 1 = some 0 ∧ (demo.thread 1).run = .halted ∧ (demo.thread 0).run = .running ∧
    demo.domOf 8 ≠ some 0 ∧ takenB demo 0x102 (req (leBytes 8 1 ++ leBytes 8 0)) = true ∧ takenB demo 0x408 (req []) = true ∧
    demo.seed.bad = [] ∧ demo.seed.commit = none ∧ demo.seed.openBuf.images.length ≤ 32 := by
  and_intros <;> decide

/-- SetsValidateAndQuiesce: a queued set whose one item fails and one that passes; a quiesce at its deadline and before it; a tile
under scrub and a window being zeroed. -/
theorem witness_sets :
    let bad := withSets [cset 7 .queued [item It.powerset (leBytes 1 5 ++ leBytes 2 20)]]
    let good := withSets [cset 7 .queued [item It.powerset (leBytes 1 0 ++ leBytes 2 30)]]
    let move (phase at_ : Nat) (todo : List Nat) : Item :=
      { item It.tmove (leBytes 1 1 ++ leBytes 1 0 ++ leBytes 1 64 ++ leBytes 2 0 ++ leBytes 8 0) with phase := phase, deadline := at_, todo := todo }
    let del : Item := { item It.windel (leBytes 1 0 ++ leBytes 1 0 ++ leBytes 4 0) with phase := 3, todo := [64] }
    let running (i : Item) : State := withSets [cset 7 .removal [i]]
    bad.applying = none ∧ (bad.smc.sets.find? (fun x => x.st == .queued)).isSome = true ∧
    (match (bad.validate (cset 7 .queued [item It.powerset (leBytes 1 5 ++ leBytes 2 20)])) with | [st] => st != 0 | _ => false) = true ∧
    good.validate (cset 7 .queued [item It.powerset (leBytes 1 0 ++ leBytes 2 30)]) = [0] ∧ FMap.rises none good.domains = true ∧
    (running (move 1 0 [])).applyItem 0 = some (move 1 0 []) ∧ (move 1 0 []).quiesces = true ∧ 0 ≤ (running (move 1 0 [])).timeBase ∧
    (running (move 1 1 [])).timeBase < (move 1 1 []).deadline ∧
    (running (move 3 0 [1])).todoItem 1 (fun _ => true) = some (0, move 3 0 [1]) ∧ (∀ c ∈ [2, 3], (running (move 3 0 [1])).quiet c = true ∧ ((running (move 3 0 [1])).core c).holds (fun _ => true) = false) ∧
    good.loam.sessions = [] ∧
    (running del).todoItem 64 (fun i => i.loser == 0) = some (0, del) ∧ (FMap.find ((running del).domain 0).windows 0).isSome = true ∧
    (∀ c v, ((running del).core c).holds v = false) := by
  and_intros <;> first | decide | exact fun _ _ => rfl

/-- AdditionsAndRemovals: a set of one item of each kind that gives, whose fill has passed; and one of each removal at its drain.
-/
theorem witness_additions :
    let adds : List Item := [item It.dcreate (leBytes 1 63 ++ leBytes 8 4), item It.tmove (leBytes 1 2 ++ leBytes 1 64 ++ leBytes 1 0 ++ leBytes 2 0 ++ leBytes 8 0x1000),
      item It.winadd (leBytes 1 0 ++ leBytes 1 1 ++ leBytes 2 2 ++ leBytes 2 3), item It.wayset [0, 1, 0], item It.shareset [0, 0, 0, 0],
      item It.guardset [0, 1], item It.rootadd (leBytes 23 0), item It.portadd (leBytes 4 0), item It.powerset (leBytes 3 0), item It.fepset (leBytes 28 0),
      item It.fqset (leBytes 14 0), item It.fgrpset (leBytes 4 0), item It.routeset (leBytes 4 0), item It.divset [0, 1], item It.resetcfg []]
    let dels (phase : Nat) : List Item := [item It.rootdel [0, 0], item It.fepdel [0, 0], item It.fqdel [0, 0], item It.fgrpdel [0, 0], item It.portdel (leBytes 4 0),
      { item It.windel (leBytes 6 0) with todo := [64] }, { item It.tmove (leBytes 13 0) with todo := [0] }, item It.ddestroy [0]].map
        (fun i => { i with phase := phase })
    let may (i : Item) : Bool := let x := cset 7 .removal [i]
      (withSets [x]).applying == some x && (withSets [x]).removalDone && !((withSets [x]).domain 64).valid && (i.phase == 0 || i.phase == 4) && !i.added &&
        (i.adds || i.code == It.resetcfg) && (i.code != It.dcreate || decide (leAt i.params 0 1 < 64)) &&
        (withSets [x]).fillPassed i.window.base i.window.limit
    adds.all may = true ∧
    (dels 2).all (fun i => (withSets [cset 7 .removal [i]]).applying == some (cset 7 .removal [i]) && i.phase == 2 && !i.removed) = true ∧
    (∀ d, (withSets (dels 2 |>.map (fun i => cset 7 .removal [i]))).drained d = true) := by
  and_intros <;> first | decide | exact fun _ => by simp [State.drained, withSets, demo, thr0, State.reset, Fabric.reset, Thread.reset]

/-- A set of each kind of item lets the row of its kind run (AdditionsAndRemovals). -/
theorem test_item_rows :
    [(Instr.dcreate 0, It.dcreate), (.tmove 0, It.tmove), (.winadd 0, It.winadd), (.wayset 0, It.wayset), (.shareset 0, It.shareset),
     (.guardset 0, It.guardset), (.rootadd 0, It.rootadd), (.portadd 0, It.portadd), (.powerset 0, It.powerset)].all
       (fun p => itemOf p.1 == some (p.2, 0)) = true := by decide

/-! ### The fabric -/

/-- The FABRIC section of a node that may lead a Meadow of `n`. -/
def fabricBytes (n : Nat) : List Byte := [1, 0, 1, 0xFF, 0xFF, BitVec.ofNat 8 n, 0, 1, 0, 0, 0, 0, 0, 0, 0, 0, 0]

/-- A port of mode Meadow with a live link. -/
def live : FPort := { fails := 0, mode := 1, up := true, x4 := true, fenced := false, peer := 6, replay := 0, serial := 77, farPort := 0 }

/-- `demo` as node 5, with a link at port 0 to node 6, and what `f` sets. -/
def netted (f : Fabric → Fabric) : State :=
  { demo with
    fabric := f { Fabric.reset with state := 2, node := 5, disc := true, ports := [(0, live)], bank0 := [(6, 8)] }
    smc := { demo.smc with config := [(5, fabricBytes 2)] }, timeBase := 600000000 }

/-- A packet for this node, the first of its pair. -/
def packet (body : PacketBody) : Packet :=
  { src := 6, dst := 5, vc := 0, epoch := false, seq := 0, crossed := false, srcDom := 0, body := body }

/-- An operation of thread 0 to node 6. -/
def fabOp (kind : Nat) : FabOp :=
  { thread := 0, dom := 0, kind := kind, window := 0, object := 6 + 7 * 2 ^ 16, reg := 0, row0 := 0, nrow := 1, done := 0, cnt := 2,
    lcen := true, node := 6, faddr := 0, tag := 4, since := 0, marked := false }

/-- A credit entry of domain 0 for queue 7 of node 6. -/
def credit (n deny : Nat) (asked : Bool) : Credit :=
  { domain := 0, queue := 7, node := 6, have_ := n, quota := 8, asked := asked, deny := deny, since := 0 }

/-- DiscoveryAndLinks: a port that trains with one half good and with both bad, and one that cannot; a live one, at its limit of
failures and below; a node in discovery that leads, one that hears and one whose coordinator is lost; a coordinator that hears
changed links; the answers complete and short; the time since the first link reached and not. -/
theorem witness_discovery :
    let early := netted (fun f => { f with disc := false, state := 1, firstUp := some 100000000, candidate := some mySerial, ports := [(1, { live with up := false })] })
    let answer : LinkState := { serial := 3, fixedId := none, committed := none, links := [] }
    let leads := netted (fun f => { f with coord := true, answers := [answer] })
    let ran := netted (fun f => { f with coord := true, answers := [answer], assigned := [(1, 5)] })
    let alone := { netted (fun f => { f with coord := true, candSince := 400000001 }) with timeBase := 600000000 }
    let heard : HelloMsg := { port := 0, serial := 9, eligible := true, fixedId := none, nodeId := some 6, round := 0, candidate := some 9, coordinator := some 9 }
    (early.fport 1).mode ≠ 0 ∧ (early.fport 1).up = false ∧ (early.fport 2).mode = 0 ∧ ((netted id).fport 0).up = true ∧ early.discovers = true ∧
    BitVec.extractLsb' 0 4 (0xF0 : BitVec 8) = 0 ∧ BitVec.extractLsb' 0 4 (0x11 : BitVec 8) ≠ 0 ∧ BitVec.extractLsb' 4 4 (0x11 : BitVec 8) ≠ 0 ∧
    ((netted (fun f => { f with ports := [(0, { live with fails := 16 })] })).fport 0).fails = 16 ∧ ((netted id).fport 0).fails < 16 ∧
    (netted id).discovers = true ∧ early.mayLead = true ∧ early.fabric.candidate = some mySerial ∧ early.fabric.coordSer = none ∧
    early.fabric.candSince + 2000000 ≤ early.timeBase ∧ ((netted id).fport heard.port).mode = 1 ∧ early.fabric.disc = false ∧
    3 ∉ early.fabric.lost ∧ (netted (fun f => { f with coordSer := some 77 })).fabric.coordSer = some 77 ∧ ((netted id).fport 0).serial = 77 ∧
    ran.fabric.coord = true ∧ ran.fabric.disc = true ∧ ran.fabric.assigned ≠ [] ∧ ran.fabric.chStep = 0 ∧
    ran.fabric.answers.find? (fun x => x.serial == 3) = some answer ∧ answer.links ≠ [{ port := 1, farSerial := 3, farPort := 2 }] ∧
    leads.fabric.coord = true ∧ leads.fabric.assigned = [] ∧ leads.nodesCount = leads.fabric.answers.length + 1 ∧
    alone.fabric.answers.length + 1 < alone.nodesCount ∧ alone.timeBase < alone.fabric.candSince + 200000000 ∧
    early.fabric.firstUp = some 100000000 ∧ early.fabric.state = 1 ∧ 100000000 + 500000000 ≤ early.timeBase ∧
    takenB (netted id) 0x501 (req []) = true ∧ (netted id).fabricOn = true ∧ (netted (fun f => { f with ops := [fabOp fabGet] })).fabricOn = true ∧
    (fabOp fabGet).kind = fabGet := by
  and_intros <;> first | decide | rfl

/-- RoutesChangeByEpoch: a node in each phase with a packet of the old epoch and with none, and a coordinator whose last answer
comes in each step. -/
theorem witness_epoch :
    let ph (n : Nat) : State := netted (fun f => { f with phase := n })
    let old : Packet := { packet (.tputAck 0 0) with epoch := true }
    let held := netted (fun f => { f with phase := 3, held := [old] })
    let step (k : Nat) (wait done : List Nat) : State := netted (fun f => { f with coord := true, chStep := k, chWait := wait, chDone := done, assigned := [(1, 5), (2, 6)] })
    (ph 0).discovers = true ∧ (ph 0).fabric.disc = true ∧ (ph 1).fabric.phase ≤ 1 ∧ (ph 2).fabric.phase = 2 ∧
    (ph 3).fabric.held ++ (ph 3).fabric.parked ++ (ph 3).fabric.inbuf = [] ∧
    old ∈ held.fabric.held ++ held.fabric.parked ++ held.fabric.inbuf ∧ old.epoch ≠ held.fabric.epoch ∧ (ph 4).fabric.phase = 4 ∧
    6 ∈ (step 1 [6] []).fabric.chWait ∧ (step 1 [6] []).fabric.chWait.filter (· != 6) = [] ∧ (step 1 [5, 6] []).fabric.chWait.filter (· != 6) ≠ [] ∧
    (step 2 [6] []).nodeList = [5, 6] ∧ (step 3 [6] [7]).fabric.chDone = [7] ∧ (step 3 [6] []).fabric.chDone = [] ∧
    (step 4 [6] []).fabric.chNext = [] := by
  and_intros <;> decide

/-- `LinesFree` as a test. -/
def linesFreeB (s : State) (a n : Nat) : Bool :=
  (upFrom (a / 64) ((a + n + 63) / 64 - a / 64)).all (fun l => s.lineIdle l && s.holdersHere l && s.proxyMay l .rdx)

theorem linesFree_of (s : State) (a n : Nat) (h : linesFreeB s a n = true) : LinesFree s a n := by
  intro l h1 h2
  have := List.all_eq_true.mp h l (mem_upFrom_of _ _ _ h1 (by omega))
  simpa [and_assoc] using this

/-- PacketsAtTheirTarget: a packet for another node with and without a route; one whose line is not free, one ahead of its turn
with room to park and with none, one that came before; a row to DRAM, to a TSB and to no endpoint, of a transfer with a refused
row; a request for rows; an acknowledgement, a row and a refusal of an operation in flight; a message with and without a queue and
a sender entry; credits. -/
theorem witness_packets :
    let e (core : Option Nat) : Endpoint := { domain := 0, base := 0x4000, len := 0x1000, core := core, rcnt := 3, nodeLo := 6, nodeHi := 6, initDom := 0, rights := 3 }
    let sender : Sender := { nodeLo := 6, nodeHi := 6, domain := 0, quota := 8 }
    let q : RecvQueue := { domain := 0, base := 0x8000, sz := 0, isrc := 0xFF, senders := [sender], head := 0, tail := 0, slots := [] }
    let sf (f : Fabric → Fabric) : State := netted (fun g => f { g with
      endpoints := [(1, e none), (2, e (some 3))], queues := [(7, q)], ops := [fabOp fabPut], credits := [credit 1 0 true] })
    let s := sf id
    let p := packet (.tputRow 9 4 1 0xFC0 (List.replicate 64 1) true true)
    let ahead := { p with seq := 1 }
    let busy : State := { s with lines := [(0x4FC0 / 64, { HomeLine.reset with txn := some { kind := .rds, req := 9, dom := 0, off := 0, bytes := [], wait := [4] } })] }
    let waiting := sf (fun f => { f with parked := (List.range 32).map (fun k => { p with src := 7, seq := BitVec.ofNat 16 (k + 1) }) })
    s.fabric.state = 2 ∧ { p with dst := 6 }.dst ≠ s.fabric.node ∧ s.routePort 6 false = some 0 ∧ s.routePort 7 false = none ∧
    NextInOrder busy p ∧ busy.packetReady p = false ∧ ahead.seq ≠ FMap.get s.fabric.seqIn (6 * 4 + 0) 0 ∧
    (ahead.seq - FMap.get s.fabric.seqIn (6 * 4 + 0) 0).toNat < 0x8000 ∧ ahead ∉ s.fabric.parked ++ s.fabric.inbuf ∧
    0x8000 ≤ ({ p with seq := 0xFFFF }.seq - FMap.get s.fabric.seqIn (6 * 4 + 0) 0).toNat ∧
    (s.fabric.parked.filter (fun x => x.vc == 0)).length < 32 ∧ (waiting.fabric.parked.filter (fun x => x.vc == 0)).length = 32 ∧
    ahead ∉ waiting.fabric.parked ++ waiting.fabric.inbuf ∧
    InTurn s p ∧ (6, 9, 4) ∉ s.fabric.badPuts ∧ (6, 9, 4) ∈ (sf (fun f => { f with badPuts := [(6, 9, 4)] })).fabric.badPuts ∧
    InTurn (sf (fun f => { f with badPuts := [(6, 9, 4)] })) p ∧
    s.endpointFor p 1 0 0xFC0 64 = some (e none) ∧ s.endpointFor p 2 0 0xFC0 64 = some (e (some 3)) ∧ s.endpointFor p 1 0 0xFC1 64 = none ∧
    linesFreeB s 0x4FC0 64 = true ∧ linesFreeB s 0x8000 256 = true ∧ InTurn s (packet (.tgetReq 9 4 1 0 64 2 64)) ∧
    s.endpointFor p 1 1 0 64 = some (e none) ∧ s.endpointFor p 1 1 64 64 = some (e none) ∧
    InTurn s (packet (.tputAck 0 4)) ∧ Named s (fabOp fabPut) 0 4 fabPut ∧ s.inDomain 0 0 = true ∧ s.opOf 0 4 fabGet = none ∧ s.opOf 0 4 fabSend = none ∧
    Named (netted (fun f => { f with ops := [fabOp fabGet] })) (fabOp fabGet) 0 4 fabGet ∧
    InTurn s (packet (.send 9 4 7 [1])) ∧ FMap.find s.fabric.queues 7 = some q ∧ q.base + 256 * (q.tail.toNat % (16 * 2 ^ q.sz)) = 0x8000 ∧
    FMap.find s.fabric.queues 8 = none ∧ q.senderOf 6 0 = some (0, sender) ∧ q.senderOf 6 1 = none ∧
    InTurn s (packet (.sendAck 0 4 8)) ∧ (netted (fun f => { f with ops := [fabOp fabSend] })).opOf 0 4 fabSend = some (fabOp fabSend) ∧
    InTurn s (packet (.creditReq 7)) ∧ InTurn s (packet (.creditReturn 0 7 4 0)) ∧
    s.credit 0 7 6 = some (credit 1 0 true) ∧ s.credit 0 7 5 = none ∧
    ((tiled [entry (tin 0x19 0) 0]).thread 0).tile.queue ≠ [] := by
  and_intros <;> decide

/-- A window of thread 0 that names endpoint `n` of node 6 of a kind, with every right. -/
def fabWin (kind n : Nat) : GrantWin :=
  { index := 5, gen := 1, kind := 5, object := 6 + n * 2 ^ 16 + kind * 2 ^ 28, rights := 0xFF, base := 0, limit := 64, revision := none }

/-- `netted` with such a window as GW1, tile instructions queued and the move of the head set up. -/
def sending (kind n : Nat) (q : List TqEntry) (m : Option TileMove) (f : Fabric → Fabric) : State :=
  let s := { netted f with domains := [(0, { dom0 with store := { entries := [(5, { grant (some 0) 0 0xFF with kind := 5 })], fresh := 6, freed := [] } })] }
  s.onThread 0 (fun t => { t.sysSet Sys.ntxen 1 with gw := [(1, fabWin kind n)], tile := { t.tile with queue := q, move := m } })

/-- A state whose domain has no fabric-get entry for thread 0. -/
def spent (s : State) : State := s.onDomain 0 (fun x => { x with cap := FMap.put x.cap 3 0 })

/-- FabricRequestsBegin: TPUT and TGET of the last row a window covers, one row of two, with no window, with no entry, and in
Fixed-time mode; a store to SNDCTL with a send in flight, too long, with no window, with no fabric, with no entry, with no credit
entry, with none left and with one; QHEAD within and past the messages; one expired operation and none. -/
theorem witness_fabric_requests :
    let t (op : Nat) : TileInsn := tin op (0 + 1 * 2 ^ 11 + 3 * 2 ^ 18 + 1 * 2 ^ 24)
    let en (op : Nat) : TqEntry := entry (t op) 0xFC0
    let m : TileMove := { move 0 0 2 0xF80 false with win := 1 }
    let s (op : Nat) : State := sending 1 1 [en op] (some m) id
    let none_ (op : Nat) : State := sending 2 1 [en op] (some m) id
    let fixed (op : Nat) : State := (sending 1 1 [en op] none id).onCore 0 (fun c => { c with mode := 2 })
    let send (f : Fabric → Fabric) : State := sending 2 7 [] none f
    let w (n : Nat) : CsStore := store8 0x03030000 (1 + 1 * 2 + n * 16)
    let q : RecvQueue := { domain := 0, base := 0x8000, sz := 0, isrc := 0, senders := [], head := 3, tail := 4, slots := [(6, 0)] }
    let late (k : Nat) : State := netted (fun f => { f with ops := [fabOp k] })
    [0x18, 0x19].all (fun k => headB (s k) 0 (en k) (t k) k && (s k).fabWindow 0 1 1 (k - 0x18) == some (fabWin 1 1) && (s k).getFree 0 &&
      !(spent (s k)).getFree 0 && headB (spent (s k)) 0 (en k) (t k) k && (s k).routePort 6 false == some 0 &&
      headB (none_ k) 0 (en k) (t k) k && (none_ k).fabWindow 0 1 1 (k - 0x18) == none &&
      (fixed k).tileHead 0 == some (en k) && ((fixed k).core 0).mode == 2 && ((fixed k).thread 0).tile.move.isNone &&
      decide (bitsOf (t k).fw 10 5 + bitsOf (t k).fw 17 11 ≤ regRows ((t k).fw % 32))) = true ∧
    ((s 0x18).thread 0).tile.move = some m ∧ ((s 0x18).thread 0).tile.resume = 0 ∧ (s 0x18).fabric.state = 2 ∧
    (∀ i, i < 2 → m.at_ i + rowBytes m.code ≤ 64 * (fabWin 1 1).limit) ∧ m.at_ 1 + rowBytes m.code = 64 * (fabWin 1 1).limit ∧
    reachesB (send id) (w 128) (.fabric 0 0x30000) = true ∧ (w 128).value.getLsbD 0 = true ∧ ((send id).fab 0).sndState = 0 ∧
    ((send (fun f => { f with threads := [(0, { FabThread.reset with sndState := 1 })] })).fab 0).sndState = 1 ∧
    bitsOf (w 128).value.toNat 11 4 = 128 ∧ bitsOf (w 129).value.toNat 11 4 = 129 ∧ (send id).fabWindow 0 1 2 2 = some (fabWin 2 7) ∧
    (send id).fabWindow 0 0 2 2 = none ∧ (send (fun f => { f with state := 3 })).fabric.state ≠ 2 ∧ (send id).credit 0 7 6 = none ∧
    (send id).getFree 0 = true ∧ (spent (send id)).getFree 0 = false ∧
    (send (fun f => { f with credits := [credit 0 0 false] })).credit 0 7 6 = some (credit 0 0 false) ∧
    (send (fun f => { f with credits := [credit 1 0 false] })).credit 0 7 6 = some (credit 1 0 false) ∧
    (credit 1 4 false).deny ≠ 0 ∧ reachesB (netted (fun f => { f with queues := [(7, q)] })) (store8 (0x03010000 + 32 * 7) 4) (.fabric 0 (0x10000 + 32 * 7)) = true ∧
    (q.tail - (4 : BitVec 32)).toNat ≤ (q.tail - q.head).toNat ∧ (q.tail - q.head).toNat < (q.tail - (5 : BitVec 32)).toNat ∧
    [fabPut, fabGet, fabSend].all (fun k => (late k).fabric.ops.filter (fun o => o.thread == 0 && (late k).expired o.since) == [fabOp k] &&
      (late k).opOf 0 4 k == some (fabOp k)) = true ∧ (late fabPut).fabric.colls = [] ∧ (late fabPut).inDomain 0 0 = true ∧
    (netted (fun f => { f with credits := [credit 0 0 true] })).expired (credit 0 0 true).since = true := by
  and_intros <;> decide

/-- CollectivesCombine: each operation with a member that has children, a leaf of a barrier and a group of one; each refusal; a
chunk from the parent, one from a child at the root, one that differs and one of an old sequence. -/
theorem witness_collectives :
    let gr (m : List Nat) : Group := { members := m, domains := m.map (fun _ => 0), seq := 2 }
    let s (m : List Nat) (f : Fabric → Fabric) : State := sending 3 7 [] none (fun g => f { g with groups := [(7, gr m)] })
    let w (k tsb : Nat) : CsStore := store8 0x03030028 (1 + 1 * 2 + k * 16 + tsb * 512)
    let area (cnt st : Nat) : FabThread := { FabThread.reset with colCnt := cnt, colState := st }
    let c (me : Nat) : Coll := { thread := 0, dom := 0, group := 7, me := me, op := 0, type := 0, isat := false, tsb := true, root := 0, cnt := 4, cen := true, count := 1,
                                 src := 0, dst := 0x100, ring := 0, seq := 2, next := 0, heard := [], wrote := 0, flags := 0, since := 0, marked := false }
    let m (child seq cnt : Nat) (down : Bool) : CollMsg := { group := 7, child := child, down := down, seq := seq, op := 0, type := 0, cnt := cnt, root := 0, chunk := 0,
                                                             elems := [1, 2, 3, 4], flags := 0, code := 0 }
    let r (me : Nat) : State := s [5, 6] (fun f => { f with colls := [c me] })
    [0, 1, 2, 3].all (fun k => reachesB (s [5, 6] id) (w k 0) (.fabric 0 0x30028) && bitsOf (w k 0).value.toNat 5 4 == k && (w k 0).value.getLsbD 0) = true ∧
    (s [5, 6] id).fabWindow 0 1 3 3 = some (fabWin 3 7) ∧ (s [5, 6] id).fabWindow 0 0 3 3 = none ∧ (s [5, 6] id).getFree 0 = true ∧
    (spent (s [5, 6] id)).getFree 0 = false ∧ (spent (s [5, 6] id)).fabWindow 0 1 3 3 = some (fabWin 3 7) ∧
    ((s [5] (fun f => { f with threads := [(0, area 4194304 0)] })).fab 0).colCnt = 4194304 ∧ ((s [5] (fun f => { f with threads := [(0, area 4194305 1)] })).fab 0).colState = 1 ∧
    (s [5] (fun f => { f with groups := [] })).fabric.groups = [] ∧ (List.range 2).find? (fun i => [6, 5].getD i 0 == 5) = some 1 ∧
    childrenOf 0 2 = [1] ∧ childrenOf 1 2 = [] ∧ (s [5] id).collOf 7 = none ∧ (s [5] id).fabric.early = [] ∧ (r 0).collOf 7 = some (c 0) ∧
    (m 1 2 4 false).seq = (c 0).seq ∧ (m 1 1 4 false).seq < (c 0).seq ∧ (m 1 2 5 false).cnt ≠ (c 0).cnt ∧ (c 0).chunks = 1 ∧ (r 0).membersOf 7 = [5, 6] ∧
    InTurn (s [5, 6] id) (packet (.collective (m 1 2 4 false))) ∧
    InTurn (r 0) (packet (.collective (m 1 2 4 false))) ∧ InTurn (r 1) (packet (.collective (m 0 2 4 true))) := by
  and_intros <;> decide

/-! ### Clocks, the SMC, resets and start-up -/

/-- `demo` with tile 1's clock as given. -/
def clocked (c : TileClk) : State := { demo with smc := { demo.smc with clk := [(1, c)], factor := 1024 } }

/-- ClocksAndPower: a voltage awaited and read once too low, a divider to switch to; a domain above its budget in each throttle
state, and below 95 % of it; a tile at and below the thermal limits; PROCHOT_N; a rail that faults and one that recovers. -/
theorem witness_clocks :
    let c := TileClk.reset
    let p (n : Nat) (f : TileClk → TileClk) : State := { clocked (f c) with domains := [(0, { dom0 with power10 := n, tiles := 2 })] }
    let vr (l : List Nat) : State := { demo with smc := { demo.smc with vrFault := l } }
    ((clocked { c with target := some 1, wait := 1, vcore := 800 }).clk 1).wait = 1 ∧ ¬ 790 + 10 < 800 ∧ 789 + 10 < 800 ∧
    ((clocked { c with target := some 1, wait := 0 }).clk 1).target = some 1 ∧ (p 40001 id).budget 0 = 40000 ∧ (p 40001 id).smcRuns = true ∧
    ((p 40001 id).domain 0).valid = true ∧ (p 40001 id).tilesOf 0 = [1] ∧ ((p 40001 id).clk 1).dutyPwr = 16 ∧
    ((p 40001 (fun c => { c with dutyPwr := 8 })).clk 1).base = 3 ∧ ((p 40001 (fun c => { c with dutyPwr := 8, req := 0 })).clk 1).base = 1 ∧
    37999 * 100 < 40000 * 95 ∧ 40000 * 95 ≤ 38000 * 100 ∧ ((p 37999 (fun c => { c with dutyPwr := 7 })).clk 1).dutyPwr < 8 ∧
    ((p 37999 (fun c => { c with dutyPwr := 8, divPwr := 1 })).clk 1).divPwr = 1 ∧
    1600 ≤ ((clocked { c with temp := 1600 }).clk 1).temp ∧ ((clocked { c with temp := 1567, dutyTh := 8 }).clk 1).thermal = true ∧
    (clocked { c with tempHot := true, temp := 1840 }).tripTemp 1 = some 1840 ∧ ({ demo with pins := { demo.pins with prochotN := true } }).pins.prochotN = true ∧
    ({ demo with smc := { demo.smc with prochotIn := true } }).smc.prochotIn = true ∧ railFault 0x8000 = true ∧ railFault 0x0001 = false ∧
    0 ∉ (vr []).smc.vrFault ∧ 0 ∈ (vr [0]).smc.vrFault := by
  and_intros <;> decide

/-- A request of thread 0 through the query mailbox of domain 0. -/
def asked (params : List Byte) : SynryReq := { iface := .mailbox 0 0 0 0, tag := 1, flags := 0, params := params }

set_option maxRecDepth 16000 in
/-- SynryReadsAndFrames: each reading command from the management port, and from a mailbox for a tile of its own domain and of
another; a frame with a right and a wrong CRC; a response that is kept and one that is not; a mailbox that takes a frame and one
that is busy. -/
theorem witness_synry :
    let q (t i : Nat) : List Byte := leBytes 1 t ++ leBytes 1 i ++ leBytes 6 0
    let body : List Byte := leBytes 1 1 ++ leBytes 1 0 ++ leBytes 2 1 ++ leBytes 2 0 ++ leBytes 2 0
    let kept := { demo with smc := { demo.smc with mgmt := [(1, { pend := false, code := 1, status := 0, results := [] })] } }
    let gw : GrantWin := { index := 5, gen := 1, kind := 4, object := 0, rights := 3, base := 0, limit := 0, revision := none }
    let s (state : Nat) : State := { demoT (fun t => { t with gw := [(0, gw)] }) with
      domains := [(0, { dom0 with store := { entries := [(5, { grant (some 0) 0 3 with kind := 4 })], fresh := 6, freed := [] } })]
      smc := { demo.smc with slots := [(slotKey 0 0 0, { MbSlot.reset with state := state, req := Mem.write [] 0 body })] } }
    takenB demo 0x001 (req []) = true ∧ takenB demo 0x002 (req []) = true ∧ takenB demo 0x003 (req []) = true ∧
    takenB demo 0x004 (req (q 0 63)) = true ∧ takenB demo 0x004 (req (q 1 8)) = true ∧ takenB demo 0x004 (asked (q 0 2)) = true ∧ FMap.find demo.tileDom 2 ≠ some 0 ∧
    FMap.find demo.tileDom 1 = some 0 ∧ takenB demo 0x005 (req (q 0 0)) = true ∧ takenB demo 0x005 (asked (q 1 1)) = true ∧ takenB demo 0x006 (req (q 64 0)) = true ∧
    takenB demo 0x101 (req (leBytes 2 520 ++ leBytes 6 0)) = true ∧ takenB demo 0x103 (req (q 0 0)) = true ∧ demo.tileRail 0 = (0, 0) ∧
    (∀ k, k < 64 → demo.tileRail k ≠ (1, 0)) ∧ demo.smcRuns = true ∧ demo.seed.waiters = [] ∧ frameOk (sealFrame body) true = true ∧
    frameOk (body ++ [0, 0, 0, 0]) true = false ∧ State.reset.pins.vaux = true ∧
    State.reset.smc.tripped = false ∧ State.reset.smc.up = false ∧ pendingTags State.reset.smc.mgmt < 16 ∧ (FMap.find kept.smc.mgmt 1).isSome = true ∧
    IsCommand 1 (requestOf .mgmt (sealFrame body)) (.ident (requestOf .mgmt (sealFrame body))) ∧
    reachesB (s 0) (store8 0x3F8 1) (.mbox 0 0x3F8) = true ∧ ((s 0).csGrant 0 0 0x3F8 true none).isOk = true ∧
    frameOk (Mem.block ((s 0).slot (slotKey 0 0 0)).req 0 512) false = true ∧ ((s 1).slot (slotKey 0 0 0)).state = 1 := by
  and_intros <;> first | decide | exact List.mem_cons_self

/-- ResetsStopTheBlocks: each pin in each of its states. -/
theorem witness_resets :
    let off := { State.reset with pins := { State.reset.pins with vaux := false } }
    let early := { State.reset with smc := { State.reset.smc with early := [(.mgmt, [1], true)] } }
    State.reset.smc.up = false ∧ State.reset.pins.vaux = true ∧ off.pins.vaux = false ∧ demo.smc.up = true ∧ demo.pins.vaux = true ∧
    State.reset.pins.pwrgood = false ∧ demo.pins.pwrgood = true ∧ demo.pins.resetN = true ∧ State.reset.pins.resetN = false ∧ demo.smcRuns = true ∧
    demo.smc.refLost = false ∧ State.reset.smc.waiting = [] ∧ State.reset.seed.waiters = [] ∧ State.reset.smc.early = [] ∧
    early.smc.early = [(.mgmt, [1], true)] ∧ early.pins.vaux = true ∧ early.smc.up = false ∧ pendingTags early.smc.mgmt < 16 := by
  and_intros <;> decide

/-- `demo` at step `k` of start-up with the sections given. -/
def starting (k : Nat) (config : FMap (List Byte)) : State :=
  { demo with smc := { demo.smc with step := k, config := config }, ddr := Ddr.reset, domains := [], tileDom := [], ports := [] }

/-- StartupStepsInOrder: each step with what it needs and without it. -/
theorem witness_startup :
    let power : FMap (List Byte) := [(1, List.replicate 64 1), (2, List.replicate 132 0), (3, leBytes 2 4800 ++ leBytes 2 1 ++ [1]), (4, List.replicate 8 1)]
    let member (k : Nat) : State := { starting k power with pins := { demo.pins with tussockId := 1 } }
    let unlocked := { starting 5 power with smc := { (starting 5 power).smc with rpll := false } }
    let tied (fab : Fabric) : State := { member 12 with fabric := { fab with assembled := true, members := [(0, 64), (1, 64)], memberBase := [(0, 0), (1, 64)], news := some (5, [(2, 64)]) } }
    let holds := (tied Fabric.reset).onCore 0 (fun c => { c with l2use := [(0, dramTag)] })
    let master := { starting 8 ((6, [1 + 2, 0, 0, 64, 0, 0, 0, 0, 0]) :: power) with timeBase := 1000000000 }
    let dimm : DimmInfo := { channel := 0, dimm := 0, gib := 64, partNo := 1, serial := 1, rating := 4800, idClash := false, verified := true, trained := true }
    let loam (k : Nat) : State := { starting k power with loam := { Loam.reset with stackMap := (upFrom 1 7).map (fun n => (n, { Stack.reset with ready := true })) } }
    let x : Domain := { Domain.reset with tiles := 2, windows := [(0, { base := 0, limit := 2 ^ 30 })], power := 40 }
    let boot (v : Nat) (b : Option (Nat × Nat × Nat)) : State := { starting 11 power with
      domains := [(0, { x with valid := true, bootVol := v, boot := b })], tileDom := [(1, 0)], ddr := { demo.ddr with filled := [(0, 2 ^ 30)], rest := true } }
    AtStep (starting 3 power) 3 ∧ (starting 3 power).pins.tussockId = 0 ∧ (starting 3 power).pins.bootSrc.toNat % 2 = 0 ∧ AtStep (member 3) 3 ∧ (member 3).pins.tussockId ≠ 0 ∧
    (member 3).smc.rpll = true ∧ AtStep unlocked 5 ∧ unlocked.smc.rpll = false ∧ (starting 5 power).smc.rpll = true ∧ (∀ k, k < 64 → k ∈ List.range 64) ∧
    (starting 5 ((6, [1 + 2, 0, 0, 64, 0, 0, 0, 0, 0]) :: power)).isMaster = true ∧
    AtStep (starting 5 power) 5 ∧ 0 ∉ [1] ∧ (starting 5 power).ports = [] ∧ ((starting 5 power).sect Ty.power).isSome = true ∧
    AtStep (loam 6) 6 ∧ ((loam 6).stack 0).ready = false ∧ ((loam 6).stack 0).waiting = [] ∧ ((loam 6).stack 0).blocks = [] ∧ (loam 6).seed.recovered = true ∧ (∀ k, k < 8 → k ≠ 0 → ((loam 6).stack k).ready = true) ∧ ((starting 6 power).stack 1).ready = false ∧
    AtStep (starting 7 power) 7 ∧ (starting 7 power).ddr.trained = false ∧
    ((List.range 12).filter (fun ch => bitOf (leAt (((starting 7 power).sect Ty.ddr).getD []) 2 2) ch)).flatMap (fun ch => (trainChannel [] 4800 [dimm] ch).2.1) = [dimm] ∧
    ((List.range 12).filter (fun ch => bitOf (leAt (((starting 7 power).sect Ty.ddr).getD []) 2 2) ch)).flatMap (fun ch => (trainChannel [] 4800 [] ch).2.1) = [] ∧
    AtStep master 8 ∧ master.isMaster = true ∧ bitOf master.tussockMask 1 = true ∧ FMap.has master.fabric.members 1 = false ∧
    master.windowsTogether = true ∧ master.smc.stepBegan + 1000000000 ≤ master.timeBase ∧ (member 12).smcRuns = true ∧
    (tied Fabric.reset).fabric.assembled = true ∧ (tied Fabric.reset).fabric.news = some (5, [(2, 64)]) ∧ (member 12).fabric.state ≠ 2 ∧
    tussockNews (packet (.control Ctl.assembly [5, 2, 64])) = some (5, [(2, 64)]) ∧ (tied Fabric.reset).pins.tussockId ≠ 0 ∧ (tied Fabric.reset).smc.step ≠ 8 ∧
    (holds.core 0).holds (holds.homedOn 0) = true ∧ (holds.thread 0).run = .running ∧ (holds.thread 0).tinv = none ∧ (holds.thread 0).revoke = none ∧
    ((tied Fabric.reset).core 0).holds ((tied Fabric.reset).homedOn 0) = false ∧ holds.fabric.badPkgs = [] ∧ AtStep (starting 10 power) 10 ∧ (starting 10 power).smc.waiting = [] ∧
    (demo.domain 1).valid = false ∧ AtStep (boot 0xFFFF none) 11 ∧ (boot 0xFFFF none).fillPassed 0 (2 ^ 30) = true ∧
    ((boot 0xFFFF none).domain 0).bootDone = false ∧ ((boot 4 none).domain 0).bootVol ≠ 0xFFFF ∧ ((boot 4 (some (0x1000, 0, 64))).domain 0).boot = some (0x1000, 0, 64) ∧
    ((boot 4 (some (0x1000, 0, 64))).thread 4).run = .halted ∧ demo.smc.rpll = true ∧ (demo.port 0).exists_ = true ∧
    demo.pins.pwrgoodAt + 10000000 ≤ { demo with timeBase := 10000000 }.timeBase ∧ demo.timeBase < demo.pins.pwrgoodAt + 10000000 := by
  and_intros <;> decide

/-- A Sheaf image of one section, signed, as a flash or a Tussock master gives it. -/
def image : List Byte :=
  let body := List.replicate 8 (1 : Byte)
  let table := leBytes 2 2 ++ leBytes 2 1 ++ leBytes 4 80 ++ leBytes 4 8 ++ leBytes 4 (crc32c body)
  let head := leBytes 4 0x46454853 ++ leBytes 2 1 ++ leBytes 2 1 ++ leBytes 4 88 ++ leBytes 4 1 ++ leBytes 4 7
  padTo 64 (head ++ leBytes 4 (crc32c (head ++ table))) ++ table ++ body ++ List.replicate 196 0

set_option maxRecDepth 16000 in
/-- The same statement: an image that passes whatever the fuses say, an empty source, and a boot image of four bytes. -/
theorem witness_images :
    sourceValid { sfdpValid := true, bytes := image, keyMatches := true, sigVerifies := true } = true ∧
    sourceValid { sfdpValid := true, bytes := [], keyMatches := true, sigVerifies := true } = false ∧
    (let h := leBytes 4 0x54424E48 ++ leBytes 2 1 ++ leBytes 2 0 ++ leBytes 4 4 ++ leBytes 4 0 ++ leBytes 4 (crc32c [1, 2, 3, 4]) ++ List.replicate 40 0
     let bytes := Mem.write [] 0 (h ++ leBytes 4 (crc32c h) ++ [1, 2, 3, 4])
     leAt (Mem.block bytes 0 64) 60 4 = crc32c ((Mem.block bytes 0 64).take 60) ∧ leAt (Mem.block bytes 0 64) 16 4 = crc32c (Mem.block bytes 64 4) ∧
       leAt (Mem.block bytes 0 64) 12 4 < 4) := by
  have h : imageChecks image = true := by decide
  have b : bitOf (leAt image 6 2) 0 = true := by decide
  refine ⟨?_, by decide, by decide⟩
  simp only [sourceValid, signatureOk, h, b]
  cases Config.keyHashSet <;> rfl

/-- `ReadsFree` as a test. -/
def readsFreeB (s : State) (d a n : Nat) : Bool :=
  (upFrom (a / 64) ((a + n + 63) / 64 - a / 64)).all (fun l => s.lineIdle l && s.proxyMay l .rdna && ((s.line l).inL3 || s.missOk l d))

theorem readsFree_of (s : State) (d a n : Nat) (h : readsFreeB s d a n = true) : ReadsFree s d a n := by
  intro l h1 h2
  have := List.all_eq_true.mp h l (mem_upFrom_of _ _ _ h1 (by omega))
  simp only [Bool.and_eq_true, Bool.or_eq_true] at this
  grind

/-- InterfacesToTheOutside: a DMA request inside the domain's DRAM and past it, a DIMM that passes 95 °C, and configuration cycles
below the port and outside its buses. -/
theorem witness_interfaces :
    let p : RootPort := { RootPort.reset with exists_ := true, enabled := true, up := true, cfg := [(0x19, 1), (0x1A, 2)], cfgAddr := BitVec.ofNat 32 (1 * 2 ^ 20) }
    let s := { demo with ports := [(0, p), (1, { p with cfgAddr := 0 })] }
    let a : CfgAccess := { thread := 0, port := 0, reg := 4, value := 0, result := some 7 }
    (s.port 0).up = true ∧ s.portCut 0 = false ∧ s.portOwner 0 = some 0 ∧ s.dmaReaches 0 0x3FFFFFFF 1 = true ∧ s.dmaReaches 0 0x3FFFFFFF 2 = false ∧
    s.ddr.trained = true ∧ s.onChannel 0 (2 ^ 30) 0 = true ∧ FMap.get s.ddr.temps 0 0 ≤ 1520 ∧ AtConfig s a ∧
    linesFreeB s 0x3FFFFFFF 1 = true ∧ readsFreeB s 0 0x3FFFFFFF 1 = true ∧ (s.domain 0).windows = [(0, { base := 0, limit := 2 ^ 30 })] ∧
    (Mem.byte p.cfg 0x19).toNat ≤ p.cfgAddr.toNat / 2 ^ 20 % 256 ∧ ¬ (Mem.byte p.cfg 0x19).toNat ≤ (0 : BitVec 32).toNat / 2 ^ 20 % 256 := by
  and_intros <;> decide

/-! ### The block -/

/-- `Quiet` where every thread of the state has an empty Tile Queue. -/
def quietB (s : State) (p : Nat → Bool) : Bool :=
  s.fabric.parked.isEmpty && s.fabric.inbuf.isEmpty && s.fabric.colls.isEmpty &&
    s.threads.all (fun x => (p x.1 || x.2.stq.isNone) && x.2.tile.timed.isEmpty && !x.2.countsCycles && x.2.tile.queue.isEmpty)

theorem quiet_of (s : State) (p : Nat → Bool) (h : quietB s p = true) : Quiet s p := by
  simp only [quietB, Bool.and_eq_true, Bool.or_eq_true, List.isEmpty_iff, List.all_eq_true, Bool.not_eq_true',
    Option.isNone_iff_eq_none] at h
  refine ⟨h.1.1.1, h.1.1.2, h.1.2, fun x hx => ?_⟩
  obtain ⟨⟨⟨h1, h2⟩, h3⟩, h4⟩ := h.2 x hx
  refine ⟨fun hp => ?_, h2, h3, fun e t he => ?_⟩
  · rcases h1 with h1 | h1
    · rw [hp] at h1; cases h1
    · exact h1
  · rw [h4] at he; cases he

/-- StepRunsFrontCommand, EmptyQueueCountsTime, StepsKeepDramForm and CommandsLeaveTheQueue: a command at the front, an empty
queue with VAUX up and down, and a step from a sound state. -/
theorem witness_block :
    let w : CsStore := store8 (0x07000100 + 0x40 * 15 + 0x28) 1
    let held := (streams 15 Desc.reset).onThread 0 (fun t =>
      { t with stq := some { off := w.offset, value := w.value.toNat, ring := t.psw.pl.toNat, marked := false } })
    ({ demo with pending := [.sbar (ins 0 0)] } : State).pending = [.sbar (ins 0 0)] ∧ State.reset.pending = [] ∧ State.reset.pins.vaux = true ∧
    ({ State.reset with pins := { State.reset.pins with vaux := false } } : State).pins.vaux = false ∧ DramOk State.reset ∧
    DramOk (gated 3 2 1 (descBytes 0x5000 0 3 4 0 1 0)) ∧ (∃ t, step State.reset = .next t) ∧
    (∃ t, exec (.sbar (ins 0 0)) demo = .next t) ∧ quietB demo (fun _ => false) = true ∧ quietB held (· == 0) = true ∧ FMap.has held.threads 0 = true ∧
    reachesB (held.setThread 0 { held.thread 0 with stq := none, hold := .none }) w (.stream 0 (0x100 + 0x40 * 15 + 0x28)) = true ∧
    w.value.toNat % 4 = 1 ∧ (FMap.get (held.core 0).descs 15 Desc.reset).state ≠ 1 := by
  and_intros <;> first | rfl | exact ⟨_, rfl⟩ | decide

/-! ### Worked examples of the manual -/

/-- What a meaning leaves, where it answers a next state. -/
def after (o : Host.Outcome State Fault Refusal) : State := match o with | .next s => s | _ => State.reset

/-- ADD.B SF of 0x7F and 0x01 is 0x80 with N and V (R59, R113). -/
theorem test_add_byte :
    let s := demoT (fun t => (t.setReg 1 0x7F).setReg 2 0x01)
    let t := (after (exec (.add { ins (r3 4 1 2 0) 0 with prefixes := [0xE2, 0xE3] }) s)).thread 0
    t.reg 4 = 0x80 ∧ t.fl = 9 := by decide

/-- SUB of a register from itself is zero with Z and no borrow (R113). -/
theorem test_sub_zero :
    let t := (after (exec (.sub { ins (r3 1 1 1 0) 0 with prefixes := [0xE3] }) demo)).thread 0
    t.reg 1 = 0 ∧ t.fl = 4 := by decide

/-- A shift by the width is a shift by none, with C 0 (R114). -/
theorem test_shift_width :
    let s := demoT (fun t => (t.setReg 1 0x81).setReg 2 64)
    let t := (after (exec (.shl { ins (r3 4 1 2 0) 0 with prefixes := [0xE3] }) s)).thread 0
    t.reg 4 = 0x81 ∧ t.fl = 0 := by decide

/-- 1.0 + 2.0 is 3.0 with no flag (R138). -/
theorem test_fadd : ((after (exec (.fadd (ins (r3 3 1 2 1) 0)) demo)).thread 0).f.find? (fun p => p.1 == 3) = some (3, 0x4008000000000000) := by
  decide

/-- IDCODE selects its register at reset (Table 19-8). -/
theorem test_reset_tap : State.reset.tap.ir = 0x01 := rfl

end Sys2Proof.Tests
end

section
/-!
PROOFS. What one row of a scalar instruction comes to, in the words of the statements: it retires, or it raises its fault.
-/

namespace Sys2Proof.Machine

open Sys2Proof.Safety

/-! ### Rows that change their own thread -/

/-- `z'` is `z` but for thread `g`, which is `u`. -/
def OnlyThread (z z' : State) (g : Nat) (u : Thread) : Prop :=
  z'.thread g = u ∧ ∀ w, z'.setThread g w = z.setThread g w

theorem OnlyThread.refl (z : State) (g : Nat) : OnlyThread z z g (z.thread g) := ⟨rfl, fun _ => rfl⟩

theorem OnlyThread.setThread (z : State) (g : Nat) (u : Thread) : OnlyThread z (z.setThread g u) g u :=
  ⟨State.thread_setThread_same z g u, State.setThread_setThread z g u⟩

theorem OnlyThread.onThread {z z' : State} {g : Nat} {u : Thread} (h : OnlyThread z z' g u) (f : Thread → Thread) :
    OnlyThread z (z'.onThread g f) g (f u) := by
  refine ⟨by rw [State.thread_onThread_same, h.1], fun w => ?_⟩
  rw [State.onThread_eq, State.setThread_setThread, h.2]

/-- What retirement trains does not look at the thread. -/
theorem OnlyThread.trained {z z' : State} {g : Nat} {u : Thread} (h : OnlyThread z z' g u) (evs : List Nat) (w : Thread) :
    (z'.trained g evs).setThread g w = (z.trained g evs).setThread g w := by
  rw [← State.trained_setThread, ← State.trained_setThread, h.2]

/-! ### Retiring -/

/-- An instruction that issues and completes into `z'`, which is `z` but for its thread, retires there with the part of `z`. -/
theorem State.retiresIn_of_onlyThread {s z z' : State} {o : Op} {x : Insn} {body : State → Fin} {next : Option Word}
    {evs : List Nat} {u : Thread} (h : Issues s o x) (r : (body s).retires = true)
    (hb : body (fetchedFor s o x) = .done z' next evs false false) (hz : OnlyThread z z' x.thread u) :
    RetiresIn s (z.trained x.thread evs) (s.issue o x body) x.thread (next.getD (s.after o x))
      { u with misp := u.misp && !evs.contains 0x03 } := by
  rw [State.issue_of_issues h r, hb]
  obtain ⟨sys, n, e, hk⟩ :=
    State.retired_spec z' x.thread (s.thread x.thread).ring (next.getD (s.after o x)) evs
  rw [hz.1] at e hk
  exact ⟨_, ⟨sys, n, e.trans (by rw [hz.trained]), hk⟩, rfl⟩

/-- A row that completes into the next instruction, its thread `u` and no event counted, gives `u`. -/
theorem gives_of_ok {s z' : State} {i : Instr} {o : Op} {x : Insn} {body : State → Fin} {u : Thread}
    (he : exec i s = .next (s.issue o x body)) (h : Issues s o x) (r : (body s).retires = true)
    (hb : body (fetchedFor s o x) = .ok z') (hz : OnlyThread (fetchedFor s o x) z' x.thread u) : Gives s i o x u := by
  have := State.retiresIn_of_onlyThread h r hb hz
  simp only [List.contains_nil, Bool.not_false, Bool.and_true] at this
  exact ⟨_, he, this⟩

/-- The same for a row whose effect is the change `f` of its thread, before its bytes are fetched and after. -/
theorem gives_of_onThread {s : State} {i : Instr} {o : Op} {x : Insn} {body : State → Fin} {f : Thread → Thread}
    (he : exec i s = .next (s.issue o x body)) (h : Issues s o x)
    (hb : ∀ z : State, z = s ∨ z = fetchedFor s o x → z.thread x.thread = s.thread x.thread →
      body z = .ok (z.onThread x.thread f)) :
    Gives s i o x (f (s.thread x.thread)) := by
  refine gives_of_ok he h (by rw [hb s (.inl rfl) rfl]; rfl) (hb _ (.inr rfl) (fetchedFor_thread ..)) ?_
  have := (OnlyThread.refl (fetchedFor s o x) x.thread).onThread f
  rwa [fetchedFor_thread] at this

/-- A row whose effect faults raises its fault. -/
theorem raises_of_flt {s s' : State} {i : Instr} {o : Op} {x : Insn} {body : State → Fin} {f : Flt}
    (he : exec i s = .next (s.issue o x body)) (h : Issues s o x) (hb : body s = .flt f s') :
    Raises s s' i x.thread f := by
  unfold Raises
  rw [he, State.issue_of_fault h hb]

/-! ### What a register write leaves of its thread -/

variable (t : Thread) (r : Nat) (v : Word)

theorem Thread.setReg_fl : (t.setReg r v).fl = t.fl := by
  unfold Thread.setReg
  split
  · rfl
  · split <;> rfl

/-- FL put back after a register write. -/
theorem Thread.setReg_with_fl : { t.setReg r v with fl := t.fl } = t.setReg r v :=
  (congrArg (fun b => { t.setReg r v with fl := b }) (Thread.setReg_fl t r v).symm).trans rfl

end Sys2Proof.Machine

/-! ### Numbers at an operand width -/

namespace Sys2Proof

theorem Insn.width_cases (x : Insn) : x.width = 8 ∨ x.width = 16 ∨ x.width = 32 ∨ x.width = 64 := by
  unfold Insn.width
  split
  · exact .inr (.inr (.inl rfl))
  split
  · exact .inr (.inl rfl)
  split
  · exact .inl rfl
  · exact .inr (.inr (.inr rfl))

theorem Insn.width_pos (x : Insn) : 0 < x.width := by have := x.width_cases; omega

theorem ofNat_two_pow (w : Nat) : Int.ofNat (2 ^ w) = (2 : Int) ^ w := Int.natCast_pow 2 w

theorem two_pow_eq_double {w : Nat} (hw : 0 < w) : 2 ^ w = 2 * 2 ^ (w - 1) := by
  obtain ⟨k, rfl⟩ : ∃ k, w = k + 1 := ⟨w - 1, by omega⟩
  rw [Nat.add_sub_cancel, Nat.pow_succ, Nat.mul_comm]

theorem signedOf_eq_toInt {w : Nat} (hw : 0 < w) (v : Nat) : signedOf w v = (BitVec.ofNat w v).toInt := by
  have hlt : v % 2 ^ w < 2 ^ (w - 1) ↔ 2 * (v % 2 ^ w) < 2 ^ w := by
    rw [two_pow_eq_double hw]
    omega
  rw [BitVec.toInt_eq_toNat_cond, BitVec.toNat_ofNat, signedOf]
  by_cases h : v % 2 ^ w < 2 ^ (w - 1)
  · exact (if_pos h).trans (if_pos (hlt.mp h)).symm
  · exact (if_neg h).trans (if_neg (mt hlt.mpr h)).symm

theorem signedOf_mod (w v : Nat) : signedOf w (v % 2 ^ w) = signedOf w v := by
  unfold signedOf
  rw [Nat.mod_mod]

end Sys2Proof

namespace Sys2Proof.Machine

open Sys2Proof.Safety

theorem narrow_eq_toNat_ofInt (w : Nat) (i : Int) : narrow w i = (BitVec.ofInt w i).toNat := (BitVec.toNat_ofInt i).symm

theorem outOfSigned_iff (w : Nat) (i : Int) : outOfSigned w i = true ↔ SignedOut w i := by
  unfold outOfSigned SignedOut
  rw [ofNat_two_pow, Bool.or_eq_true, decide_eq_true_iff, decide_eq_true_iff]
  generalize (2 : Int) ^ (w - 1) = p
  omega

theorem bitOf_top_iff {w n : Nat} (hw : 0 < w) (hn : n < 2 ^ w) : bitOf n (w - 1) = true ↔ 2 ^ (w - 1) ≤ n := by
  rw [two_pow_eq_double hw] at hn
  have hlt : n / 2 ^ (w - 1) < 2 := Nat.div_lt_of_lt_mul (by rwa [Nat.mul_comm])
  rw [bitOf, beq_iff_eq, Nat.mod_eq_of_lt hlt, ← Nat.one_le_div_iff (Nat.two_pow_pos (w - 1))]
  generalize n / 2 ^ (w - 1) = q at hlt
  omega

theorem mkFlags_bits (w res : Nat) (c v : Bool) :
    (mkFlags w res c v).getLsbD 3 = bitOf res (w - 1) ∧ (mkFlags w res c v).getLsbD 2 = (res % 2 ^ w == 0) ∧
      (mkFlags w res c v).getLsbD 1 = c ∧ (mkFlags w res c v).getLsbD 0 = v := by
  unfold mkFlags
  cases bitOf res (w - 1) <;> cases res % 2 ^ w == 0 <;> cases c <;> cases v <;> decide

/-- FL as the arithmetic forms it is FL as R113 writes it. -/
theorem flagsAre_mkFlags {w res : Nat} {c v : Bool} (hw : 0 < w) (hr : res < 2 ^ w) :
    flagsAre (mkFlags w res c v) w res (c = true) (v = true) := by
  obtain ⟨h3, h2, h1, h0⟩ := mkFlags_bits w res c v
  unfold flagsAre
  rw [h3, h2, h1, h0]
  exact ⟨bitOf_top_iff hw hr, by rw [Nat.mod_eq_of_lt hr, beq_iff_eq], Iff.rfl, Iff.rfl⟩

/-! ### Arithmetic rows -/

/-- A result of the width and its flags, written by a row that reads and changes nothing but its thread. -/
theorem State.aluResult_onlyThread (z : State) (x : Insn) (d : Nat) (r : AluOut) (hr : r.val < 2 ^ x.width) :
    OnlyThread z (z.aluResult x d r) x.thread
      { (z.thread x.thread).setReg d (BitVec.ofNat 64 r.val) with
        fl := if x.sf then r.fl else (z.thread x.thread).fl } := by
  have h := (OnlyThread.refl z x.thread).onThread
    (fun t => t.setReg d (BitVec.ofNat 64 (r.val % 2 ^ x.width)))
  simp only [Nat.mod_eq_of_lt hr] at h
  unfold State.aluResult State.setInt
  simp only [Nat.mod_eq_of_lt hr]
  cases x.sf
  · rw [← Thread.setReg_with_fl] at h
    exact h
  · exact h.onThread (fun t => { t with fl := r.fl })

/-- An arithmetic row of form R3 writes what `f` computes, with its flags. -/
theorem givesInt_of_aluReg {s : State} {i : Instr} {x : Insn} {f : Nat → Nat → Nat → Nat → AluOut} {res : Nat}
    {fl : BitVec 4} {c v : Prop}
    (he : exec i s = .next (s.aluReg x f)) (h : Issues s (opR3 true true validR3) x)
    (hf : f x.width ((s.thread x.thread).reg x.ra).toNat ((s.thread x.thread).reg x.rb).toNat (s.thread x.thread).carry =
      { val := res, fl := fl })
    (hr : res < 2 ^ x.width) (hfl : flagsAre fl x.width res c v) :
    GivesInt s i (opR3 true true validR3) x x.rd res c v := by
  have hz := State.aluResult_onlyThread (fetchedFor s (opR3 true true validR3) x) x x.rd { val := res, fl := fl } hr
  rw [fetchedFor_thread] at hz
  obtain ⟨t, ht, hc⟩ := gives_of_ok he h rfl (by simp only [fetchedFor_thread, hf]) hz
  refine ⟨t, _, ht, hc, ?_⟩
  cases x.sf
  · rfl
  · exact hfl

end Sys2Proof.Machine
end

section
/-!
PROOFS. Multiply and divide (R113, R130 to R133).
-/

namespace Sys2Proof.Machine

open Sys2Proof.Safety

/-! ### Products -/

/-- MUL's result and flags are those of the product of the operands as words of the width. -/
theorem aluMul_eq {w : Nat} (hw : 0 < w) (a b : Nat) :
    aluMul w a b =
      let p := BitVec.ofNat w a
      let q := BitVec.ofNat w b
      { val := (p * q).toNat
        fl := mkFlags w (p * q).toNat (decide (2 ^ w ≤ p.toNat * q.toNat)) (outOfSigned w (p.toInt * q.toInt)) } := by
  simp only [aluMul, signedOf_mod, ← signedOf_eq_toInt hw, BitVec.toNat_mul, BitVec.toNat_ofNat]

theorem mul_givesInt {s : State} {x : Insn} (h : Issues s (opR3 true true validR3) x) :
    let p := BitVec.ofNat x.width ((s.thread x.thread).reg x.ra).toNat
    let q := BitVec.ofNat x.width ((s.thread x.thread).reg x.rb).toNat
    GivesInt s (.mul x) (opR3 true true validR3) x x.rd (p * q).toNat (2 ^ x.width ≤ p.toNat * q.toNat)
      (SignedOut x.width (p.toInt * q.toInt)) := by
  intro p q
  have hfl := flagsAre_mkFlags (c := decide (2 ^ x.width ≤ p.toNat * q.toNat)) (v := outOfSigned x.width (p.toInt * q.toInt))
    x.width_pos (p * q).isLt
  rw [decide_eq_true_iff, outOfSigned_iff] at hfl
  exact givesInt_of_aluReg (f := fun w a b _ => aluMul w a b) rfl h (aluMul_eq x.width_pos ..) (p * q).isLt hfl

/-- A multiply of full registers writes the low 64 bits of what `f` computes. -/
theorem gives_of_mul64 {s : State} {i : Instr} {x : Insn} {f : Nat → Nat → Nat} {r : Word} (he : exec i s = .next (s.mul64 x f))
    (h : Issues s (opR3 false false validR3) x)
    (hf : f ((s.thread x.thread).reg x.ra).toNat ((s.thread x.thread).reg x.rb).toNat % 2 ^ 64 = r.toNat) :
    Gives s i (opR3 false false validR3) x ((s.thread x.thread).setReg x.rd r) := by
  refine gives_of_onThread (f := fun t => t.setReg x.rd r) he h (fun z _ hz => ?_)
  simp only [hz, State.setInt, hf, BitVec.ofNat_toNat, BitVec.setWidth_eq]

/-! ### Quotients -/

/-- A divide by a number that is not zero, with no interrupt to take, writes what `f` computes. -/
theorem gives_of_divide {s : State} {i : Instr} {x : Insn} {f : Nat → Nat → Nat → Nat} {r : BitVec x.width}
    (he : exec i s = .next (s.divide x f)) (h : Issues s (opR3 true false validR3) x)
    (hb : BitVec.ofNat x.width ((s.thread x.thread).reg x.rb).toNat ≠ 0) (hs : s.nextIrq x.thread = none)
    (hn : (fetchedFor s (opR3 true false validR3) x).nextIrq x.thread = none)
    (hf : f x.width (BitVec.ofNat x.width ((s.thread x.thread).reg x.ra).toNat).toNat
      (BitVec.ofNat x.width ((s.thread x.thread).reg x.rb).toNat).toNat = r.toNat) :
    Gives s i (opR3 true false validR3) x ((s.thread x.thread).setReg x.rd (BitVec.ofNat 64 r.toNat)) := by
  have hb' : ((s.thread x.thread).reg x.rb).toNat % 2 ^ x.width ≠ 0 := by
    rwa [ne_eq, BitVec.toNat_eq, BitVec.toNat_ofNat] at hb
  refine gives_of_onThread (f := fun t => t.setReg x.rd (BitVec.ofNat 64 r.toNat)) he h (fun z hz ht => ?_)
  have hi : z.nextIrq x.thread = none := by
    rcases hz with rfl | rfl
    · exact hs
    · exact hn
  simp only [BitVec.toNat_ofNat] at hf
  simp only [ht, hb', hi, hf, State.setInt, if_false, Option.isSome_none, Bool.false_eq_true, Nat.mod_eq_of_lt r.isLt]

/-- A divide by zero raises fault 0x0D with subcode 0x01. -/
theorem raises_of_divide {s : State} {i : Instr} {x : Insn} {f : Nat → Nat → Nat → Nat} (he : exec i s = .next (s.divide x f))
    (h : Issues s (opR3 true false validR3) x) (hb : BitVec.ofNat x.width ((s.thread x.thread).reg x.rb).toNat = 0) :
    Raises s s i x.thread (Flt.mk' 0x0D 0x01 0) := by
  have hb' : ((s.thread x.thread).reg x.rb).toNat % 2 ^ x.width = 0 := by
    simpa only [BitVec.toNat_ofNat, BitVec.ofNat_eq_ofNat, Nat.zero_mod] using congrArg BitVec.toNat hb
  exact raises_of_flt he h (if_pos hb')

theorem narrow_tdiv {w : Nat} (hw : 0 < w) (a b : BitVec w) :
    narrow w (Int.tdiv (signedOf w a.toNat) (signedOf w b.toNat)) = (a.sdiv b).toNat := by
  have : a.sdiv b = BitVec.ofInt w (Int.tdiv a.toInt b.toInt) := by
    apply BitVec.eq_of_toInt_eq
    rw [BitVec.toInt_sdiv, BitVec.toInt_ofInt]
  rw [narrow_eq_toNat_ofInt, signedOf_eq_toInt hw, signedOf_eq_toInt hw, BitVec.ofNat_toNat, BitVec.ofNat_toNat,
    BitVec.setWidth_eq, BitVec.setWidth_eq, this]

theorem narrow_tmod {w : Nat} (hw : 0 < w) (a b : BitVec w) :
    narrow w (Int.tmod (signedOf w a.toNat) (signedOf w b.toNat)) = (a.srem b).toNat := by
  have : a.srem b = BitVec.ofInt w (Int.tmod a.toInt b.toInt) := by
    rw [← BitVec.toInt_srem, BitVec.ofInt_toInt]
  rw [narrow_eq_toNat_ofInt, signedOf_eq_toInt hw, signedOf_eq_toInt hw, BitVec.ofNat_toNat, BitVec.ofNat_toNat,
    BitVec.setWidth_eq, BitVec.setWidth_eq, this]

theorem mulh_eq (a b : Word) :
    narrow 64 (signedOf 64 a.toNat * signedOf 64 b.toNat / 2 ^ 64) % 2 ^ 64 =
      (BitVec.ofInt 64 (a.toInt * b.toInt / 2 ^ 64)).toNat := by
  rw [narrow_eq_toNat_ofInt, Nat.mod_eq_of_lt (BitVec.isLt _), signedOf_eq_toInt (by decide), signedOf_eq_toInt (by decide),
    BitVec.ofNat_toNat, BitVec.ofNat_toNat, BitVec.setWidth_eq, BitVec.setWidth_eq]

/-- Settles O3: each row's result is that of the operation on words of its width; a zero divisor comes before the interrupt. -/
theorem multiplyAndDivideResults : Obligations.MultiplyAndDivideResults := by
  unfold Obligations.MultiplyAndDivideResults
  constructor
  · intro x s
    refine ⟨mul_givesInt, fun h => ⟨?_, ?_, ?_⟩⟩
    · exact gives_of_mul64 (f := fun a b => narrow 64 (signedOf 64 a * signedOf 64 b / 2 ^ 64)) rfl h (mulh_eq _ _)
    · exact gives_of_mul64 (f := fun a b => a * b / 2 ^ 64) rfl h (BitVec.toNat_ofNat ..).symm
    · exact gives_of_mul64 (f := fun a b => a * b) rfl h (BitVec.toNat_mul ..).symm
  · intro x s v w o a b dest h
    refine ⟨fun hb hs hn => ⟨?_, ?_, ?_, ?_⟩, ?_⟩
    · exact gives_of_divide (f := fun w a b => narrow w (Int.tdiv (signedOf w a) (signedOf w b))) rfl h hb hs hn
        (narrow_tdiv x.width_pos _ _)
    · exact gives_of_divide (f := fun _ a b => a / b) rfl h hb hs hn BitVec.toNat_udiv.symm
    · exact gives_of_divide (f := fun w a b => narrow w (Int.tmod (signedOf w a) (signedOf w b))) rfl h hb hs hn
        (narrow_tmod x.width_pos _ _)
    · exact gives_of_divide (f := fun _ a b => a % b) rfl h hb hs hn BitVec.toNat_umod.symm
    · intro hb i hi
      simp only [List.mem_cons, List.not_mem_nil, or_false] at hi
      rcases hi with rfl | rfl | rfl | rfl <;> exact raises_of_divide rfl h hb

end Sys2Proof.Machine
end

section
/-!
PROOFS. Branches (R65, R75, R115, R118, R119).
-/

namespace Sys2Proof.Machine

open Sys2Proof.Safety

theorem jumpTo_of_canonical {z z' : State} {a : Word} (h : a.toNat < 2 ^ 48) :
    jumpTo z z' a = .done z' (some a) [0x03] false false := by
  simp only [jumpTo, canonical, h, decide_true, if_true]

theorem jumpTo_of_noncanonical {z z' : State} {a : Word} (h : 2 ^ 48 ≤ a.toNat) :
    jumpTo z z' a = .flt (Flt.mk' 0x04 0x30 a) z := by
  simp only [jumpTo, canonical, Nat.not_lt.mpr h, decide_false, Bool.false_eq_true, if_false]

/-- The target of a branch is the same in every state that has its thread. -/
theorem State.bTarget_eq {z s : State} {o : Op} {x : Insn} (h : z.thread x.thread = s.thread x.thread) :
    z.bTarget o x = if ds x = 0 then (s.thread x.thread).reg (bSpec x) else s.after o x + x.disp .b := by
  simp only [State.bTarget, State.after, h]

/-- A branch that completes, to its target or past it, trains the predictors and settles its misprediction. -/
theorem branch_retires {s : State} {i : Instr} {o : Op} {x : Insn} {body : State → Fin} {eff : State → State} {next : Option Word}
    {u : Thread} (he : exec i s = .next (s.issue o x body)) (h : Issues s o x)
    (hb : ∀ z : State, z.thread x.thread = s.thread x.thread → body z = .done (eff z) next [0x03] false false)
    (hu : ∀ z : State, z.thread x.thread = s.thread x.thread → OnlyThread z (eff z) x.thread u) :
    ∃ t, exec i s = .next t ∧ RetiresIn s ((fetchedFor s o x).trainPredictor x.thread) t x.thread (next.getD (s.after o x))
      { u with misp := false } := by
  have hf : (fetchedFor s o x).thread x.thread = s.thread x.thread := fetchedFor_thread ..
  have := State.retiresIn_of_onlyThread h (by rw [hb s rfl]; rfl) (hb _ hf) (hu _ hf)
  rw [show (!List.contains [0x03] 0x03) = false from rfl, Bool.and_false] at this
  exact ⟨_, he, this⟩

/-- A row that tests `taken` and leaves its thread as `u`: it goes to its target, raises the fault of a target that is not
canonical, or goes to the next instruction. -/
theorem branchOn_outcomes {s : State} {i : Instr} {o : Op} {x : Insn} {eff : State → State} {test : State → Bool} {taken : Prop}
    {u : Thread} (he : exec i s = .next (s.issue o x (fun z => branchOn z (eff z) (test z) (z.bTarget o x))))
    (h : Issues s o x) (ht : ∀ z : State, z.thread x.thread = s.thread x.thread → (test z = true ↔ taken))
    (hu : ∀ z : State, z.thread x.thread = s.thread x.thread → OnlyThread z (eff z) x.thread u) :
    let a := if ds x = 0 then (s.thread x.thread).reg (bSpec x) else s.after o x + x.disp .b
    let f := (fetchedFor s o x).trainPredictor x.thread
    (taken → a.toNat < 2 ^ 48 → ∃ t, exec i s = .next t ∧ RetiresIn s f t x.thread a { u with misp := false }) ∧
    (taken → 2 ^ 48 ≤ a.toNat → Raises s s i x.thread (Flt.mk' 0x04 0x30 a)) ∧
    (¬taken → ∃ t, exec i s = .next t ∧ RetiresIn s f t x.thread (s.after o x) { u with misp := false }) := by
  intro a f
  have go : ∀ z : State, z.thread x.thread = s.thread x.thread → taken →
      branchOn z (eff z) (test z) (z.bTarget o x) = jumpTo z (eff z) a := fun z hz p => by
    rw [State.bTarget_eq hz, branchOn, if_pos ((ht z hz).mpr p)]
  have stay : ∀ z : State, z.thread x.thread = s.thread x.thread → ¬taken →
      branchOn z (eff z) (test z) (z.bTarget o x) = .done (eff z) none [0x03] false false := fun z hz p => by
    rw [branchOn, if_neg (mt (ht z hz).mp p)]
  refine ⟨fun p ha => ?_, fun p ha => ?_, fun p => ?_⟩
  · exact branch_retires (next := some a) he h (fun z hz => (go z hz p).trans (jumpTo_of_canonical ha)) hu
  · exact raises_of_flt he h ((go s rfl p).trans (jumpTo_of_noncanonical ha))
  · exact branch_retires (next := none) he h (fun z hz => stay z hz p) hu

/-- Settles O6: each row is a branch on a test of its thread; only DBNZ writes to it. -/
theorem branchOutcomes : Obligations.BranchOutcomes := by
  unfold Obligations.BranchOutcomes
  intro x s g v r branch
  have same : ∀ z : State, z.thread g = v → OnlyThread z z g v := fun z hz => hz ▸ OnlyThread.refl z g
  refine ⟨fun h => ?_, fun cond h => ?_, fun h => ?_, fun h => ?_, fun h => ?_⟩
  · exact branchOn_outcomes (eff := id) (test := fun _ => true) rfl h (fun _ _ => ⟨fun _ => trivial, fun _ => rfl⟩) same
  · exact branchOn_outcomes (eff := id) (test := fun z => condTrue cond (z.thread g).fl) rfl h
      (fun z hz => by rw [hz]) same
  · exact branchOn_outcomes (eff := id) (test := fun z => (z.thread g).reg (bSpec x) == 0) rfl h
      (fun z hz => by rw [hz, beq_iff_eq]) same
  · exact branchOn_outcomes (eff := id) (test := fun z => (z.thread g).reg (bSpec x) != 0) rfl h
      (fun z hz => by rw [hz, bne_iff_ne]) same
  · refine branchOn_outcomes (test := fun z => (z.thread g).reg (bSpec x) - 1 != 0)
      (eff := fun z => z.onThread g (fun t => t.setReg (bSpec x) ((z.thread g).reg (bSpec x) - 1))) rfl h
      (fun z hz => by rw [hz, bne_iff_ne]) (fun z hz => ?_)
    rw [hz]
    exact (same z hz).onThread _

end Sys2Proof.Machine
end

section
/-!
PROOFS. Floating-point comparison and conversion (R139, R141 to R143, R820).
-/

namespace Sys2Proof.Machine

open Sys2Proof.Safety

/-! ### The end of a floating-point row -/

/-- The row `i` ends as a floating-point row that meets `exc` and writes `f` (R141): the flags and the write, or with an enabled
exception the flags and its fault. -/
def FpEnds (s : State) (i : Instr) (o : Op) (x : Insn) (exc : Nat) (f : Thread → Thread) : Prop :=
  let v := s.thread x.thread
  (trapSub exc v.fte = none → Gives s i o x (f (v.addFlags exc))) ∧
    ∀ sub, trapSub exc v.fte = some sub →
      Raises s (s.setThread x.thread (v.addFlags exc)) i x.thread (Flt.mk' 0x0E sub 0)

theorem fpEnds_of_fpEnd {s : State} {i : Instr} {o : Op} {x : Insn} {body : State → Fin} {exc : Nat} {f : Thread → Thread}
    (he : exec i s = .next (s.issue o x body)) (h : Issues s o x)
    (hb : ∀ z : State, z.thread x.thread = s.thread x.thread → body z = z.fpEnd x exc (fun y => y.onThread x.thread f)) :
    FpEnds s i o x exc f := by
  constructor
  · intro hn
    have ok : ∀ z : State, z.thread x.thread = s.thread x.thread →
        body z = .ok ((z.setThread x.thread ((s.thread x.thread).addFlags exc)).onThread x.thread f) := fun z hz => by
      simp only [hb z hz, State.fpEnd, hz, hn]
    exact gives_of_ok he h (by rw [ok s rfl]; rfl) (ok _ (fetchedFor_thread ..)) ((OnlyThread.setThread ..).onThread f)
  · intro sub hsub
    exact raises_of_flt he h (by simp only [hb s rfl, State.fpEnd, hsub])

/-! ### Comparison -/

theorem trapSub_zero (te : Nat) : trapSub 0 te = none := rfl

theorem trapSub_one (te : Nat) : trapSub 1 te = if bitOf te 0 then some 1 else none := by
  have bits : bitOf 1 0 = true ∧ bitOf 1 1 = false ∧ bitOf 1 2 = false ∧ bitOf 1 3 = false ∧ bitOf 1 4 = false := by decide
  obtain ⟨h0, h1, h2, h3, h4⟩ := bits
  simp only [trapSub, show List.range 5 = [0, 1, 2, 3, 4] from rfl, List.find?_cons, List.find?_nil, h0, h1, h2, h3, h4,
    Bool.true_and, Bool.false_and]
  cases bitOf te 0 <;> rfl

/-- A compare writes FL by Table 3-8, or traps when it is invalid and the trap is enabled. -/
theorem fcompare_outcomes {s : State} {i : Instr} {x : Insn} {quiet : Bool} (he : exec i s = .next (s.fcompare x quiet)) :
    let v := s.thread x.thread
    let a := (fmtOf x.fn).unpack (v.fval (fmtOf x.fn) x.ra)
    let b := (fmtOf x.fn).unpack (v.fval (fmtOf x.fn) x.rb)
    let invalid := if quiet then a.snan || b.snan else a.isNan || b.isNan
    let o := Op.plain false .r3 (validF (fun x => x.rd == 0) (fun x => isFp x.rb))
    let u := v.addFlags (natOf invalid)
    Issues s o x →
      ((invalid = false ∨ bitOf v.fte 0 = false) → Gives s i o x { u with fl := cmpFlags (numCmp a b) }) ∧
      (invalid = true → bitOf v.fte 0 = true → Raises s (s.setThread x.thread u) i x.thread (Flt.mk' 0x0E 0x01 0)) := by
  intro v a b invalid o u h
  obtain ⟨gives, raises⟩ := fpEnds_of_fpEnd (exc := natOf invalid) (f := fun t => { t with fl := cmpFlags (numCmp a b) }) he h
    (fun z hz => by simp only [hz]; rfl)
  refine ⟨fun hq => gives ?_, fun hi ht => raises 1 ?_⟩
  · cases hi : invalid
    · exact trapSub_zero _
    · have : bitOf v.fte 0 = false := hq.resolve_left (by rw [hi]; decide)
      exact (trapSub_one _).trans (by rw [this]; rfl)
  · rw [hi]
    exact (trapSub_one _).trans (by rw [ht]; rfl)

/-! ### Conversion -/

theorem narrow_eq (w : Nat) (i : Int) : narrow w i = (i % 2 ^ w).toNat := by
  rw [narrow, ofNat_two_pow]

theorem narrow_lt (w : Nat) (i : Int) : narrow w i < 2 ^ w := by
  rw [narrow_eq_toNat_ofInt]
  exact BitVec.isLt _

/-- A conversion to an integer ends with what `toIntOut` gives. -/
theorem fcvtToInt_ends {s : State} {i : Instr} {x : Insn} {w : Nat} {signed : Bool} {n : Int} {exc : Nat}
    (he : exec i s = .next (s.fcvtToInt x w signed))
    (h : Issues s (Op.plain true .r3 (fun x => isInt x.rd && isFp x.ra && x.rb == 0 && decide (x.fn < 2))) x)
    (hr : toIntOut (s.thread x.thread).frm w signed
      ((fmtOf x.fn).unpack ((s.thread x.thread).fval (fmtOf x.fn) x.ra)) = { val := narrow w n, exc := exc }) :
    FpEnds s i (Op.plain true .r3 (fun x => isInt x.rd && isFp x.ra && x.rb == 0 && decide (x.fn < 2))) x exc
      (fun t => t.setReg x.rd (BitVec.ofNat 64 (n % 2 ^ w).toNat)) := by
  rw [← narrow_eq]
  refine fpEnds_of_fpEnd he h (fun z hz => ?_)
  simp only [hz, hr, State.setInt, Nat.mod_eq_of_lt (narrow_lt w n)]

/-- A conversion from an integer ends with that integer rounded. -/
theorem fcvtFromInt_ends {s : State} {i : Instr} {x : Insn} {w : Nat} {signed : Bool} {n : Int}
    (he : exec i s = .next (s.fcvtFromInt x w signed))
    (h : Issues s (Op.plain true .r3 (fun x => isFp x.rd && isInt x.ra && x.rb == 0 && decide (x.fn < 2))) x)
    (hn : (if signed then signedOf w (((s.thread x.thread).reg x.ra).toNat % 2 ^ w)
      else Int.ofNat (((s.thread x.thread).reg x.ra).toNat % 2 ^ w)) = n) :
    let r := (fmtOf x.fn).round (s.thread x.thread).frm (decide (n < 0)) n.natAbs 0 false
    FpEnds s i (Op.plain true .r3 (fun x => isFp x.rd && isInt x.ra && x.rb == 0 && decide (x.fn < 2))) x r.exc
      (fun t => t.setFreg x.rd (BitVec.ofNat 64 r.val)) := by
  refine fpEnds_of_fpEnd he h (fun z hz => ?_)
  simp only [hz, hn, State.setF]

/-- A conversion between formats ends with what `convert` gives. -/
theorem fcvtF_ends {s : State} {i : Instr} {x : Insn} {src dst : BinFmt} (he : exec i s = .next (s.fcvtF x src dst))
    (h : Issues s (Op.plain true .r3 (fun x => isFp x.rd && isFp x.ra && x.rb == 0 && x.fn == 0)) x) :
    let r := dst.convert (s.thread x.thread).frm (src.unpack ((s.thread x.thread).fval src x.ra))
    FpEnds s i (Op.plain true .r3 (fun x => isFp x.rd && isFp x.ra && x.rb == 0 && x.fn == 0)) x r.exc
      (fun t => t.setFreg x.rd (BitVec.ofNat 64 r.val)) := by
  refine fpEnds_of_fpEnd he h (fun z hz => ?_)
  simp only [hz, State.setF]

/-! ### Integers of 32 and 64 bits -/

theorem signedOf_low32 (r : Word) : signedOf 32 (r.toNat % 2 ^ 32) = (r.extractLsb' 0 32).toInt := by
  have e : BitVec.ofNat 32 r.toNat = r.extractLsb' 0 32 := BitVec.eq_of_toNat_eq (by
    rw [BitVec.toNat_ofNat, BitVec.extractLsb'_toNat, Nat.shiftRight_zero])
  rw [signedOf_mod, signedOf_eq_toInt (by decide), e]

theorem toNat_low32 (r : Word) : Int.ofNat (r.toNat % 2 ^ 32) = (r.extractLsb' 0 32).toNat := by
  rw [BitVec.extractLsb'_toNat, Nat.shiftRight_zero]
  rfl

theorem toNat_low64 (r : Word) : Int.ofNat (r.toNat % 2 ^ 64) = r.toNat :=
  congrArg Int.ofNat (Nat.mod_eq_of_lt r.isLt)

theorem signedOf_low64 (r : Word) : signedOf 64 (r.toNat % 2 ^ 64) = r.toInt := by
  rw [signedOf_mod, signedOf_eq_toInt (by decide), BitVec.ofNat_toNat, BitVec.setWidth_eq]

/-- The least and the greatest integer of `w` bits. -/
def intMin (w : Nat) (signed : Bool) : Int := if signed then -Int.ofNat (2 ^ (w - 1)) else 0
def intMax (w : Nat) (signed : Bool) : Int := if signed then Int.ofNat (2 ^ (w - 1)) - 1 else Int.ofNat (2 ^ w) - 1

variable (rm w : Nat) (signed : Bool)

/-- What `toIntOut` gives, by its operand: NaN and infinities are invalid, and so is a rounded value outside the range. -/
theorem toIntOut_nan (q : Bool) : toIntOut rm w signed (.nan q) = { val := narrow w 0, exc := 1 } := by
  rw [narrow, Int.zero_emod]
  rfl

theorem toIntOut_inf (neg : Bool) :
    toIntOut rm w signed (.inf neg) = { val := narrow w (if neg then intMin w signed else intMax w signed), exc := 1 } := rfl

theorem toIntOut_below {neg : Bool} {m : Nat} {e : Int} (h : (roundToInt rm neg m e).1 < intMin w signed) :
    toIntOut rm w signed (.fin neg m e) = { val := narrow w (intMin w signed), exc := 1 } := if_pos h

theorem toIntOut_above {neg : Bool} {m : Nat} {e : Int} (hl : ¬(roundToInt rm neg m e).1 < intMin w signed)
    (h : intMax w signed < (roundToInt rm neg m e).1) :
    toIntOut rm w signed (.fin neg m e) = { val := narrow w (intMax w signed), exc := 1 } := (if_neg hl).trans (if_pos h)

theorem toIntOut_inside {neg : Bool} {m : Nat} {e : Int} (hl : ¬(roundToInt rm neg m e).1 < intMin w signed)
    (h : ¬intMax w signed < (roundToInt rm neg m e).1) :
    toIntOut rm w signed (.fin neg m e) =
      { val := narrow w (roundToInt rm neg m e).1, exc := if (roundToInt rm neg m e).2 then 16 else 0 } := by
  have hexc : 16 * natOf (roundToInt rm neg m e).2 = if (roundToInt rm neg m e).2 then 16 else 0 := by
    cases (roundToInt rm neg m e).2 <;> rfl
  rw [← hexc]
  exact (if_neg hl).trans (if_neg h)

/-- Settles O10: each row ends through `fpEnd`, with FL of the order of its operands, or with its result rounded once. -/
theorem compareAndConvertResults : Obligations.CompareAndConvertResults := by
  unfold Obligations.CompareAndConvertResults
  constructor
  · intro x s g v k a b o fl op h
    have hfl : fl = cmpFlags (numCmp a b) := by
      simp only [fl]
      rcases numCmp a b with _ | d
      · rfl
      · rcases Int.lt_trichotomy d 0 with h | rfl | h
        · exact (if_pos h).trans (if_pos h).symm
        · rfl
        · have hn : ¬d < 0 := by omega
          have he : ¬d = 0 := by omega
          exact ((if_neg hn).trans (if_pos h)).trans ((if_neg hn).trans (if_neg he)).symm
    simp only [op, hfl]
    exact ⟨fcompare_outcomes (quiet := true) rfl h, fcompare_outcomes (quiet := false) rfl h⟩
  · intro x s g v k done ff fi nf conv toInt fromInt
    have toInt_holds : ∀ (i : Instr) (w : Nat) (signed : Bool), exec i s = .next (s.fcvtToInt x w signed) → Issues s fi x →
        ∀ {lo hi : Int}, intMin w signed = lo → intMax w signed = hi → toInt i w lo hi := by
      rintro i w signed he h _ _ rfl rfl
      simp only [toInt]
      rcases hk : k.unpack (v.fval k x.ra) with q | neg | ⟨neg, m, e⟩
      · exact fcvtToInt_ends he h ((congrArg _ hk).trans (toIntOut_nan ..))
      · exact fcvtToInt_ends he h ((congrArg _ hk).trans (toIntOut_inf ..))
      · dsimp only
        by_cases hl : (roundToInt v.frm neg m e).1 < intMin w signed
        · rw [if_pos hl]
          exact fcvtToInt_ends he h ((congrArg _ hk).trans (toIntOut_below _ _ _ hl))
        rw [if_neg hl]
        by_cases hh : intMax w signed < (roundToInt v.frm neg m e).1
        · rw [if_pos hh]
          exact fcvtToInt_ends he h ((congrArg _ hk).trans (toIntOut_above _ _ _ hl hh))
        · rw [if_neg hh]
          exact fcvtToInt_ends he h ((congrArg _ hk).trans (toIntOut_inside _ _ _ hl hh))
    refine ⟨fun h => ⟨fcvtF_ends rfl h, fcvtF_ends rfl h⟩, fun h => ⟨?_, ?_, ?_, ?_⟩, fun h => ⟨?_, ?_, ?_, ?_⟩⟩
    · exact toInt_holds _ 32 true rfl h (by decide) (by decide)
    · exact toInt_holds _ 32 false rfl h (by decide) (by decide)
    · exact toInt_holds _ 64 true rfl h (by decide) (by decide)
    · exact toInt_holds _ 64 false rfl h (by decide) (by decide)
    · exact fcvtFromInt_ends (signed := true) rfl h (signedOf_low32 _)
    · exact fcvtFromInt_ends (signed := false) rfl h (toNat_low32 _)
    · exact fcvtFromInt_ends (signed := true) rfl h (signedOf_low64 _)
    · exact fcvtFromInt_ends (signed := false) rfl h (toNat_low64 _)

end Sys2Proof.Machine
end

section
/-!
PROOFS. Accesses to memory: how many bytes a check passes, and what a store through lines that its core holds comes to.
-/

namespace Sys2Proof

/-! ### Little-endian numbers -/

theorem leBytes_length (n v : Nat) : (leBytes n v).length = n := by
  induction n generalizing v with
  | zero => rfl
  | succ n ih => rw [leBytes, List.length_cons, ih]

theorem leNat_lt (bs : List Byte) : leNat bs < 256 ^ bs.length := by
  induction bs with
  | nil => exact Nat.one_pos
  | cons b r ih =>
    have hb := b.isLt
    rw [leNat, List.length_cons, Nat.pow_succ]
    omega

end Sys2Proof

namespace Sys2Proof.Machine

open Sys2Proof.Safety

/-! ### The bytes of a check -/

/-- Only the first byte of an access can be one of control space. -/
theorem State.checkByte_control {s : State} {g p va i n off : Nat} {nd : Need} {prev : Option (List Nat)} {r : ByteRef}
    (h : s.checkByte g p nd va i n prev = .ok r) (ht : r.tgt = .control off) : i = 0 := by
  unfold State.checkByte at h
  dsimp only at h
  split at h
  · cases h
  split at h
  · cases h
  split at h
  · cases h
  split at h
  · cases h
  split at h
  · cases h
  split at h
  case h_1 =>
    split at h
    · cases h
    · omega
  case h_2 =>
    split at h
    · cases h
    · cases h; cases ht
  case h_3 =>
    -- Translated or not, the byte is one of DRAM.
    split at h
    all_goals
      split at h
      · cases h; cases ht
      split at h
      · cases h
      · cases h; cases ht
  case h_4 hc _ _ =>
    cases h
    exact absurd ht (hc off)

/-- The bytes from `i` on are all there, unless byte 0 stands for a register. -/
theorem State.checkFrom_length {s : State} {g p va n i k : Nat} {nd : Need} {prev : Option (List Nat)} {rs : List ByteRef}
    (h : s.checkFrom g p nd va n i k prev = .ok rs) : rs.length = k ∨ (i = 0 ∧ (controlOf rs).isSome) := by
  induction k generalizing i prev rs with
  | zero => simp only [State.checkFrom, Except.ok.injEq] at h; subst h; exact .inl rfl
  | succ k ih =>
    rw [State.checkFrom] at h
    split at h
    · cases h
    next r hr =>
      split at h
      next off hoff =>
        cases h
        exact .inr ⟨State.checkByte_control hr hoff, by rw [controlOf, hoff]; rfl⟩
      next =>
        split at h
        · cases h
        next rs' hrs =>
          cases h
          rcases ih hrs with hl | ⟨hi, -⟩
          · exact .inl (by rw [List.length_cons, hl])
          · omega

theorem oneWindow_length (rs : List ByteRef) : (oneWindow rs).length = rs.length := by
  unfold oneWindow
  split
  · exact List.length_map _
  · rfl

theorem controlOf_oneWindow (rs : List ByteRef) : controlOf (oneWindow rs) = controlOf rs := by
  unfold oneWindow
  split
  · cases rs with
    | nil => rfl
    | cons r rs =>
      rw [List.map_cons, controlOf, controlOf]
      congr 1
      split <;> rfl
  · rfl

/-- A check of `n` bytes that are not of control space passes `n` bytes. -/
theorem State.check_length {s : State} {g p va n : Nat} {nd : Need} {rs : List ByteRef} (h : s.check g p nd va n = .ok rs)
    (hc : controlOf rs = none) : rs.length = n := by
  unfold State.check at h
  cases hf : s.checkFrom g p nd va n 0 n none with
  | error e => rw [hf] at h; cases h
  | ok rs' =>
    rw [hf] at h
    cases h
    rw [controlOf_oneWindow] at hc
    rw [oneWindow_length]
    rcases State.checkFrom_length hf with hl | ⟨-, hs⟩
    · exact hl
    · rw [hc] at hs; cases hs

/-! ### Lines that a core owns -/

/-- Core `c` holds line `l` in M or E. -/
def OwnsLine (s : State) (c l : Nat) : Prop := ∃ st, FMap.find (s.core c).l2 l = some st ∧ st ≠ .shared

theorem OwnsLine.of_l2 {s t : State} {c l : Nat} (h : OwnsLine s c l) (e : (t.core c).l2 = (s.core c).l2) : OwnsLine t c l := by
  unfold OwnsLine; rwa [e]

/-- A store's own core keeps its line. -/
theorem State.dropStray_own_l2 (s : State) (l c : Nat) : ((s.dropStray l (s.reqNo c)).core c).l2 = (s.core c).l2 := by
  simp only [State.core, State.dropStray]
  induction s.cores with
  | nil => rfl
  | cons p r ih =>
    obtain ⟨k, x⟩ := p
    by_cases hk : k = c
    · subst hk
      rw [List.map_cons, if_pos (BEq.rfl)]
      simp only [FMap.get, if_true]
    · rw [List.map_cons]
      split
      · simpa only [FMap.get, hk, if_false] using ih
      split
      · simpa only [FMap.get, hk, if_false] using ih
      · simpa only [FMap.get, hk, if_false] using ih

/-- A store finds a line that its core owns, and leaves the core every line it owned (R456, R460). -/
theorem State.obtain_of_owned {s : State} {c l : Nat} (d : Nat) (h : OwnsLine s c l) :
    ∃ t, s.obtain c d .store l = some t ∧ t.dram = s.dram ∧ ∀ k, OwnsLine s c k → OwnsLine t c k := by
  obtain ⟨st, hf, hs⟩ := h
  -- What the hit does once the line is in M.
  have hit : ∀ w : State, ((w.onCore c (fun x => (x.touch2 (l, dramTag)).fill1 .store (l, dramTag))).dropStray l (w.reqNo c)).dram
        = w.dram ∧ ∀ k, OwnsLine w c k →
        OwnsLine ((w.onCore c (fun x => (x.touch2 (l, dramTag)).fill1 .store (l, dramTag))).dropStray l (w.reqNo c)) c k := by
    intro w
    refine ⟨rfl, fun k hk => hk.of_l2 ?_⟩
    refine (State.dropStray_own_l2 (w.onCore c (fun x => (x.touch2 (l, dramTag)).fill1 .store (l, dramTag))) l c).trans ?_
    rw [State.core_onCore, if_pos rfl]
    rfl
  cases st with
  | modified => exact ⟨_, by simp only [State.obtain, hf]; rfl, hit s⟩
  | exclusive =>
    obtain ⟨hd, ho⟩ := hit (s.onCore c (fun x => { x with l2 := FMap.put x.l2 l .modified }))
    refine ⟨_, by simp only [State.obtain, hf]; rfl, hd, fun k hk => ho k ?_⟩
    unfold OwnsLine
    rw [State.core_onCore, if_pos rfl, FMap.find_put]
    split
    · exact ⟨_, rfl, by decide⟩
    · exact hk
  | shared => exact absurd rfl hs

/-- A store whose lines its core owns obtains them all. -/
theorem State.obtainRefs_of_owned {s : State} {c : Nat} (d : Nat) {rs : List ByteRef} (h : ∀ l ∈ dramLines rs, OwnsLine s c l) :
    ∃ t, s.obtainRefs c d .store rs = some t ∧ t.dram = s.dram := by
  unfold State.obtainRefs
  generalize dramLines rs = ls at h
  induction ls generalizing s with
  | nil => exact ⟨s, rfl, rfl⟩
  | cons l ls ih =>
    obtain ⟨t, ht, hd, ho⟩ := State.obtain_of_owned d (h l List.mem_cons_self)
    obtain ⟨u, hu, hdu⟩ := ih (s := t) (fun k hk => ho k (h k (List.mem_cons_of_mem _ hk)))
    refine ⟨u, ?_, hdu.trans hd⟩
    rw [List.foldl_cons, Option.bind_some, ht]
    exact hu

/-! ### The bytes of a store -/

theorem byte_setPteBits_ne {m : Mem} {pa a : Nat} (bits : Byte) (h : pa ≠ a) : Mem.byte (setPteBits m pa bits) a = Mem.byte m a := by
  unfold setPteBits
  split
  · rw [Mem.byte_setByte, if_neg h]
  · rfl

theorem byte_markPath {path : List Nat} {a : Nat} (m : Mem) (h : a ∉ path) :
    Mem.byte (path.foldl (fun m p => setPteBits m p 0x40) m) a = Mem.byte m a := by
  induction path generalizing m with
  | nil => rfl
  | cons p r ih =>
    simp only [List.mem_cons, not_or] at h
    rw [List.foldl_cons, ih _ h.2, byte_setPteBits_ne _ (Ne.symm h.1)]

/-- The use of a byte changes no byte of DRAM but the entries it marks (R158). -/
theorem State.byte_useRef {s : State} {r : ByteRef} {a : Nat} (g : Nat) (st : Bool) (h : a ∉ marks [r]) :
    Mem.byte (s.useRef g st r).dram a = Mem.byte s.dram a := by
  simp only [marks, List.flatMap_cons, List.flatMap_nil, List.append_nil, List.mem_append, not_or] at h
  unfold State.useRef
  split
  · rfl
  next e he =>
    rw [he] at h
    have hleaf : e.leaf ≠ a := fun hl => h.2 (List.mem_singleton.mpr hl.symm)
    have key : Mem.byte (if st && !e.dirty then setPteBits (r.path.foldl (fun m a => setPteBits m a 0x40) s.dram) e.leaf 0x80
        else r.path.foldl (fun m a => setPteBits m a 0x40) s.dram) a = Mem.byte s.dram a := by
      split
      · rw [byte_setPteBits_ne _ hleaf, byte_markPath _ h.1]
      · rw [byte_markPath _ h.1]
    dsimp only
    split
    · exact key
    · exact key

theorem not_mem_marks_of_mem {rs : List ByteRef} {r : ByteRef} {a : Nat} (h : a ∉ marks rs) (hr : r ∈ rs) : a ∉ marks [r] := by
  simp only [marks, List.mem_flatMap, not_exists, not_and, List.mem_singleton] at h ⊢
  intro q hq
  rw [hq]
  exact h r hr

theorem State.byte_useRefs {s : State} {rs : List ByteRef} {a : Nat} (g : Nat) (st : Bool) (h : a ∉ marks rs) :
    Mem.byte (s.useRefs g st rs).dram a = Mem.byte s.dram a := by
  unfold State.useRefs
  split
  next x y hx hy =>
    rw [State.byte_useRef _ _ (not_mem_marks_of_mem h (List.mem_of_getLast? hy)),
      State.byte_useRef _ _ (not_mem_marks_of_mem h (List.mem_of_head? hx))]
  · rfl

theorem byte_storeRefs_ne {rs : List ByteRef} {a : Nat} (m : Mem) (bs : List Byte) (h : ∀ r ∈ rs, r.pa ≠ a) :
    Mem.byte (storeRefs m rs bs) a = Mem.byte m a := by
  induction rs generalizing m bs with
  | nil => rfl
  | cons r rs ih =>
    cases bs with
    | nil => rfl
    | cons b bs =>
      rw [storeRefs, ih _ _ (fun q hq => h q (List.mem_cons_of_mem _ hq))]
      split
      · rw [Mem.byte_setByte, if_neg (h r List.mem_cons_self)]
      · rfl

/-- Bytes stored at different addresses are there. -/
theorem byte_storeRefs {rs : List ByteRef} (m : Mem) {bs : List Byte} (hl : rs.length ≤ bs.length) (hn : (rs.map (·.pa)).Nodup)
    {i : Nat} {r : ByteRef} (hi : rs[i]? = some r) (ht : r.tgt = .dram) :
    Mem.byte (storeRefs m rs bs) r.pa = bs[i]?.getD 0 := by
  induction rs generalizing m bs i with
  | nil => rw [List.getElem?_nil] at hi; cases hi
  | cons q rs ih =>
    cases bs with
    | nil => exact absurd hl (Nat.not_succ_le_zero _)
    | cons b bs =>
      rw [List.map_cons, List.nodup_cons] at hn
      rw [storeRefs]
      cases i with
      | zero =>
        simp only [List.getElem?_cons_zero, Option.some.injEq] at hi
        subst hi
        rw [byte_storeRefs_ne _ _ (fun p hp e => hn.1 (List.mem_map.mpr ⟨p, hp, e⟩)), ht]
        exact (Mem.byte_setByte ..).trans (if_pos rfl)
      | succ i => exact ih _ (Nat.le_of_succ_le_succ hl) hn.2 hi

/-- A store whose lines its core owns completes within its step, and writes its bytes (R456, R463). -/
theorem State.storeVia_of_held {s : State} {g : Nat} {rs : List ByteRef} {bs : List Byte} (h : Held s (g / 2) true rs)
    (hl : rs.length ≤ bs.length) : ∃ t, s.storeVia g .store rs bs = some t ∧ Stores s t rs bs := by
  obtain ⟨w, hw, hd⟩ := State.obtainRefs_of_owned ((s.domOf g).getD 64) (c := g / 2) (rs := rs) (fun l hm => by
    obtain ⟨st, hf, ho⟩ := h.1 l hm
    exact ⟨st, hf, ho rfl⟩)
  refine ⟨{ w.useRefs g true rs with dram := storeRefs (w.useRefs g true rs).dram rs bs }, ?_, ?_, ?_, ?_⟩
  · unfold State.storeVia
    rw [hw]
    rfl
  · exact ((Marked.obtainRefs hw).trans (Marked.useRefs ..)).trans (Marked.dram ..)
  · intro a ha hm
    rw [byte_storeRefs_ne _ _ ha, State.byte_useRefs _ _ hm, hd]
  · intro hn i r hi ht
    exact byte_storeRefs _ hl hn hi ht

end Sys2Proof.Machine
end

section
/-!
PROOFS. Atomics (R134 to R136, R456, R477).
-/

namespace Sys2Proof.Machine

open Sys2Proof.Safety

/-! ### The parts of an atomic's effect -/

theorem State.storeOverlap_of_inOrder {s : State} {g : Nat} (va n : Nat) (h : InOrder s g) : s.storeOverlap g va n = s := by
  unfold State.storeOverlap
  have hn : ((s.core (g / 2)).spec.find? (fun o => o.acc.thread == g && !o.acc.fetch && !o.dead &&
      (o.at_ == .ready || o.at_ == .sent || o.at_ == .zero) && decide (o.acc.va < va + n) &&
      decide (va < o.acc.va + o.acc.size))) = none := by
    rw [List.find?_eq_none]
    intro o ho hc
    simp only [Bool.and_eq_true, beq_iff_eq, and_assoc] at hc
    exact h o ho hc.1
  simp only [hn]

/-- What runs ahead is not touched by the marks of an access, nor by its thread's registers. -/
theorem inOrder_of_marked {s t : State} {g : Nat} (h : InOrder s g) (hm : Marked s t) : InOrder t g := by
  unfold InOrder
  rw [hm.2 (g / 2)]
  exact h

theorem Thread.dataHits_setReg (t : Thread) (r : Nat) (v : Word) (st : Bool) (va n : Nat) :
    (t.setReg r v).dataHits st va n = t.dataHits st va n := by
  unfold Thread.setReg
  split
  · rfl
  · split <;> rfl

/-- An access that no data breakpoint matches notes none. -/
theorem OnlyThread.noteAccess {z z' : State} {g : Nat} {u : Thread} (h : OnlyThread z z' g u) {st : Bool} {va n : Nat}
    (hd : u.dataHits st va n = []) :
    OnlyThread z (z'.noteAccess g st va n).1 g u ∧ (z'.noteAccess g st va n).2 = false := by
  simp only [State.noteAccess, h.1, hd, Thread.noteHits, List.isEmpty_nil, if_true, Bool.not_true, and_true]
  exact h.onThread (fun t => t)

theorem State.missEvents_not_branch (s : State) (g : Nat) (rs : List ByteRef) : (s.missEvents g rs).contains 0x03 = false := by
  unfold State.missEvents
  dsimp only
  split
  · rfl
  · split <;> split <;> rfl

/-- The effective address is the same in every state that has the thread. -/
theorem State.ea_eq {z s : State} {x : Insn} (o : Op) (h : z.thread x.thread = s.thread x.thread) : z.ea o x = s.ea o x := by
  simp only [State.ea, State.after, h]

theorem Insn.two_pow_width (x : Insn) : 2 ^ x.width = 256 ^ (x.width / 8) := by
  have key : ∀ w, w = 8 ∨ w = 16 ∨ w = 32 ∨ w = 64 → 2 ^ w = 256 ^ (w / 8) := by
    rintro w (rfl | rfl | rfl | rfl) <;> decide
  exact key x.width x.width_cases

/-- The bytes of an access that reaches memory make a number of the width. -/
theorem leNat_lt_of_reached {z : State} {x : Insn} {p a : Nat} {nd : Need} {rs : List ByteRef}
    (h : Reached z x.thread p nd a (x.width / 8) rs) : leNat (z.refBytes x.thread rs) < 2 ^ x.width := by
  obtain ⟨-, -, hcheck, ⟨hctl, -⟩, -⟩ := h
  have := Sys2Proof.leNat_lt (z.refBytes x.thread rs)
  rwa [State.refBytes, List.length_map, State.check_length hcheck hctl, ← Insn.two_pow_width] at this

theorem zeroExtend_ofNat (w n : Nat) : (BitVec.ofNat w n).zeroExtend 64 = BitVec.ofNat 64 (n % 2 ^ w) :=
  BitVec.eq_of_toNat_eq (by
    rw [BitVec.zeroExtend, BitVec.toNat_setWidth, BitVec.toNat_ofNat, BitVec.toNat_ofNat])

/-! ### The row -/

/-- A row that counts a load and completes into `z'`, which is `w` but for its thread, retires with the part of `w`, its
prefetchers trained. -/
theorem State.retiresIn_of_access {s w z' : State} {o : Op} {x : Insn} {body : State → Fin} {evs : List Nat} {u : Thread}
    (h : Issues s o x) (r : (body s).retires = true) (hb : body (fetchedFor s o x) = .done z' none evs false false)
    (h3 : evs.contains 0x03 = false) (h5 : evs.contains 0x05 = true) (hz : OnlyThread w z' x.thread u) :
    RetiresIn s (w.trainPrefetcher x.thread) (s.issue o x body) x.thread (s.after o x) u := by
  have := State.retiresIn_of_onlyThread h r hb hz
  simp only [State.trained, h3, h5, Bool.not_false, Bool.and_true, Bool.false_eq_true, if_false, if_true] at this
  exact this

/-- The effect of an atomic: the fault of a misaligned address, or old value out, new value in. -/
theorem State.atomic_body (x : Insn) (valid : Insn → Bool) (f : Nat → Nat → Nat → Nat → Nat) :
    ∃ body : State → Fin, (∀ s : State, s.atomic x valid f = s.issue (opAtomic valid) x body) ∧
      ∀ z : State,
        let v := z.thread x.thread
        let a := z.ea (opAtomic valid) x
        (a.toNat % (x.width / 8) ≠ 0 → body z = .flt (Flt.mk' 0x07 0x01 a) z) ∧
        ∀ rs, a.toNat % (x.width / 8) = 0 → Reached z x.thread v.ring Need.rmw a.toNat (x.width / 8) rs →
          v.dataHits true a.toNat (x.width / 8) = [] →
            let old := leNat (z.refBytes x.thread rs)
            let new := f x.width old ((v.reg x.rd).toNat % 2 ^ x.width) ((v.reg (x.rd + 1)).toNat % 2 ^ x.width)
            ∃ w z' evs, body z = .done z' none evs false false ∧ evs.contains 0x03 = false ∧ evs.contains 0x05 = true ∧
              Stores z w rs (leBytes (x.width / 8) new) ∧
              OnlyThread w z' x.thread (v.setReg x.rd (BitVec.ofNat 64 (old % 2 ^ x.width))) := by
  refine ⟨_, fun _ => rfl, fun z => ⟨fun ha => if_pos ha, fun rs ha hr hd => ?_⟩⟩
  intro old new
  obtain ⟨hfence, hord, hcheck, ⟨hctl, hsev⟩, -, -, hheld⟩ := hr
  obtain ⟨w, hw, hst⟩ := State.storeVia_of_held (bs := leBytes (x.width / 8) new) hheld
    (Nat.le_of_eq ((State.check_length hcheck hctl).trans (leBytes_length ..).symm))
  have hwrite := (OnlyThread.refl w x.thread).onThread (fun t => t.setReg x.rd (BitVec.ofNat 64 (old % 2 ^ x.width)))
  rw [hst.1.thread] at hwrite
  obtain ⟨hnote, hhit⟩ := hwrite.noteAccess ((Thread.dataHits_setReg ..).trans hd)
  have hover : (w.setInt x.thread x.rd x.width old).storeOverlap x.thread (z.ea (opAtomic valid) x).toNat (x.width / 8) =
      w.setInt x.thread x.rd x.width old := by
    have hw : InOrder w x.thread := inOrder_of_marked hord hst.1
    exact State.storeOverlap_of_inOrder _ _ hw
  have hevs : ([0x05, 0x09] ++ z.missEvents x.thread rs).contains 0x03 = false := State.missEvents_not_branch z x.thread rs
  refine ⟨w, _, _, ?_, hevs, rfl, hst, hnote⟩
  rw [← hhit]
  simp only [ha, ne_eq, not_true_eq_false, if_false, hfence, hcheck, hsev, hw, hover, old, new]
  rfl

/-- The value that an atomic writes, as words of the width. -/
def AtomicIs (w : Nat) (f : Nat → Nat → Nat → Nat → Nat) (op : BitVec w → BitVec w → BitVec w → BitVec w) : Prop :=
  ∀ old d e : BitVec w, f w old.toNat d.toNat e.toNat = (op old d e).toNat

/-- An aligned atomic whose bytes can be had reads, writes and retires in one step; a misaligned one raises its fault. -/
theorem atomic_outcomes {s : State} {i : Instr} {x : Insn} {valid : Insn → Bool} {f : Nat → Nat → Nat → Nat → Nat}
    {op : BitVec x.width → BitVec x.width → BitVec x.width → BitVec x.width} {r0 rs : List ByteRef}
    (he : exec i s = .next (s.atomic x valid f)) (hop : AtomicIs x.width f op) (h : Issues s (opAtomic valid) x) :
    let g := x.thread
    let v := s.thread g
    let w := x.width
    let a := (s.ea (opAtomic valid) x).toNat
    let z := fetchedFor s (opAtomic valid) x
    let old := BitVec.ofNat w (leNat (z.refBytes g rs))
    let new := op old (BitVec.ofNat w (v.reg x.rd).toNat) (BitVec.ofNat w (v.reg (x.rd + 1)).toNat)
    (a % (w / 8) = 0 → Reached s g v.ring Need.rmw a (w / 8) r0 → Reached z g v.ring Need.rmw a (w / 8) rs →
      v.dataHits true a (w / 8) = [] →
        ∃ t s', exec i s = .next t ∧ Stores z s' rs (leBytes (w / 8) new.toNat) ∧
          RetiresIn s (s'.trainPrefetcher g) t g (s.after (opAtomic valid) x) (v.setReg x.rd (old.zeroExtend 64))) ∧
    (a % (w / 8) ≠ 0 → Raises s s i g (Flt.mk' 0x07 0x01 (s.ea (opAtomic valid) x))) := by
  intro g v w a z old new
  obtain ⟨body, hbody, spec⟩ := State.atomic_body x valid f
  rw [hbody] at he
  refine ⟨fun ha hr0 hr hd => ?_, fun ha => raises_of_flt he h ((spec s).1 ha)⟩
  obtain ⟨-, done⟩ := spec z
  have hz : z.thread x.thread = s.thread x.thread := fetchedFor_thread ..
  rw [hz, State.ea_eq _ hz] at done
  obtain ⟨-, _, _, hb0, -⟩ := (spec s).2 r0 ha hr0 hd
  obtain ⟨s', z', evs, hb, h3, h5, hst, honly⟩ := done rs ha hr hd
  have hold : leNat (z.refBytes g rs) = old.toNat := by
    rw [BitVec.toNat_ofNat, Nat.mod_eq_of_lt (leNat_lt_of_reached hr)]
  have hnew : f w (leNat (z.refBytes g rs)) ((v.reg x.rd).toNat % 2 ^ w) ((v.reg (x.rd + 1)).toNat % 2 ^ w) = new.toNat := by
    rw [hold, ← BitVec.toNat_ofNat, ← BitVec.toNat_ofNat]
    exact hop ..
  rw [hnew] at hst
  rw [← zeroExtend_ofNat] at honly
  exact ⟨_, s', he, hst, State.retiresIn_of_access h (by rw [hb0]; rfl) hb h3 h5 honly⟩

/-! ### What each atomic writes -/

section

variable (w : Nat)

theorem swap_is : AtomicIs w (fun _ _ d _ => d) (fun _ d _ => d) := fun _ _ _ => rfl

theorem cas_is : AtomicIs w (fun _ old d e => if old = d then e else old) (fun old d e => if old = d then e else old) := by
  intro old d e
  simp only [apply_ite BitVec.toNat, BitVec.toNat_eq]

theorem aadd_is : AtomicIs w (fun w old d _ => (old + d) % 2 ^ w) (fun old d _ => old + d) :=
  fun old d _ => (BitVec.toNat_add old d).symm

theorem aand_is : AtomicIs w (fun _ old d _ => old &&& d) (fun old d _ => old &&& d) :=
  fun old d _ => (BitVec.toNat_and old d).symm

theorem aor_is : AtomicIs w (fun _ old d _ => old ||| d) (fun old d _ => old ||| d) :=
  fun old d _ => (BitVec.toNat_or old d).symm

theorem axor_is : AtomicIs w (fun _ old d _ => old ^^^ d) (fun old d _ => old ^^^ d) :=
  fun old d _ => (BitVec.toNat_xor old d).symm

theorem amaxu_is : AtomicIs w (fun _ old d _ => max old d) (fun old d _ => if old.ult d then d else old) := by
  intro old d _
  simp only [apply_ite BitVec.toNat, BitVec.ult_iff_lt, BitVec.lt_def]
  split <;> omega

theorem aminu_is : AtomicIs w (fun _ old d _ => min old d) (fun old d _ => if d.ult old then d else old) := by
  intro old d _
  simp only [apply_ite BitVec.toNat, BitVec.ult_iff_lt, BitVec.lt_def]
  split <;> omega

end

theorem signedOf_lt_iff {w : Nat} (hw : 0 < w) (a b : BitVec w) : signedOf w a.toNat < signedOf w b.toNat ↔ a.slt b = true := by
  rw [signedOf_eq_toInt hw, signedOf_eq_toInt hw, BitVec.ofNat_toNat, BitVec.ofNat_toNat, BitVec.setWidth_eq, BitVec.setWidth_eq,
    BitVec.slt_iff_toInt_lt]

theorem amax_is {w : Nat} (hw : 0 < w) :
    AtomicIs w (fun w old d _ => if signedOf w old < signedOf w d then d else old) (fun old d _ => if old.slt d then d else old) := by
  intro old d _
  simp only [signedOf_lt_iff hw, apply_ite BitVec.toNat]

theorem amin_is {w : Nat} (hw : 0 < w) :
    AtomicIs w (fun w old d _ => if signedOf w d < signedOf w old then d else old) (fun old d _ => if d.slt old then d else old) := by
  intro old d _
  simp only [signedOf_lt_iff hw, apply_ite BitVec.toNat]

/-- Settles O12: an atomic holds its lines, so its old bytes leave and its new bytes arrive in the step in which it retires. -/
theorem atomicsReadModifyWrite : Obligations.AtomicsReadModifyWrite := by
  unfold Obligations.AtomicsReadModifyWrite
  intro x s r0 rs g v w any atomic
  have holds : ∀ {i valid f op}, exec i s = .next (s.atomic x valid f) → AtomicIs w f op → atomic i valid op :=
    fun he hop h => atomic_outcomes he hop h
  clear_value atomic
  exact ⟨holds rfl (swap_is w), holds rfl (cas_is w), holds rfl (aadd_is w), holds rfl (aand_is w), holds rfl (aor_is w),
    holds rfl (axor_is w), holds rfl (amax_is x.width_pos), holds rfl (amaxu_is w), holds rfl (amin_is x.width_pos),
    holds rfl (aminu_is w)⟩

end Sys2Proof.Machine
end

section
/-!
PROOFS. Grants: deriving and querying (R174, R177, R182).
-/

namespace Sys2Proof.Machine

open Sys2Proof.Safety

/-! ### Grant Stores -/

theorem GrantStore.entry_setEntry (st : GrantStore) (i j : Nat) (e : Grant) :
    (st.setEntry i e).entry j = if i = j then e else st.entry j := FMap.get_put ..

theorem GrantStore.entry_takeEntry (st : GrantStore) (i j : Nat) : (st.takeEntry i).entry j = st.entry j := by
  unfold GrantStore.takeEntry
  split <;> rfl

/-- A minted entry is in use with the next generation; every other entry is as it was. -/
theorem GrantStore.entry_mint (st : GrantStore) (i j : Nat) (e : Grant) :
    (st.mint i e).entry j = if i = j then { e with inUse := true, gen := nextGen (st.entry i).gen } else st.entry j := by
  rw [GrantStore.mint, GrantStore.entry_setEntry, GrantStore.entry_takeEntry]

theorem GrantStore.handle_mint (st : GrantStore) (i : Nat) (e : Grant) :
    (st.mint i e).handle i = BitVec.ofNat 64 (nextGen (st.entry i).gen * 4096 + i) := by
  simp only [GrantStore.handle, GrantStore.entry_mint, if_true, Nat.reducePow]

/-! ### The store of a thread's domain -/

theorem State.storeOf_eq {s : State} {g d : Nat} (hd : s.domOf g = some d) : s.storeOf g = (s.domain d).store := by
  rw [State.storeOf, hd, Option.getD_some]

theorem State.setStore_eq {s : State} {g d : Nat} (hd : s.domOf g = some d) (st : GrantStore) :
    s.setStore g st = s.onDomain d (fun x => { x with store := st }) := by
  rw [State.setStore, hd]

theorem State.storeOf_of_marked {s t : State} (h : Marked s t) (g : Nat) : t.storeOf g = s.storeOf g := by
  rw [h.1]
  rfl

theorem State.domain_setStore {z : State} {g d : Nat} (hd : z.domOf g = some d) (st : GrantStore) (k : Nat) :
    (z.setStore g st).domain k = if d = k then { z.domain d with store := st } else z.domain k := by
  rw [State.setStore_eq hd]
  exact State.domain_onDomain z d k _

theorem State.threads_setStore (z : State) (g : Nat) (st : GrantStore) : (z.setStore g st).threads = z.threads := by
  unfold State.setStore
  split <;> rfl

theorem State.thread_setStore (z : State) (g k : Nat) (st : GrantStore) : (z.setStore g st).thread k = z.thread k := by
  rw [State.thread, State.threads_setStore]
  rfl

/-- A new store that differs in entries of `p` alone changes nothing else of the part. -/
theorem storeOnly_setStore {z : State} {g d : Nat} {st : GrantStore} {p : Nat → Prop} (hd : z.domOf g = some d)
    (he : ∀ i, ¬p i → st.entry i = (z.storeOf g).entry i) : StoreOnly z (z.setStore g st) d p := by
  rw [State.storeOf_eq hd] at he
  refine ⟨by rw [State.setStore_eq hd]; rfl, fun e hne => ?_, ?_, fun i hi => ?_⟩
  · rw [State.domain_setStore hd, if_neg (Ne.symm hne)]
  · rw [State.domain_setStore hd, if_pos rfl]
  · rw [State.domain_setStore hd, if_pos rfl]
    exact he i hi

/-- A row that writes `st` for the store of its domain and `w` to register `r`, before its bytes are fetched and after, ends with
just that. -/
theorem ends_of_setStore {s : State} {i : Instr} {o : Op} {x : Insn} {body : State → Fin} {d : Nat} {st : GrantStore} {r : Nat}
    {w : Word} {p : Nat → Prop} (he : exec i s = .next (s.issue o x body)) (h : Issues s o x) (hd : s.domOf x.thread = some d)
    (hb : ∀ z : State, z.thread x.thread = s.thread x.thread → z.storeOf x.thread = s.storeOf x.thread →
      body z = .ok ((z.setStore x.thread st).onThread x.thread (fun t => t.setReg r w)))
    (hp : ∀ j, ¬p j → st.entry j = (s.storeOf x.thread).entry j) :
    Ends s i o x (fun s' u => u = (s.thread x.thread).setReg r w ∧
      StoreOnly (fetchedFor s o x) { s' with threads := s.threads } d p ∧ (s'.domain d).store = st) := by
  have hm : Marked s (fetchedFor s o x) := Marked.fetched ..
  have hs : (fetchedFor s o x).storeOf x.thread = s.storeOf x.thread := State.storeOf_of_marked hm _
  have hdz : (fetchedFor s o x).domOf x.thread = some d := (hm.domOf _).trans hd
  have ht : s.threads = ((fetchedFor s o x).setStore x.thread st).threads := by rw [State.threads_setStore, hm.threads]
  refine ⟨_, _, _, he, State.retiresIn_of_done h (by rw [hb s rfl rfl]; rfl) (hb _ (fetchedFor_thread ..) hs) rfl, ?_, ?_, ?_⟩
  · rw [State.thread_onThread_same, State.thread_setStore, fetchedFor_thread]
  · rw [ht]
    exact storeOnly_setStore hdz (by rwa [hs])
  · exact congrArg Domain.store ((State.domain_setStore hdz st d).trans (if_pos rfl))

/-! ### GDERIVE -/

/-- The framing of GDERIVE, 0xF0 0x21. -/
def opDerive : Op := opAuth 1 (fun x => decide (x.rd2 ≤ 30) && isInt x.rs2)

/-- What the checks of GDERIVE `x` by thread state `v` come to, in their order (R177): the subcode of the first that fails, or
the entry to mint. -/
def GrantStore.derive (st : GrantStore) (x : Insn) (v : Thread) : Except Nat Nat :=
  let h := v.reg x.rs2
  let p := st.entry (hIndex h)
  let off := (v.reg x.rd2).toNat
  let len := (v.reg (x.rd2 + 1)).toNat
  let rights := x.immRI.toNat % 256
  let gran := kindGranule p.kind
  if st.check x.thread h = 1 then .error 0x01
  else if st.check x.thread h = 2 then .error 0x02
  else if !p.rights.getLsbD 7 then .error 0x03
  else if rights &&& p.rights.toNat ≠ rights ∨ rights &&& kindRights p.kind ≠ rights ∨ len = 0 ∨ off % gran ≠ 0 ∨
      len % gran ≠ 0 ∨ p.len < off + len then .error 0x05
  else if 15 ≤ p.depth then .error 0x07
  else match st.freeEntry with
    | none => .error 0x06
    | some i => .ok i

/-- The child that GDERIVE `x` by thread state `v` mints (R177), its generation aside. -/
def GrantStore.child (st : GrantStore) (x : Insn) (v : Thread) : Grant :=
  let p := st.entry (hIndex (v.reg x.rs2))
  { Grant.reset with
    kind := p.kind, object := p.object, rights := BitVec.ofNat 8 (x.immRI.toNat % 256), base := p.base + (v.reg x.rd2).toNat,
    len := (v.reg (x.rd2 + 1)).toNat, parent := hIndex (v.reg x.rs2), depth := p.depth + 1, holder := some x.thread }

/-- GDERIVE raises the fault of its checks, or mints the child and writes its handle. -/
theorem gderive_effect (x : Insn) :
    ∃ body : State → Fin, (∀ s, exec (.gderive x) s = .next (s.issue opDerive x body)) ∧
      ∀ z : State,
        let v := z.thread x.thread
        let st := z.storeOf x.thread
        body z = match st.derive x v with
          | .error f => .flt (grantFlt f) z
          | .ok i => .ok ((z.setStore x.thread (st.mint i (st.child x v))).onThread x.thread
              (fun t => t.setReg x.rd2 (BitVec.ofNat 64 (nextGen (st.entry i).gen * 4096 + i)))) := by
  refine ⟨_, fun _ => rfl, fun z => ?_⟩
  simp only [GrantStore.derive, GrantStore.handle_mint]
  split
  · rfl
  split
  · rfl
  split
  · rfl
  split
  · rfl
  split
  · rfl
  cases (z.storeOf x.thread).freeEntry <;> rfl

theorem gderive_raises {x : Insn} {s : State} {f : Nat} (hi : Issues s opDerive x)
    (hf : (s.storeOf x.thread).derive x (s.thread x.thread) = .error f) :
    Raises s s (.gderive x) x.thread (Flt.mk' 0x0C f 0) := by
  obtain ⟨body, he, hb⟩ := gderive_effect x
  exact raises_of_flt (he s) hi (by simp only [hb, hf]; rfl)

theorem gderive_mints {x : Insn} {s : State} {d i : Nat} (hi : Issues s opDerive x) (hd : s.domOf x.thread = some d)
    (hf : (s.storeOf x.thread).derive x (s.thread x.thread) = .ok i) :
    let v := s.thread x.thread
    let st := s.storeOf x.thread
    Ends s (.gderive x) opDerive x (fun s' u =>
      u = v.setReg x.rd2 (BitVec.ofNat 64 (nextGen (st.entry i).gen * 4096 + i)) ∧
      StoreOnly (fetchedFor s opDerive x) { s' with threads := s.threads } d (· = i) ∧
      (s'.domain d).store = st.mint i (st.child x v)) := by
  obtain ⟨body, he, hb⟩ := gderive_effect x
  exact ends_of_setStore (he s) hi hd (fun z hz hs => by simp only [hb, hz, hs, hf])
    (fun j hj => by rw [GrantStore.entry_mint, if_neg (Ne.symm hj)])

/-! ### GQUERY -/

/-- The framing of GQUERY, 0xF0 0x23. -/
def opQuery : Op := opAuth 1 (fun x => isInt x.rd2 && isInt x.rs2 && decide (x.immRI.toNat ≤ 3))

/-- The fields of Table 4-10, by selector. -/
theorem Grant.query_eq (e : Grant) (n : Nat) :
    e.query n =
      if n = 0 then e.kind + e.rights.toNat * 16 + e.depth * 4096 + natOf (decide (e.depth = 0)) * 65536 +
        natOf e.parked.isSome * 131072
      else if n = 1 then e.object else if n = 2 then e.base else e.len := by
  rcases n with _ | _ | _ | n <;> rfl

theorem gquery_gives {x : Insn} {s : State} (hi : Issues s opQuery x) :
    let v := s.thread x.thread
    let st := s.storeOf x.thread
    let h := v.reg x.rs2
    Gives s (.gquery x) opQuery x
      (v.setReg x.rd2 (BitVec.ofNat 64 (if st.check x.thread h = 0 then (st.entry (hIndex h)).query x.immRI.toNat else 0))) := by
  intro v st h
  refine gives_of_onThread (f := fun t => t.setReg x.rd2 _) rfl hi (fun z hz ht => ?_)
  have hs : z.storeOf x.thread = st := by
    rcases hz with rfl | rfl
    · rfl
    · exact State.storeOf_of_marked (Marked.fetched ..) _
  simp only [State.onThread_eq, ht, hs]
  rfl

/-- Settles O21: the checks of GDERIVE in their order, then a mint; GQUERY reads the store and writes its register alone. -/
theorem grantsDeriveAndQuery : Obligations.GrantsDeriveAndQuery := by
  unfold Obligations.GrantsDeriveAndQuery
  intro x s d g v st
  have hst : s.domOf g = some d → st = s.storeOf g := fun hd => (State.storeOf_eq hd).symm
  clear_value st
  intro h p off len rights bad od oq fault hd
  obtain rfl := hst hd
  refine ⟨fun hi => ⟨fun hc => ?_, fun hc => ?_, fun hc => ?_⟩, fun hi => ?_⟩
  · exact gderive_raises hi (if_pos hc)
  · exact gderive_raises hi ((if_neg (by rw [hc]; decide)).trans (if_pos hc))
  · have h1 : ¬(s.storeOf g).check g h = 1 := by rw [hc]; decide
    have h2 : ¬(s.storeOf g).check g h = 2 := by rw [hc]; decide
    refine ⟨fun hD => ?_, fun hD hb => ?_, fun hD hb hp => ?_, fun hD hb hp hf => ?_, fun hD hb hp i hf => ?_⟩
    · exact gderive_raises hi (by rw [GrantStore.derive, if_neg h1, if_neg h2, hD]; rfl)
    all_goals have h3 : ¬(!p.rights.getLsbD 7) = true := by rw [hD]; decide
    · exact gderive_raises hi (by rw [GrantStore.derive, if_neg h1, if_neg h2, if_neg h3, if_pos hb])
    · exact gderive_raises hi (by rw [GrantStore.derive, if_neg h1, if_neg h2, if_neg h3, if_neg hb, if_pos hp])
    all_goals have h7 : ¬15 ≤ p.depth := Nat.not_le.mpr hp
    · exact gderive_raises hi (by rw [GrantStore.derive, if_neg h1, if_neg h2, if_neg h3, if_neg hb, if_neg h7, hf])
    · have hok : (s.storeOf g).derive x v = .ok i := by
        rw [GrantStore.derive, if_neg h1, if_neg h2, if_neg h3, if_neg hb, if_neg h7, hf]
      obtain ⟨t, s', u, he, hr, hu, ho, hs⟩ := gderive_mints hi hd hok
      refine ⟨t, s', u, he, hr, hu, ho, ?_⟩
      rw [hs, GrantStore.entry_mint, if_pos rfl]
      rfl
  · simp only [ne_eq, ite_not, ← Grant.query_eq]
    exact gquery_gives hi

end Sys2Proof.Machine
end

section
/-!
PROOFS. System registers: what WRSR leaves in a performance counter (R29, R276).
-/

namespace Sys2Proof.Machine

open Sys2Proof.Safety

/-! ### Registers kept as plain words -/

theorem Thread.sysGet_sysSet_same (t : Thread) (n : Nat) (w : Word) : (t.sysSet n w).sysGet n = w := FMap.get_set_same ..

theorem Thread.sysGet_sysSet_ne (t : Thread) {n k : Nat} (w : Word) (h : n ≠ k) : (t.sysSet n w).sysGet k = t.sysGet k :=
  FMap.get_set_ne _ _ _ h

/-! ### Counters -/

/-- A write of PMCn sets bits 47:0 and keeps bits 63:48 as they stand. -/
theorem State.sysWrite_pmc (z : State) (g : Nat) {n : Nat} (w : Word) (h1 : 0x710 ≤ n) (h2 : n < 0x718) :
    z.sysWrite g n w =
      z.setThread g ((z.thread g).sysSet n (maskWrite ((z.thread g).sysGet n) w 0xFFFFFFFFFFFF)) := by
  have hr : sysReadOnly n = false := by
    simp only [sysReadOnly, Bool.or_eq_false_iff, Bool.and_eq_false_iff, decide_eq_false_iff_not, beq_eq_false_iff_ne]
    omega
  have hm : sysMask n = 0xFFFFFFFFFFFF := by
    simp (disch := omega) only [sysMask, if_pos, if_neg]
  have hk : sysKeep n w = 0 := by
    simp (disch := omega) only [sysKeep, Sys.tsblim, if_neg]
  simp (disch := omega) only [State.sysWrite, Sys.gtb, Sys.gtl, Sys.xlate, Sys.pmctl, Sys.dbgstat, hr, hm, hk, if_neg,
    Bool.false_eq_true, if_false]
  rfl

/-- The counting of a WRSR's own retirement leaves the counter it wrote as it was written. -/
theorem Thread.sysGet_keepWritten_pmc (t v : Thread) {n : Nat} (h1 : 0x710 ≤ n) (h2 : n < 0x718) :
    (t.keepWritten v n).sysGet n = v.sysGet n := by
  have hn : n ≠ Sys.pmctl := Nat.ne_of_gt (Nat.lt_of_lt_of_le (by decide) h1)
  unfold Thread.keepWritten
  rw [if_neg hn, if_pos ⟨h1, h2⟩, Thread.sysGet_sysSet_ne _ _ hn.symm, Thread.sysGet_sysSet_same]

/-! ### The row -/

theorem sysQueued_eq_false {n : Nat} (h : 0x507 < n) : sysQueued n = false := by
  simp only [sysQueued, Nat.not_le.mpr h, decide_false, Bool.and_false]

/-- The effect of a WRSR that may write its register, outside the Tile Queue. -/
theorem wrsr_effect (x : Insn) :
    ∃ body : State → Fin, (∀ s, exec (.wrsr x) s = .next (s.issue opSys x body)) ∧
      ∀ z : State, (z.thread x.thread).sysFault (x.fld 23 12) true = none → sysQueued (x.fld 23 12) = false →
        body z =
          .wrote (z.sysWrite x.thread (x.fld 23 12) ((z.thread x.thread).reg (x.fld 5 0))) (x.fld 23 12) := by
  refine ⟨_, fun _ => rfl, fun z hf hq => ?_⟩
  simp only [hf, hq]
  rfl

/-- It retires with the write done, and with its own counting undone in a counter that it wrote. -/
theorem wrsr_retires {s : State} {x : Insn} (h : Issues s opSys x)
    (hf : (s.thread x.thread).sysFault (x.fld 23 12) true = none) (hq : sysQueued (x.fld 23 12) = false)
    (hss : (s.thread x.thread).psw.ss = false) :
    let g := x.thread
    let n := x.fld 23 12
    let z := (fetchedFor s opSys x).sysWrite g n ((s.thread g).reg (x.fld 5 0))
    exec (.wrsr x) s = .next ((z.retired g (s.thread g).ring (s.after opSys x) [] (n == 0x100)).onThread g
      (fun u => u.keepWritten (z.thread g) n)) := by
  obtain ⟨body, he, hb⟩ := wrsr_effect x
  have hbf := hb (fetchedFor s opSys x) (by rwa [fetchedFor_thread]) hq
  rw [he, State.issue_of_issues h (by rw [hb s hf hq]; rfl), hbf, hss, fetchedFor_thread]
  rfl

/-- WRSR of PMCn leaves there the bits 47:0 it writes under the bits 63:48 that stood there, its own retirement uncounted. -/
theorem wrsr_pmc_sysGet {s : State} {x : Insn} (h : Issues s opSys x)
    (hf : (s.thread x.thread).sysFault (x.fld 23 12) true = none) (h1 : 0x710 ≤ x.fld 23 12) (h2 : x.fld 23 12 < 0x718)
    (hss : (s.thread x.thread).psw.ss = false) :
    ∃ t, exec (.wrsr x) s = .next t ∧ (t.thread x.thread).sysGet (x.fld 23 12) =
      maskWrite ((s.thread x.thread).sysGet (x.fld 23 12)) ((s.thread x.thread).reg (x.fld 5 0)) 0xFFFFFFFFFFFF := by
  refine ⟨_, wrsr_retires h hf (sysQueued_eq_false (by omega)) hss, ?_⟩
  rw [State.thread_onThread_same, Thread.sysGet_keepWritten_pmc _ _ h1 h2, State.sysWrite_pmc _ _ _ h1 h2,
    State.thread_setThread_same, fetchedFor_thread, Thread.sysGet_sysSet_same]

/-! ### A counter with a bit above its 48 -/

/-- Thread 0 runs at 0x1000 in ring 0 with bit 63 of PMC0 set, in a domain of tile 0 and the first GiB of DRAM. -/
def wideCounter : State :=
  { State.reset with
    threads := [(0, { (Thread.reset 0).sysSet 0x710 0x8000000000000000 with run := .running, ip := 0x1000 })]
    domains := [(0, { Domain.reset with valid := true, tiles := 1, windows := [(0, { base := 0, limit := 2 ^ 30 })] })]
    tileDom := [(0, 0)]
    ddr := { Ddr.reset with trained := true, caps := [(0, 64)], top := 64 * 2 ^ 30 } }

/-- WRSR of PMC0 from w0, by thread 0. -/
def wrsrPmc0 : Insn := { thread := 0, prefixes := [], opnd := 0x710000, imm := 0 }

theorem issues_wideCounter : Issues wideCounter opSys wrsrPmc0 := by
  refine ⟨by decide, by decide, ⟨?_, ?_, ?_, ?_, ?_⟩, ?_⟩ <;> decide

/-- Refutes O17: WRSR of a counter writes its 48 bits and keeps the 16 above them, so where PMC0 holds bit 63 a write of 0 does not
leave 0. The statement speaks of every state, this one too, though counting reduces a counter modulo 2^48. -/
theorem not_systemRegisterAccess : ¬ Obligations.SystemRegisterAccess := by
  unfold Obligations.SystemRegisterAccess
  intro h
  have hfault : (wideCounter.thread 0).sysFault 0x710 true = none := by decide
  obtain ⟨-, hw, -, -⟩ := h.1 wrsrPmc0 wideCounter issues_wideCounter
  obtain ⟨-, -, -, -, hpmc, -⟩ := hw hfault
  obtain ⟨t, ht, hclaim, -⟩ := hpmc (by decide) (by decide) rfl
  obtain ⟨t', ht', hleft⟩ := wrsr_pmc_sysGet issues_wideCounter hfault (by decide) (by decide) rfl
  obtain rfl : t = t' := Host.Outcome.next.inj (ht.symm.trans ht')
  exact absurd (hclaim.symm.trans hleft) (by decide)

end Sys2Proof.Machine
end
